-- ==== Sys2Proof/Word.lean ====
section
/-!
DEFINITION. Word.lean: the byte, the sparse table every memory and register file of the block is held in, and its
plainest operations. A table is a list of (key, value) pairs with strictly rising keys and no entry equal to the value
an unlisted key reads as, so equal contents are equal data.
-/
namespace Sys2Proof

/-- One byte. -/
abbrev Byte := BitVec 8

/-- A sparse table: key and value pairs, keys strictly rising, no default value listed. -/
abbrev Tab (α : Type) := List (Nat × α)

/-- An addressed memory: a table of bytes; an unlisted address reads 0x00. -/
abbrev Mem := List (Nat × BitVec 8)

end Sys2Proof
end

