-- ==== Sys2Proof/Syntax.lean ====
section
/-!
DEFINITION. Syntax.lean: the 205 commands of spec/opcode_table.json, one constructor a row, and the types of their operands.
A command is one step of the part (95_what_each_step_holds.md): something that reaches it from outside, or a step its own
Winder, engines and firmware take. The table gives no operand fields; the operands name what the step acts on and carry
whatever reaches the part from outside in it.
-/
namespace Sys2Proof

/-- The fields of a vector instruction other than its opcode (R209). -/
structure VFields where
  vd : BitVec 5
  va : BitVec 5
  vb : BitVec 5
  vc : BitVec 5
  mask : BitVec 3
  pa : BitVec 4
  imm : BitVec 28
  deriving DecidableEq, Repr, Inhabited

/-- What the reads of a command meet outside the part: bytes of far memory that other agents have written since (key: link half
* 2^64 + host physical address), stretches of far memory (key, length) whose reads the device returns poisoned, and those whose reads
time out or fail IDE's check (R415, R568), and near-memory addresses whose reads the devices report as corrected from now on (R400). -/
structure FarEnv where
  cells : List (Nat × BitVec 8)
  poison : List (Nat × Nat)
  lost : List (Nat × Nat)
  corrected : List Nat
  deriving DecidableEq, Repr, Inhabited

/-- Nothing has changed, and nothing fails. -/
def FarEnv.quiet : FarEnv := ⟨[], [], [], []⟩

/-- What a CXL link half answers when it is trained or a device comes up (R405, R407, R504). -/
structure LinkInfo where
  up : Bool
  /-- A Type 3 device (R405); a Type 1 or 2 device is left unused. -/
  type3 : Bool
  /-- Bytes of capacity the device presents from host physical address 0. -/
  capacity : Nat
  /-- The device offers a Data Object Exchange mailbox (R504). -/
  doe : Bool
  /-- SHA-384 of the root of the device's certificate chain (R504 step 2). -/
  root : BitVec 384
  /-- The key programming succeeds (R504 step 3). -/
  keysOk : Bool
  deriving DecidableEq, Repr, Inhabited

/-- What bring-up finds (R395, R396, R500, R504). -/
structure BringUp where
  /-- Highest rate each of the 32 devices trains at, 0 when it fails at 28 Gb/s. -/
  rates : List Nat
  /-- Density of each device in Gbit, 32 or 64. -/
  densities : List Nat
  /-- Hub SRAM self-test passes. -/
  hubOk : Bool
  /-- The sixteen link halves. -/
  links : List LinkInfo
  /-- A part reset that comes amid the fuse writes of R501, after so many of them. -/
  cut : Option Nat
  deriving DecidableEq, Repr, Inhabited

/-- Where an uncorrectable error is met (R415, R568). -/
inductive ErrorSite where
  | near (addr : BitVec 40)
  | core (core : Fin 16) (addr : BitVec 26)
  | hub (addr : BitVec 26)
  | far (half : Fin 16) (addr : BitVec 64)
  deriving DecidableEq, Repr

/-- What a scrubbing read reports (R401). -/
inductive ScrubResult where
  | clean
  | corrected
  | uncorrected
  deriving DecidableEq, Repr

/-- Cause of a far-link failure (R415). -/
inductive LinkCause where
  | linkDown
  | timeout
  | ideIntegrity
  deriving DecidableEq, Repr

/-- A far-link failure: its cause, and the far address that the part finds it at (R415). -/
structure FarFailure where
  cause : LinkCause
  addr : BitVec 64
  deriving DecidableEq, Repr

/-- What the Headframe reads over AVSBus (R529, R539): of the ten rails the currents in mA, the temperatures in degrees C and the
statuses, and of the four core rails the voltages in mV. -/
structure RailReadings where
  amps : List Nat
  temps : List Int
  status : List (BitVec 16)
  volts : List Nat
  deriving DecidableEq, Repr, Inhabited

/-- The die temperatures that the Headframe reads for an evaluation of R539, in degrees C: the four compute dies, the hub die. -/
structure LimitReadings where
  temps : List Int
  hubTemp : Int
  deriving DecidableEq, Repr, Inhabited

/-- The four register pairs of the Assay that latch (R522). -/
inductive AsyPair where
  | time
  | refused
  | log
  | seq
  deriving DecidableEq, Repr

/-- A read over I3C of a low word, and of `more` registers behind it in the same access (R522). -/
structure I3cRead where
  pair : AsyPair
  more : Nat
  deriving DecidableEq, Repr

/-- What a register access over I3C does behind its offset: it writes `words`, then reads `reads` registers (R522). -/
structure I3cAccess where
  words : List (BitVec 32)
  reads : Nat
  deriving DecidableEq, Repr

/-- The static address that SETDASA is sent to, and the dynamic address it gives (R522). -/
structure AddrGrant where
  static : BitVec 7
  dynamic : BitVec 7
  deriving DecidableEq, Repr

/-- The commands of spec/opcode_table.json. -/
inductive Instr where
  -- boot, resets and identity
  | powerUp
  /-- The rails of R527 in order: 0 to 9 as AVSBus numbers them, and 10, VASY. -/
  | railOutOfTolerance (rail : Fin 11)
  | resetLLow
  /-- `faults` is how many runs of the ROM end in a fatal self-test fault before one ends well; none where none does. -/
  | resetLRise (faults : Option Nat)
  | pePerstLRise
  | pcieLinkDown
  | functionLevelResetPf
  | functionLevelResetVf (lvl : Fin 4)
  | firmwareWindowWrite (fn : Fin 5) (off : BitVec 24) (size : Nat) (data : BitVec 64)
  | commit (fn : Fin 5) (value : BitVec 32)
  | bringupComplete (found : BringUp)
  | ideKeyRefresh (half : Fin 16)
  | debugUnlockToken (token : List Byte)
  -- cadence
  | referenceEdge
  | cycleWord (sync : BitVec 8) (number : BitVec 64) (flags : BitVec 16) (check : BitVec 16)
  | flywheelEdge
  | holdoverBoundary
  | evHoldoverExpired (lvl : Fin 4)
  -- job life, slices, completion
  | jobBegin (lvl : Fin 4) (env : FarEnv)
  | jobStop (lvl : Fin 4)
  | jobStopped (lvl : Fin 4)
  | stallLimit (lvl : Fin 4) (eng : BitVec 8) (ctx : Fin 8)
  | sliceEnd (lvl : Fin 4) (eng : BitVec 8) (progress : Nat)
  | contextSwitch (lvl : Fin 4) (eng : BitVec 8) (slice : Nat)
  | switchComplete (lvl : Fin 4) (eng : BitVec 8)
  | slotWindowEnd (lvl : Fin 4) (eng : BitVec 8) (progress : Nat)
  | commandComplete (lvl : Fin 4) (eng : BitVec 8)
  | ledgerRecordClose (lvl : Fin 4) (tensor : BitVec 16)
  | fillLevelStep (core : Fin 16)
  -- Winder opcodes
  | nop (lvl : Fin 4) (e : Nat)
  | tallyInit (lvl : Fin 4) (e : Nat)
  | tallySignal (lvl : Fin 4) (e : Nat)
  | timerStart (lvl : Fin 4) (e : Nat)
  | timerStop (lvl : Fin 4) (e : Nat)
  | timerClear (lvl : Fin 4) (e : Nat)
  | timerBind (lvl : Fin 4) (e : Nat)
  -- array commands
  | fillSet (lvl : Fin 4) (e : Nat)
  | passFull (lvl : Fin 4) (e : Nat)
  | passFullT (lvl : Fin 4) (e : Nat)
  | passPacked (lvl : Fin 4) (e : Nat)
  | passPackedT (lvl : Fin 4) (e : Nat)
  | passWide (lvl : Fin 4) (e : Nat)
  -- vector engine commands
  | program (lvl : Fin 4) (e : Nat)
  | cvtBf16F32 (lvl : Fin 4) (e : Nat)
  | cvtF32Bf16 (lvl : Fin 4) (e : Nat)
  | cvtA96F32 (lvl : Fin 4) (e : Nat)
  | cvtA96Bf16 (lvl : Fin 4) (e : Nat)
  | cvtMxF32 (lvl : Fin 4) (e : Nat)
  | cvtMxBf16 (lvl : Fin 4) (e : Nat)
  | cvtF32Mx (lvl : Fin 4) (e : Nat)
  | cvtBf16Mx (lvl : Fin 4) (e : Nat)
  | cvtF32Split (lvl : Fin 4) (e : Nat)
  | accCombine (lvl : Fin 4) (e : Nat)
  -- vector instructions, one at a time on the program a core runs
  | vadd (core : Fin 16) (f : VFields)
  | vsub (core : Fin 16) (f : VFields)
  | vmul (core : Fin 16) (f : VFields)
  | vfma (core : Fin 16) (f : VFields)
  | vmin (core : Fin 16) (f : VFields)
  | vmax (core : Fin 16) (f : VFields)
  | vabs (core : Fin 16) (f : VFields)
  | vneg (core : Fin 16) (f : VFields)
  | vdiv (core : Fin 16) (f : VFields)
  | vsqrt (core : Fin 16) (f : VFields)
  | vrsqrt (core : Fin 16) (f : VFields)
  | vrcp (core : Fin 16) (f : VFields)
  | vexp2 (core : Fin 16) (f : VFields)
  | vlog2 (core : Fin 16) (f : VFields)
  | vcmpEq (core : Fin 16) (f : VFields)
  | vcmpLt (core : Fin 16) (f : VFields)
  | vcmpLe (core : Fin 16) (f : VFields)
  | vcmpUn (core : Fin 16) (f : VFields)
  | vsel (core : Fin 16) (f : VFields)
  | vmovi (core : Fin 16) (f : VFields)
  | viadd (core : Fin 16) (f : VFields)
  | visub (core : Fin 16) (f : VFields)
  | vimul (core : Fin 16) (f : VFields)
  | vand (core : Fin 16) (f : VFields)
  | vor (core : Fin 16) (f : VFields)
  | vxor (core : Fin 16) (f : VFields)
  | vshl (core : Fin 16) (f : VFields)
  | vshr (core : Fin 16) (f : VFields)
  | vcvtW (core : Fin 16) (f : VFields)
  | vcvtN (core : Fin 16) (f : VFields)
  | vtag (core : Fin 16) (f : VFields)
  | vperm (core : Fin 16) (f : VFields)
  | vbcast (core : Fin 16) (f : VFields)
  | vredAdd (core : Fin 16) (f : VFields)
  | vredAddx (core : Fin 16) (f : VFields)
  | vredMax (core : Fin 16) (f : VFields)
  | vredMin (core : Fin 16) (f : VFields)
  | vld (core : Fin 16) (f : VFields)
  | vst (core : Fin 16) (f : VFields)
  | vlds (core : Fin 16) (f : VFields)
  | vsts (core : Fin 16) (f : VFields)
  | vgather (core : Fin 16) (f : VFields)
  | vscatter (core : Fin 16) (f : VFields)
  | pset (core : Fin 16) (f : VFields)
  | padd (core : Fin 16) (f : VFields)
  | loop (core : Fin 16) (f : VFields)
  | endloop (core : Fin 16) (f : VFields)
  | fence (core : Fin 16) (f : VFields)
  | endProgram (core : Fin 16) (f : VFields)
  -- Ore Pass
  | spanOpen (lvl : Fin 4) (e : Nat)
  | stage (lvl : Fin 4) (e : Nat)
  | sweep1 (lvl : Fin 4) (e : Nat)
  | finalise (lvl : Fin 4) (e : Nat)
  | sweep2 (lvl : Fin 4) (e : Nat)
  -- Crusher and stem engines
  | clip (lvl : Fin 4) (e : Nat) (env : FarEnv)
  | imageBatch (lvl : Fin 4) (e : Nat) (env : FarEnv)
  | audioBatch (lvl : Fin 4) (e : Nat) (env : FarEnv)
  | crusherOutputDelivery (lvl : Fin 4) (eng : BitVec 8)
  | stemConv (lvl : Fin 4) (e : Nat)
  | stemItemDelivery (lvl : Fin 4) (eng : BitVec 8)
  -- Picking Belt
  | sample (lvl : Fin 4) (e : Nat)
  | route (lvl : Fin 4) (e : Nat)
  | detect (lvl : Fin 4) (e : Nat)
  -- copy engines
  | move (lvl : Fin 4) (e : Nat)
  | zrcPack (lvl : Fin 4) (e : Nat)
  | zrcUnpack (lvl : Fin 4) (e : Nat)
  | fill (lvl : Fin 4) (e : Nat)
  | tapGather (lvl : Fin 4) (e : Nat)
  -- exchange engine
  | contribute (lvl : Fin 4) (e : Nat)
  | reduce (lvl : Fin 4) (e : Nat) (env : FarEnv)
  | gather (lvl : Fin 4) (e : Nat) (env : FarEnv)
  | rosterSync (lvl : Fin 4) (e : Nat) (env : FarEnv)
  | journalRead (lvl : Fin 4) (e : Nat) (env : FarEnv) (changed : Bool)
  | farRead (lvl : Fin 4) (e : Nat) (env : FarEnv)
  | farWrite (lvl : Fin 4) (e : Nat)
  | snapWrite (lvl : Fin 4) (e : Nat) (env : FarEnv)
  | exchangeClose (lvl : Fin 4)
  | stampReread (lvl : Fin 4) (env : FarEnv)
  -- Lamp Room
  | admission (lvl : Fin 4) (batch : Fin 64) (env : FarEnv)
  | batchBoundary (lvl : Fin 4) (batch : Fin 64)
  -- Adit: slots, notices, registers
  | slotOwnerWrite (fn : Fin 5) (off : BitVec 24) (size : Nat) (data : BitVec 64)
  | slotScan (fn : Fin 5)
  | noticePost (fn : Fin 5)
  | msixVectorUnmask (fn : Fin 5) (vec : Fin 64)
  | wcycleLoRead (fn : Fin 5)
  | lstepLoRead (fn : Fin 5) (lvl : Fin 4)
  | timerLoRead (fn : Fin 5) (lvl : Fin 4) (n : Fin 64)
  | registerWrite (fn : Fin 5) (off : BitVec 24) (size : Nat) (data : BitVec 64)
  -- Izsia messages, each acting on the message taken in a slot
  | hello (fn : Fin 5) (slot : Fin 16)
  | levelSet (fn : Fin 5) (slot : Fin 16)
  | jobOpen (fn : Fin 5) (slot : Fin 16) (decl : Option (List Byte)) (env : FarEnv)
  | jobStart (fn : Fin 5) (slot : Fin 16)
  | jobClose (fn : Fin 5) (slot : Fin 16)
  | schedLoad (fn : Fin 5) (slot : Fin 16) (image : Option (List Byte))
  | reqSubmit (fn : Fin 5) (slot : Fin 16)
  | reqCancel (fn : Fin 5) (slot : Fin 16)
  | reqStreamRead (fn : Fin 5) (slot : Fin 16)
  | reqStreamSetNotify (fn : Fin 5) (slot : Fin 16)
  | reqPages (fn : Fin 5) (slot : Fin 16)
  | snapTake (fn : Fin 5) (slot : Fin 16)
  | snapRestore (fn : Fin 5) (slot : Fin 16) (env : FarEnv)
  /-- `faults` names, as (source, chunk), the chunk at which a source's read fails or its stamp is found changed. -/
  | snapFill (fn : Fin 5) (slot : Fin 16) (env : FarEnv) (faults : List (Nat × Nat))
  | rosterJoin (fn : Fin 5) (slot : Fin 16)
  | rosterLeave (fn : Fin 5) (slot : Fin 16)
  | ledgerRead (fn : Fin 5) (slot : Fin 16)
  | assayReadNew (fn : Fin 5) (slot : Fin 16)
  | assayReadBySeq (fn : Fin 5) (slot : Fin 16)
  | assayReadLog (fn : Fin 5) (slot : Fin 16)
  | assayReadCert (fn : Fin 5) (slot : Fin 16)
  | attestQuote (fn : Fin 5) (slot : Fin 16)
  | logExport (fn : Fin 5) (slot : Fin 16)
  | tallyLogEntry (lvl : Fin 4)
  | replayStart (fn : Fin 5) (slot : Fin 16) (log : Option (List Byte))
  -- errors and devices
  | uncorrectableErrorDetected (lvl : Fin 4) (eng : BitVec 8) (site : ErrorSite)
  | dieLinkFailure (link : Fin 10)
  | patrolScrub (dev : Fin 32) (addr : Nat) (res : ScrubResult)
  | deviceAdded (half : Fin 16) (info : LinkInfo)
  | deviceRemoved (half : Fin 16)
  -- power and thermal
  | loadForecastFrame (lvl : Fin 4) (e : Nat)
  | currentSample (r : RailReadings)
  | limitEvaluation (r : LimitReadings)
  | binChange (quad : Fin 4)
  | adaptiveVoltageAdjust (quad : Fin 4) (up : Bool)
  | avsbusFailure (rail : Fin 10) (status : BitVec 16)
  | droopDetect (quad : Fin 4)
  -- Assay
  | assayFrame
  | frameMissing
  | missingCycleTick
  | railSample (volts : List (BitVec 16)) (amps : List (BitVec 16))
  | mramCommit
  | recordSigned
  | vasyLost
  | vasyRestored
  | undefinedLinkFrame (kind : BitVec 8)
  | newRecord (chan : BitVec 3)
  | loadRecord (chan : BitVec 3)
  | loadLog
  | loadCert
  | calibration (cmd : BitVec 4)
  | asyLoRead (reg : I3cRead)
  | i3cRegisterWrite (off : BitVec 16) (data : I3cAccess)
  | entdaa (addr : BitVec 7)
  | setdasa (addr : AddrGrant)
  | rstdaa
  | getpid
  | getbcr
  | getdcr
  | getstatus
  -- later rows of the table
  | replyPosted (fn : Fin 5) (slot : Fin 16) (env : FarEnv)
  | slotWindowStart (lvl : Fin 4) (eng : BitVec 8)
  | cxlLinkDown (half : Fin 16) (cause : FarFailure)
  | droopRecovery (quad : Fin 4)
  deriving DecidableEq, Repr

end Sys2Proof
end

