-- ==== Sys2Proof/Decode.lean ====
section
/-!
DEFINITION. Decode.lean: the rows of spec/opcode_table.json give no bits (every row's "fields" is empty), so no word
spells a command.
-/
namespace Sys2Proof

/-- The command a word spells by the table's bits: the table gives no row any bits. -/
def decodeTableWord (_nbits _w : Nat) : Option Instr := none

end Sys2Proof
end

