-- ==== Sys2Proof/Config.lean ====
section
/-!
DEFINITION. Config.lean: what one part fixes (fused values, keys, strap-like settings) and the free values: constants
without a body, so that no statement can rest on a value the spec leaves open.
-/
namespace Sys2Proof.Config

/-- A free byte, by a number that no two uses share (State.freeCtr). -/
opaque freeByte : Nat → BitVec 8

/-- A free binary word of 64 bits, by a number that no two uses share (State.freeCtr). -/
opaque freeWord : Nat → BitVec 64

/-- The word that ACC_COMBINE gives when a carry finds the anchor code at 1023 (R173 states no result). -/
opaque anchorOverflow : BitVec 96 → BitVec 96 → BitVec 96

/-! ### What the media standards of R245 make of a bitstream

The standards are not part of the spec. Each decoder below gives what its standard's syntax and decoding process give, up to
where R256 to R261 say how the Crusher goes on; none where no headers can be read. -/

/-- How decoding a bitstream ends: at its end, at a syntax or decoding error or an early end, or at a feature that R246 does not
support. -/
inductive MediaEnd where
  | whole
  | corrupt
  | unsupported
  deriving DecidableEq, Repr, Inhabited

/-- A component of a JPEG frame: its sampling factors, its blocks per row of blocks, and its dequantised coefficient blocks, each
row by row. -/
structure JpegComponent where
  h : Nat
  v : Nat
  cols : Nat
  blocks : List (List Int)
  deriving DecidableEq, Repr, Inhabited

/-- A JPEG image: the number n of its frame's SOFn marker, its sample precision and its components. -/
structure Jpeg where
  width : Nat
  height : Nat
  sof : Nat
  precision : Nat
  components : List JpegComponent
  ends : MediaEnd
  deriving DecidableEq, Repr, Inhabited

/-- A PNG image: colour type, bit depth, the samples of each channel but alpha (palette indices for colour type 3), the palette
and the alpha plane, at the depth of R257. -/
structure Png where
  width : Nat
  height : Nat
  colourType : Nat
  bitDepth : Nat
  samples : List (List Nat)
  palette : List (Nat × Nat × Nat)
  alpha : Option (List Nat)
  ends : MediaEnd
  deriving DecidableEq, Repr, Inhabited

/-- The matrices that a video stream may signal (R257). -/
inductive Matrix where
  | bt601
  | bt709
  | bt2020
  deriving DecidableEq, Repr, Inhabited

/-- A decoded video picture: its samples, the matrix and range its stream signals, and the access units and bitstream bytes that
have been decoded when it is output. -/
structure Frame where
  width : Nat
  height : Nat
  luma : List Nat
  /-- Cb and Cr, none for a monochrome picture. -/
  chroma : Option (List Nat × List Nat)
  matrix : Option Matrix
  fullRange : Option Bool
  units : Nat
  bytes : Nat
  deriving DecidableEq, Repr, Inhabited

/-- Video profiles of R245, and every other one. -/
inductive Profile where
  | high
  | high10
  | main
  | main10
  | other
  deriving DecidableEq, Repr, Inhabited

/-- A video stream: profile, level in tenths, bit depth, whether it codes fields as pictures (R246), whether it has film-grain
parameters, its pictures in output order, its access units, and the pieces (offset, bytes) its decoder keeps in the DPB area. -/
structure Video where
  width : Nat
  height : Nat
  profile : Profile
  level : Nat
  depth : Nat
  fields : Bool
  grain : Bool
  frames : List Frame
  units : Nat
  ends : MediaEnd
  dpb : List (Nat × List (BitVec 8))
  deriving DecidableEq, Repr, Inhabited

/-- How an audio stream codes its samples. -/
inductive AudioCoding where
  | integer (bits : Nat)
  | float32
  | other
  deriving DecidableEq, Repr, Inhabited

/-- An audio stream: sample rate, coding, whether a FLAC stream is a subset stream, and the codes of each channel: signed integers,
or binary32 codes as naturals. -/
structure Audio where
  rate : Nat
  coding : AudioCoding
  subset : Bool
  channels : List (List Int)
  ends : MediaEnd
  deriving DecidableEq, Repr, Inhabited

/-- ITU-T T.81. -/
opaque parseJpeg : List (BitVec 8) → Option Jpeg

/-- ISO/IEC 15948. -/
opaque parsePng : List (BitVec 8) → Option Png

/-- H.264, H.265 and AV1, by KIND (R251). -/
opaque parseVideo : Nat → List (BitVec 8) → Option Video

/-- RIFF WAVE, FLAC and Opus, by KIND (R251). -/
opaque parseAudio : Nat → List (BitVec 8) → Option Audio

/-- One audio sample as the filter of R260 takes it: v * 2^-k, or the binary32 code of an infinity or NaN. -/
inductive Sample where
  | exact (v : Int) (k : Nat)
  | code (c : BitVec 32)
  deriving DecidableEq, Repr, Inhabited

/-- A coefficient of the 64-tap polyphase filter of R260 in units of 2^-24, built into the silicon: source rate, output rate, phase
and tap. -/
opaque tapCoef : Nat → Nat → Nat → Nat → Int

/-- How many output samples the filter gives, and how far its first tap lies before the source sample of an output: source rate,
output rate, and how many samples come in (R260 states neither). -/
opaque resampledLength : Nat → Nat → Nat → Nat

/-- How far the first tap lies before the source sample of an output: source rate, output rate. -/
opaque tapLead : Nat → Nat → Nat

/-- The sample that the filter takes beyond an end of the source, by the source and the index (R260 states none). -/
opaque beyondEnd : List Sample → Int → Sample

/-- The output in units of 2^-24 for an exact sum v * 2^-(24 + k) that is no multiple of 2^-24 (R260 states no rounding). -/
opaque tapRound : Int → Nat → Int

/-- The output in units of 2^-24 where a tap meets an infinity or a NaN (R260 states none): the 64 samples. -/
opaque tapOpen : List Sample → Int

/-- The 16-bit code of an output that lies outside 16 bits, or is no number (R261 states none): sign, magnitude and exponent of the
value. -/
opaque mediaCode : Bool → Nat → Int → BitVec 16

/-- The log-probability fields of a result record of a row that has no token (R326 states none): step and row. -/
opaque noTokenLogp : Nat → Nat → BitVec 64

/-- A gate over a set whose base-2 sum has no value (R330 states none): the logits of the token, and the rank. -/
opaque openGate : List (BitVec 32) → Nat → BitVec 32

/-- The bytes of the AMAX area where shard 0 has no contribution to take a maximum of, or is absent (R391 states none): step
and byte. -/
opaque openAmax : Nat → Nat → BitVec 8

/-- TOP_BIN of IDPART (R3, R476), fused at manufacture: false is GLP-4816-33-LA, true is GLP-4816-36-LA. -/
opaque fusedTop36 : Bool

/-- Top bin of the part in units of 100 MHz (R3). -/
def topBin : Nat := if fusedTop36 then 36 else 33

/-- The fused digest of the firmware signing key of each KEY_INDEX (R499). -/
opaque fusedKeyDigest : Nat → BitVec 384

/-- The anti-rollback counter and the revoked keys as the fuses hold them when the model starts (R501). -/
opaque fusedRollback : Nat

/-- The revoked KEY_INDEX bits as the fuses hold them when the model starts (R501). -/
opaque fusedRevoked : BitVec 4

/-- The device secret of the fuses (R502). -/
opaque deviceSecret : BitVec 384

/-- The message under which the identity key's scalar is derived from the device secret: R502 gives none
(notes/assumptions/118.md). -/
opaque identityLabel : List Byte

/-- The current in mA that stands for the readings of AVSBus rail 4 to 9 once they are lost, by the rail and the core current that
R532 models in 1/36 A: R532 models no such rail (notes/assumptions/114.md). -/
opaque modelledRail : Nat → Nat → Nat

/-- The PCIe link goes down since PE_PERST_L has gone low, rather than by itself (R493), by the number of the free value: the row
names both causes and does not tell them apart (notes/assumptions/112.md). -/
opaque perstFalls : Nat → Bool

/-- The units that the Assay's self-test finds failing as VASY returns (R520), by the number of the free value
(notes/assumptions/119.md). -/
opaque selfTestFails : Nat → List (BitVec 8)

/-- The private scalar of the Assay's signing key (R517), sealed. -/
opaque assayScalar : Nat

/-- The secret number of a signature, by a number that no two signatures share (State.freeCtr): R502 and R517 leave how it is
chosen open. -/
opaque signNonce : Nat → Nat

/-- V(b) of a quadrant for a bin in 100 MHz as the fuses hold it. -/
opaque voltageTable : Nat → Nat → Nat

/-- V(b) of a quadrant for a bin in 100 MHz, in mV: from 600 to 850 (R530). -/
def binVolts (q b : Nat) : Nat := max 600 (min 850 (voltageTable q b))

/-- The Assay's ROM_VERSION and ASSAY_ID (R509, R522), sealed. -/
opaque romVersion : BitVec 8

/-- ASSAY_ID (R509), sealed. -/
opaque assayId : BitVec 128

/-- Energy in 2^-16 microjoule that one 1 MHz sample of a rail stands for, from its voltage and current codes under the
sealed calibration constants (R509, R511). -/
opaque railEnergy : Nat → BitVec 16 → BitVec 16 → Nat

/-- A voltage and current sample of a rail lies inside the measuring range (R520, RAIL_RANGE). -/
opaque railInRange : Nat → BitVec 16 → BitVec 16 → Bool

/-- The identity certificate in DER (R503) and the Assay's certificate (R519), held in ROM. -/
opaque identityCert : List Byte

/-- The Assay's certificate in DER (R519), held in its ROM. -/
opaque assayCert : List Byte

/-- Whether a token, signed by Vouneo's debug key, binds an IDENTITY to a challenge (R506 gives no layout). -/
opaque debugTokenOk : List Byte → BitVec 384 → List Byte → Bool

/-- The JOB_STATE byte of a quote of a Level whose job is OPEN, RUNNING or STOPPED (0, 1, 2): R503 points at R426, which gives
its states no codes. -/
opaque jobStateCode : Nat → BitVec 8

/-- What the Assay answers to GETPID, GETBCR and GETDCR (R522 gives no values). -/
opaque i3cPid : List Byte

/-- The answer to GETBCR. -/
opaque i3cBcr : BitVec 8

/-- The answer to GETDCR. -/
opaque i3cDcr : BitVec 8

/-- FW_DIGEST, SVN and the debug state as bytes of the message that the attestation key is derived from: R502 gives no layout. -/
opaque akContext : BitVec 384 → Nat → Bool → List Byte

/-- ASY_SEQ while no record has been signed: R522 gives the RECORD_SEQ of the newest one. -/
opaque noRecordSeq : BitVec 64

end Sys2Proof.Config
end

