-- ==== Sys2Proof/Machine/Tab.lean ====
section
/-!
DEFINITION. Machine/Tab.lean: reading and writing sparse tables and byte memories. A write keeps the canonical form:
keys strictly rising, no entry equal to the value an unlisted key reads as.
-/
namespace Sys2Proof.Machine

/-- The value at a key; the default where it is not listed. -/
def tabGet {α : Type} (d : α) : Tab α → Nat → α
  | [], _ => d
  | (k, v) :: t, a => if a = k then v else tabGet d t a

/-- Drop every entry of a key. -/
def tabDrop {α : Type} (t : Tab α) (k : Nat) : Tab α := t.filter fun kv => decide (kv.1 ≠ k)

/-- Write a value at a key, keeping the canonical form. -/
def tabPut {α : Type} [DecidableEq α] (d : α) : Tab α → Nat → α → Tab α
  | [], k, v => if v = d then [] else [(k, v)]
  | (k', v') :: t, k, v =>
    if k < k' then (if v = d then tabDrop ((k', v') :: t) k else (k, v) :: (k', v') :: t)
    else if k = k' then (if v = d then tabDrop t k else (k, v) :: t)
    else (k', v') :: tabPut d t k v

/-- Every key of the table is above a bound, keys rise strictly, and no entry holds the default. -/
def tabWfFrom {α : Type} [DecidableEq α] (d : α) : Nat → Tab α → Bool
  | _, [] => true
  | lo, (k, v) :: t => decide (lo ≤ k) && decide (v ≠ d) && tabWfFrom d (k + 1) t

/-- The canonical form of a table. -/
def tabWf {α : Type} [DecidableEq α] (d : α) (t : Tab α) : Bool := tabWfFrom d 0 t

/-- The canonical form of a memory. -/
abbrev Memory.wf (m : Mem) : Bool := tabWf (0 : Byte) m

/-- Read one byte. -/
def memGet (m : Mem) (a : Nat) : Byte := tabGet 0 m a

/-- Write one byte. -/
def memPut (m : Mem) (a : Nat) (b : Byte) : Mem := tabPut 0 m a b

/-- Write bytes at rising addresses from `a`. -/
def memWrite (m : Mem) : Nat → List Byte → Mem
  | _, [] => m
  | a, b :: bs => memWrite (memPut m a b) (a + 1) bs

/-- Read `n` bytes from `a`. -/
def memRead (m : Mem) (a n : Nat) : List Byte := (List.range n).map fun i => memGet m (a + i)

/-- Keep only the entries whose key satisfies `p`: the others read as the default afterwards. -/
def tabFilter {α : Type} (p : Nat → Bool) (t : Tab α) : Tab α := t.filter fun kv => p kv.1

/-- Zero the addresses from `a` up to `a + n - 1`. -/
def memZero (m : Mem) (a n : Nat) : Mem := tabFilter (fun k => !(decide (a ≤ k) && decide (k < a + n))) m

/-- Write a list of (address, byte) pairs, in order. -/
def memOverlay (m : Mem) (cells : List (Nat × BitVec 8)) : Mem :=
  cells.foldl (fun m c => memPut m c.1 c.2) m

end Sys2Proof.Machine
end

