-- ==== Sys2Proof/Machine/Bits.lean ====
section
/-!
DEFINITION. Machine/Bits.lean: bit fields, little-endian bytes, integer square roots, and the CRCs of R33 and R197.
-/
namespace Sys2Proof.Machine

/-- Bits [lo + w - 1 : lo] of a number. -/
def bitField (v lo w : Nat) : Nat := v / 2 ^ lo % 2 ^ w

/-- Bit `i` of a number. -/
def bitAt (v i : Nat) : Bool := bitField v i 1 == 1

/-- The little-endian number in some bytes (R57). -/
def leNat : List Byte → Nat
  | [] => 0
  | b :: bs => b.toNat + 256 * leNat bs

/-- `n` little-endian bytes of a number. -/
def leBytes : Nat → Nat → List Byte
  | 0, _ => []
  | n + 1, v => BitVec.ofNat 8 v :: leBytes n (v / 256)

/-- The big-endian number in some bytes (R496: keys and signatures). -/
def beNat (bs : List Byte) : Nat := bs.foldl (fun acc b => acc * 256 + b.toNat) 0

/-- `n` big-endian bytes of a number. -/
def beBytes (n v : Nat) : List Byte := (leBytes n v).reverse

/-- The little-endian number of `n` bytes of a byte list from offset `o`; bytes beyond the end read 0. -/
def listLe (bs : List Byte) (o n : Nat) : Nat := leNat ((bs.drop o).take n)

/-- Some bytes of a byte list. -/
def listSlice (bs : List Byte) (o n : Nat) : List Byte := (bs.drop o).take n

/-- Every byte of a list is zero. -/
def allZero (bs : List Byte) : Bool := bs.all (fun b => b == 0)

/-- A number in `n` little-endian bytes of a memory. -/
def memLe (m : Mem) (a n : Nat) : Nat := leNat (memRead m a n)

/-- The least integer not below `a / b`. -/
def ceilDiv (a b : Nat) : Nat := (a + b - 1) / b

/-- One bit of an integer square root, from bit `i` down. -/
def isqrtFrom (n : Nat) : Nat → Nat → Nat
  | 0, r => if (r + 1) * (r + 1) ≤ n then r + 1 else r
  | i + 1, r =>
    let r' := r + 2 ^ (i + 1)
    isqrtFrom n i (if r' * r' ≤ n then r' else r)

/-- The integer part of a square root. -/
def isqrt (n : Nat) : Nat := if n = 0 then 0 else isqrtFrom n (Nat.log2 n / 2 + 1) 0

/-- One bit of a CRC: shift left, reduce by the polynomial when the top bit leaves. -/
def crcBit (w poly : Nat) (c : Nat) : Nat :=
  if c / 2 ^ (w - 1) % 2 = 1 then (c * 2 % 2 ^ w) ^^^ poly else c * 2 % 2 ^ w

/-- One byte of a CRC of width `w`, most significant bit first. -/
def crcByte (w poly : Nat) (c : Nat) (b : Byte) : Nat :=
  (List.range 8).foldl (fun c _ => crcBit w poly c) (c ^^^ (b.toNat * 2 ^ (w - 8)))

/-- CRC-64 of R197: ECMA-182 polynomial, initial value zero, no reflection, no final XOR. -/
def crc64 (bs : List Byte) : Nat := bs.foldl (crcByte 64 0x42F0E1EBA9EA3693) 0

/-- CRC-64 going on from an earlier value. -/
def crc64From (c : Nat) (bs : List Byte) : Nat := bs.foldl (crcByte 64 0x42F0E1EBA9EA3693) c

/-- CRC-16 of R33: polynomial 0x1021, initial value 0xFFFF, not reflected, no final XOR, over the cycle number and the
flags in transmission order (most significant bit first). -/
def cycleWordCheck (number : BitVec 64) (flags : BitVec 16) : BitVec 16 :=
  BitVec.ofNat 16 ((beBytes 8 number.toNat ++ beBytes 2 flags.toNat).foldl (crcByte 16 0x1021) 0xFFFF)

end Sys2Proof.Machine
end

