-- ==== Sys2Proof/Machine/Sha.lean ====
section
/-!
DEFINITION. Machine/Sha.lean: SHA-384, which the spec names (R8, R445, R496, R502, R520) and does not define; it is taken
from FIPS 180-4 (PRESUMED, notes/assumptions/5.md).
-/
namespace Sys2Proof.Machine

/-- The eighty round constants as one number, the constant of round i in bits [64 * i + 63:64 * i]. -/
def shaK : Nat :=
  0x00000000000000000000000000000000000000006c44198c4a4758175fcb6fab3ad6faec597f299cfc657e2a4cc5d4becb3e42b6431d67c49c100d4c * 2 ^ 4800
    + 0x3c9ebe0a15c9bebc32caab7b40c7249328db77f523047d841b710b35131c471b113f9804bef90dae0a637dc5a2c898a606f067aa72176fbaf57d4f7f * 2 ^ 4320
    + 0xee6ed178eada7dd6cde0eb1ed186b8c721c0c207ca273eceea26619cc67178f2e372532bbef9a3f7b2c67915a4506cebde82bde990befffa23631e28 * 2 ^ 3840
    + 0x8cc702081a6439ec84c87814a1f0ab7278a5636f43172f60748f82ee5defb2fc682e6ff3d6b2b8a35b9cca4f7763e3734ed8aa4ae3418acb391c0cb3 * 2 ^ 3360
    + 0xc5c95a6334b0bcb5e19b48a82748774cdf8eeb991e376c085141ab5319a4c116b8d2d0c8106aa07032bbd1b8f40e35855771202ad69906245565a910 * 2 ^ 2880
    + 0xd192e819d6ef5218c76c51a30654be30c24b8b70d0f89791a81a664bbc423001a2bfe8a14cf1036492722c851482353b81c2c92e47edaee6766a0abb * 2 ^ 2400
    + 0x3c77b2a8650a73548baf63de53380d139d95b3df4d2c6dfc5ac42aed2e1b21385c26c92627b70a8546d22ffc142929670a0e6e7006ca6351e003826f * 2 ^ 1920
    + 0xd5a79147930aa725c6e00bf33da88fc2bf597fc7beef0ee4b00327c898fb213fa831c66d2db43210983e5152ee66dfab76f988da831153b55cb0a9dc * 2 ^ 1440
    + 0xbd41fbd44a7484aa6ea6e4832de92c6f592b0275240ca1cc77ac9c650fc19dc68b8cd5b5efbe4786384f25e3e49b69c19ef14ad2c19bf174cf692694 * 2 ^ 960
    + 0x9bdc06a725c7123580deb1fe3b1696b172be5d74f27b896f550c7dc3d5ffb4e2243185be4ee4b28c12835b0145706fbed807aa98a3030242ab1c5ed5 * 2 ^ 480
    + 0xda6d8118923f82a4af194f9b59f111f1b605d0193956c25bf348b538e9b5dba58189dbbcb5c0fbcfec4d3b2f7137449123ef65cd428a2f98d728ae22

/-- The eight working variables, each below 2^64. -/
structure ShaVars where
  a : Nat
  b : Nat
  c : Nat
  d : Nat
  e : Nat
  f : Nat
  g : Nat
  h : Nat

/-- The working variables as SHA-384 starts from them. -/
def ShaVars.initial : ShaVars :=
  { a := 0xcbbb9d5dc1059ed8,
    b := 0x629a292a367cd507,
    c := 0x9159015a3070dd17,
    d := 0x152fecd8f70e5939,
    e := 0x67332667ffc00b31,
    f := 0x8eb44a8768581511,
    g := 0xdb0c2e0d64f98fa7,
    h := 0x47b5481dbefa4fa4 }

/-- The sum, bit by bit, of a 64-bit number rotated right by each of some distances. -/
def rotated (x : Nat) (by_ : List Nat) : Nat := by_.foldl (fun v r => v ^^^ (x / 2 ^ r + x % 2 ^ r * 2 ^ (64 - r))) 0

/-- One round, on its schedule word and its constant together. The choice takes the bits of `f` where `e` has a one, else those of
`g`; the majority is what two of `a`, `b` and `c` agree on. -/
def ShaVars.round (v : ShaVars) (kw : Nat) : ShaVars :=
  let choice := v.g ^^^ (v.e &&& (v.f ^^^ v.g))
  let majority := (v.a &&& (v.b ||| v.c)) ||| (v.b &&& v.c)
  let t := v.h + rotated v.e [14, 18, 41] + choice + kw
  { a := (t + rotated v.a [28, 34, 39] + majority) % 2 ^ 64, b := v.a, c := v.b, d := v.c, e := (v.d + t) % 2 ^ 64, f := v.e, g := v.f,
    h := v.g }

/-- The schedule word that follows sixteen others, which are given oldest first. -/
def scheduleNext (w : List Nat) : Nat :=
  let near := w.getD 14 0
  let far := w.getD 1 0
  (w.getD 0 0 + w.getD 9 0 + (rotated far [1, 8] ^^^ far / 2 ^ 7) + (rotated near [19, 61] ^^^ near / 2 ^ 6)) % 2 ^ 64

/-- Some rounds: the constants still to come, lowest first, and the sixteen schedule words from this round's on. -/
def shaRounds : Nat → Nat → List Nat → ShaVars → ShaVars
  | 0, _, _, v => v
  | n + 1, k, w, v => shaRounds n (k / 2 ^ 64) (w.drop 1 ++ [scheduleNext w]) (v.round (w.headD 0 + k % 2 ^ 64))

/-- Add two sets of working variables. -/
def ShaVars.plus (u v : ShaVars) : ShaVars :=
  { a := (u.a + v.a) % 2 ^ 64, b := (u.b + v.b) % 2 ^ 64, c := (u.c + v.c) % 2 ^ 64, d := (u.d + v.d) % 2 ^ 64,
    e := (u.e + v.e) % 2 ^ 64, f := (u.f + v.f) % 2 ^ 64, g := (u.g + v.g) % 2 ^ 64, h := (u.h + v.h) % 2 ^ 64 }

/-- The message, padded to whole blocks of 128 bytes: a one bit, zeros, and its length in bits. -/
def shaPadded (bs : List Byte) : List Byte :=
  bs ++ (0x80 : Byte) :: List.replicate ((239 - bs.length % 128) % 128) 0 ++ beBytes 16 (8 * bs.length)

/-- Take up the blocks of a padded message, one after another. -/
def shaBlocks : Nat → List Byte → ShaVars → ShaVars
  | 0, _, v => v
  | n + 1, bs, v =>
    shaBlocks n (bs.drop 128) (v.plus (shaRounds 80 shaK ((List.range 16).map fun i => beNat (listSlice bs (8 * i) 8)) v))

/-- SHA-384 of a message, as a big-endian number of 384 bits: the first six of the final variables. -/
def sha384 (bs : List Byte) : BitVec 384 :=
  let m := shaPadded bs
  let v := shaBlocks (m.length / 128) m .initial
  BitVec.ofNat 384 (v.f + v.e * 2 ^ 64 + v.d * 2 ^ 128 + v.c * 2 ^ 192 + v.b * 2 ^ 256 + v.a * 2 ^ 320)

/-- The 48 bytes of a digest, in the order SHA-384 writes them. -/
def shaBytes (d : BitVec 384) : List Byte := beBytes 48 d.toNat

/-- HMAC-SHA-384 (RFC 2104), named by R502 (PRESUMED, notes/assumptions/5.md). -/
def hmac384 (key msg : List Byte) : BitVec 384 :=
  let k0 := if key.length > 128 then shaBytes (sha384 key) else key
  let k := k0 ++ List.replicate (128 - k0.length) (0 : Byte)
  sha384 (k.map (fun b => b ^^^ 0x5C) ++ shaBytes (sha384 (k.map (fun b => b ^^^ 0x36) ++ msg)))

end Sys2Proof.Machine
end

