-- ==== Sys2Proof/Machine/Ecdsa.lean ====
section
/-!
DEFINITION. Machine/Ecdsa.lean: ECDSA on brainpoolP384r1, which the spec names (R8, R496, R499, R502, R517) and does not define;
the curve is taken from RFC 5639 and the scheme from FIPS 186-4 (PRESUMED, notes/assumptions/5.md).
-/
namespace Sys2Proof.Machine

/-- The field prime of brainpoolP384r1. -/
def curveP : Nat :=
  0x8CB91E82A3386D280F5D6F7E50E641DF152F7109ED5456B412B1DA197FB71123ACD3A729901D1A71874700133107EC53

/-- The coefficient a. -/
def curveA : Nat :=
  0x7BC382C63D8C150C3C72080ACE05AFA0C2BEA28E4FB22787139165EFBA91F90F8AA5814A503AD4EB04A8C7DD22CE2826

/-- The coefficient b. -/
def curveB : Nat :=
  0x04A8C7DD22CE28268B39B55416F0447C2FB77DE107DCD2A62E880EA53EEB62D57CB4390295DBC9943AB78696FA504C11

/-- The order of the base point. -/
def curveOrder : Nat :=
  0x8CB91E82A3386D280F5D6F7E50E641DF152F7109ED5456B31F166E6CAC0425A7CF3AB6AF6B7FC3103B883202E9046565

/-- A point as (x / z^2, y / z^3); z = 0 is the point at infinity. -/
structure CurvePoint where
  x : Nat
  y : Nat
  z : Nat
  deriving DecidableEq, Repr

/-- The base point. -/
def curveBase : CurvePoint :=
  ⟨0x1D1C64F068CF45FFA2A63A81B7C13F6B8847A3E77EF14FE3DB7FCAFE0CBD10E8E826E03436D646AAEF87B2E247D4AF1E,
    0x8ABE1D7520F9C2A45CB1EB8E95CFD55262B70B29FEEC5864E19C054FF99129280E4646217791811142820341263C5315, 1⟩

/-- Product modulo m. -/
def mulMod (m a b : Nat) : Nat := a * b % m

/-- Difference modulo m of two numbers below m. -/
def subMod (m a b : Nat) : Nat := (a + (m - b)) % m

/-- `a` to the power of the low `n` bits of `e`, modulo m. -/
def powMod (m a : Nat) : Nat → Nat → Nat
  | 0, _ => 1 % m
  | n + 1, e =>
    let h := powMod m a n (e / 2)
    let q := mulMod m h h
    if e % 2 = 1 then mulMod m q a else q

/-- The inverse modulo a prime of 384 bits. -/
def invMod (m a : Nat) : Nat := powMod m (a % m) 384 (m - 2)

/-- Twice a point. -/
def CurvePoint.double (p : CurvePoint) : CurvePoint :=
  let mul := mulMod curveP
  let yy := mul p.y p.y
  let s := mul 4 (mul p.x yy)
  let zz := mul p.z p.z
  let m := (mul 3 (mul p.x p.x) + mul curveA (mul zz zz)) % curveP
  let x := subMod curveP (mul m m) (mul 2 s)
  ⟨x, subMod curveP (mul m (subMod curveP s x)) (mul 8 (mul yy yy)), mul 2 (mul p.y p.z)⟩

/-- The sum of two points. -/
def CurvePoint.add (p q : CurvePoint) : CurvePoint :=
  let mul := mulMod curveP
  if p.z = 0 then q
  else if q.z = 0 then p
  else
    let z1 := mul p.z p.z
    let z2 := mul q.z q.z
    let u1 := mul p.x z2
    let s1 := mul p.y (mul z2 q.z)
    let h := subMod curveP (mul q.x z1) u1
    let r := subMod curveP (mul q.y (mul z1 p.z)) s1
    if h = 0 then (if r = 0 then p.double else ⟨1, 1, 0⟩)
    else
      let hh := mul h h
      let hhh := mul h hh
      let v := mul u1 hh
      let x := subMod curveP (subMod curveP (mul r r) hhh) (mul 2 v)
      ⟨x, subMod curveP (mul r (subMod curveP v x)) (mul s1 hhh), mul h (mul p.z q.z)⟩

/-- A point times the low `n` bits of a number. -/
def CurvePoint.times (p : CurvePoint) : Nat → Nat → CurvePoint
  | 0, _ => ⟨1, 1, 0⟩
  | n + 1, k =>
    let h := (p.times n (k / 2)).double
    if k % 2 = 1 then h.add p else h

/-- The coordinates of a point that is not at infinity. -/
def CurvePoint.affine (p : CurvePoint) : Nat × Nat :=
  let i := invMod curveP p.z
  let ii := mulMod curveP i i
  (mulMod curveP p.x ii, mulMod curveP p.y (mulMod curveP ii i))

/-- The 97-byte uncompressed public key of a private scalar (R502, R517). -/
def publicKey (d : Nat) : List Byte :=
  let a := (curveBase.times 384 d).affine
  (0x04 : Byte) :: (beBytes 48 a.1 ++ beBytes 48 a.2)

/-- The point that an uncompressed public key gives, where it is one of the curve. -/
def pointOf (pk : List Byte) : Option CurvePoint :=
  let x := beNat (listSlice pk 1 48)
  let y := beNat (listSlice pk 49 48)
  if pk.length = 97 ∧ pk.head? = some 0x04 ∧ x < curveP ∧ y < curveP ∧
      y * y % curveP = (x * x * x + curveA * x + curveB) % curveP then some ⟨x, y, 1⟩ else none

/-- A public key and a signature, r then s, verify a digest (R496, R499). -/
def ecdsaVerify (pk : List Byte) (z : BitVec 384) (sig : List Byte) : Bool :=
  let n := curveOrder
  let r := beNat (listSlice sig 0 48)
  let s := beNat (listSlice sig 48 48)
  match pointOf pk with
  | none => false
  | some q =>
    if 0 < r ∧ r < n ∧ 0 < s ∧ s < n then
      let w := invMod n s
      let p := (curveBase.times 384 (mulMod n z.toNat w)).add (q.times 384 (mulMod n r w))
      decide (p.z ≠ 0) && decide (p.affine.1 % n = r)
    else false

/-- A private scalar from a number (R502). -/
def scalarOf (h : Nat) : Nat := h % (curveOrder - 1) + 1

/-- The 96-byte signature that a private scalar makes over a digest with the secret number `k` (R502, R517). -/
def ecdsaSign (k d : Nat) (z : BitVec 384) : List Byte :=
  let n := curveOrder
  let r := (curveBase.times 384 k).affine.1 % n
  let s := mulMod n (invMod n k) ((z.toNat + r * d) % n)
  beBytes 48 r ++ beBytes 48 s

end Sys2Proof.Machine
end

