-- ==== Sys2Proof/Machine/StateParts.lean ====
section
/-!
DEFINITION. Machine/StateParts.lean: the parts of the state that the Winder, the Levels and their jobs, the engines, the
Adit and the ledger hold. Plain data; each field names the rule of spec/ that gives it. A field marked MODEL is the
model's own and stands for no register.
-/
namespace Sys2Proof.Machine

/-! ### Cadence (02_cadence.md) -/

/-- Winder state (R47). -/
inductive WinderState where
  | unlocked
  | acquiring
  | locked
  | holdover
  deriving DecidableEq, Repr, Inhabited

/-- The code of R47. -/
def WinderState.code : WinderState → Nat
  | .unlocked => 0 | .acquiring => 1 | .locked => 2 | .holdover => 3

/-- A cycle word received with a good sync, check and number; its window (R34) is judged at the next edge. -/
structure CycleWord where
  /-- Hub clock at which its last check bit ended. -/
  ended : Nat
  number : BitVec 64
  flags : BitVec 16
  deriving DecidableEq, Repr, Inhabited

/-- A period as a mean: `sum` hub clocks over `n` intervals. -/
structure Period where
  sum : Nat
  n : Nat
  deriving DecidableEq, Repr, Inhabited

/-- The cadence half of the Winder. -/
structure Cadence where
  state : WinderState
  /-- The state ACQUIRING was entered from (R47). -/
  acqFrom : WinderState
  /-- Accepted edge intervals in hub clocks, newest first, at most 16 (R37). -/
  history : List Nat
  /-- The last accepted edge (R48). -/
  lastAccepted : Option Nat
  /-- The last edge that ended a reference cycle, received or supplied by flywheel (R48, R50). -/
  lastEdge : Option Nat
  /-- Words received since that edge. -/
  words : List CycleWord
  /-- The number named by the valid word of the previous reference cycle (R48). -/
  prevNamed : Option (BitVec 64)
  /-- GOOD_RUN and BAD_RUN of WRUN (R85). -/
  goodRun : Nat
  badRun : Nat
  /-- Number of the current cycle as the Winder holds it (R41, R55), and of the one that ended before it. -/
  number : BitVec 64
  ended : BitVec 64
  /-- MODEL: how many cycles the Winder has begun since power-up. -/
  ordinal : Nat
  /-- Hub clock at which the current cycle began, and at which the one before it did. -/
  cycleStart : Nat
  prevStart : Nat
  /-- How far before that hub clock the exact start lies, in 1/720,720 hub clock (R51: the fractions of a holdover period do
  not add up to a frequency error). -/
  early : Nat
  /-- Period of the holdover cycle in progress (R51). -/
  cyclePeriod : Period
  /-- Holdover period: last measured, declared, or 10 ms (R51). -/
  holdPeriod : Period
  /-- A period has been measured since power-up (R51). -/
  everMeasured : Bool
  /-- A period change has emptied the history: the holdover period stays until lock is regained (R45, R51). -/
  frozen : Bool
  /-- Flag bits of the last valid word (WFLAGS.FLAGS). -/
  flags : BitVec 16
  /-- A valid word arrived during the Winder's previous cycle (WFLAGS.WORD_VALID). -/
  wordValid : Bool
  /-- A valid word, judged by now, has arrived in the Winder's current cycle. -/
  wordSeen : Bool
  /-- The last reference cycle judged in the Winder's current cycle outside LOCKED: its word, whether it was good, and its
  interval; the cycle's Pit Log entry records it (R54). -/
  judged : Option (Option CycleWord × Bool × Nat)
  /-- WGLITCH.COUNT and WRSVFLAG.COUNT. -/
  glitches : BitVec 32
  rsvFlags : BitVec 32
  /-- Hub clock of the last edge that cut a cycle short, and the angle reached then (R39). -/
  compressedAt : Nat
  compressedFrom : Nat
  compressed : Bool
  /-- A discontinuity or an announced period change stops running exchange jobs at the next holdover boundary (R44, R45). -/
  stopAtBoundary : Bool
  /-- A discontinuity stops there also the exchange jobs that have been started and have not begun (R44). -/
  dropAtBoundary : Bool
  deriving DecidableEq, Repr, Inhabited

/-! ### Events (25_events.md) -/

/-- An event with the cadence time at which it arose (R41, R561). -/
structure Event where
  /-- MODEL: the hub clock at which it arose (R562). -/
  time : Nat
  code : Nat
  /-- The Level it belongs to; none is the whole part (R560). -/
  level : Option (Fin 4)
  unit : Nat
  aux : Nat
  entry : Nat
  a : BitVec 64
  b : BitVec 64
  c : BitVec 64
  cycle : BitVec 64
  angle : BitVec 16
  holdover : Bool
  deriving DecidableEq, Repr, Inhabited

/-- A notice waiting for an outbound slot (R482, R483). -/
structure Notice where
  seq : BitVec 64
  /-- LOST: notices discarded in the gap before it. -/
  lost : BitVec 16
  event : Event
  /-- The function and the TAKE_SEQ of the message it arose from, whose reply is written before it is posted (R567). -/
  after : Option (Nat × BitVec 64) := none
  deriving DecidableEq, Repr, Inhabited

/-! ### Schedule images (03_winder.md) -/

/-- A schedule entry (R60), translated to major 4 (R59). -/
structure Entry where
  cycle : Nat
  angle : Nat
  engine : Nat
  opcode : Nat
  nonpreempt : Bool
  waitTally : Bool
  signalTally : Bool
  tally : Nat
  budget : Nat
  desc : Nat
  deriving DecidableEq, Repr, Inhabited

/-- A slice (R72); start and stop are counts within the step (stop is LOOP_LENGTH * 65,536 for the end of the step). -/
structure Slice where
  start : Nat
  stop : Nat
  context : Nat
  budget : Nat
  grace : Nat
  mask : BitVec 256
  deriving DecidableEq, Repr, Inhabited

/-- The loaded image of a Level (R58, R66, R491). -/
structure Image where
  major : Nat
  minor : Nat
  usesExchange : Bool
  spill : Bool
  periodNs : Nat
  loop : Nat
  contexts : Nat
  tallies : Nat
  build : BitVec 128
  crc : BitVec 64
  /-- Where it stands in near memory, and its size (R491). -/
  nearAddr : Nat
  size : Nat
  entries : List Entry
  slices : List Slice
  /-- The descriptor area. -/
  descs : List Byte
  deriving DecidableEq, Repr, Inhabited

/-- A Tally (R77). -/
structure TallyState where
  count : BitVec 16
  target : BitVec 16
  /-- MODE: false CONSUME, true LEVEL. -/
  level : Bool
  /-- MODEL: 1 + hub clock of the last TALLY_INIT; a signal of that clock is overwritten by it (R79). -/
  initAt : Nat
  /-- MODEL: COUNT as the signals of that clock alone leave it. -/
  was : BitVec 16
  deriving DecidableEq, Repr, Inhabited

/-- A phase timer (R81). -/
structure PhaseTimer where
  count : BitVec 64
  running : Bool
  /-- Bound engine and cause. -/
  bound : Option (Nat × Nat)
  deriving DecidableEq, Repr, Inhabited

/-! ### Engines and their commands -/

/-- Where a write lands. -/
inductive Space where
  | core (n : Nat)
  | hub
  | near
  /-- Far memory, addressed by half * 2^64 + host physical address (R408). -/
  | far
  deriving DecidableEq, Repr, Inhabited

/-- A write a command makes: the index of the group, row or item at whose end it stands, its space, address and bytes. -/
structure Write where
  at_ : Nat
  space : Space
  addr : Nat
  bytes : List Byte
  deriving DecidableEq, Repr, Inhabited

/-- An occurrence for a coordinate record (R194). -/
structure Coord where
  chunk : Nat
  row : Nat
  col : Nat
  deriving DecidableEq, Repr, Inhabited

/-- What one contribution adds to its ledger record (R186 to R197). -/
structure Contribution where
  tensor : Nat
  /-- FORMATS_SEEN bits. -/
  formats : Nat
  flushed : Bool
  warmUp : Bool
  /-- The counters it adds to, in the order of R192. -/
  counts : List Nat
  /-- First occurrences of the four cases of R194. -/
  firsts : List (Option Coord)
  /-- Histogram bins it adds to. -/
  hist : Tab Nat
  outputCrc : BitVec 64
  /-- The descriptor's STEP, which its record takes in place of LSTEP (R205). -/
  step : Option Nat
  deriving DecidableEq, Repr, Inhabited

/-- Rows handed to a stem engine: one output of a Crusher command with DEST 2 (R262, R280). -/
structure HandItem where
  format : Nat
  channels : Nat
  classH : Nat
  classW : Nat
  /-- Rows handed over. -/
  rows : Nat
  /-- bfloat16 codes of the rows, channel by channel within a pixel. -/
  codes : List Nat
  deriving DecidableEq, Repr, Inhabited

/-- The outputs a command has still to deliver (R265, R280). -/
structure Delivery where
  tally : Nat
  /-- The next output and how many are left. -/
  next : Nat
  left : Nat
  /-- A far-memory read has failed: behind the outputs that are left nothing more is delivered (R254, R266). -/
  dead : Bool
  /-- The first failing item: the output at which it is met, its index and its status (R264). -/
  fail : Option (Nat × Nat × Nat)
  /-- Pit Log entries of the items, by output (R253). -/
  logs : List (Nat × List Byte)
  /-- Rows for a stem engine, by output, and the engine that is handed them, of a command with DEST 2. -/
  hands : List (Nat × HandItem)
  gives : Option Nat
  /-- Access units of the clip follow its last output (R249). -/
  more : Bool
  /-- A stem command that takes its rows from the Crusher (R280). -/
  takes : Bool
  /-- The filter of a stem command, which its engine holds again when the command resumes (R249, R278). -/
  filter : List Byte
  deriving DecidableEq, Repr, Inhabited

/-- A feeder slot (R94, R95). -/
structure Slot where
  data : BitVec 24
  scale : BitVec 8
  valid : Bool
  boundary : Bool
  dummy : Bool
  groupEnd : Bool
  deriving DecidableEq, Repr, Inhabited

/-- What a set of products counts (R178). -/
structure ProdCounts where
  nanInput : Nat
  zeroInf : Nat
  trunc : Nat
  flushIn : Nat
  deriving DecidableEq, Repr, Inhabited

/-- A pass that has been dispatched (R123, R136): its descriptor and opcode, what its cells have counted so far (key array * 16,384
+ row * 128 + column), and while it is suspended the slots that its feeders have still to issue (key array * 128 + feeder) and
the groups of them that have been issued and are still to be accumulated; whether its sets have been saved since it was suspended,
and the sets that its resumption has restored and its cells have not yet taken (key as of the counts). -/
structure PassRun where
  desc : Nat
  opcode : Nat
  counts : Tab ProdCounts
  heldRows : Tab (List Slot)
  heldCols : Tab (List Slot)
  unsettled : Nat
  saved : Bool
  restored : Option (Tab (BitVec 96))
  deriving DecidableEq, Repr, Inhabited

/-- What a command still does when it completes, beyond its writes, contributions and signal. -/
inductive After where
  | none
  /-- A pass: its cells accumulate, swap and drain (R123 to R125). -/
  | pass (p : PassRun)
  /-- A vector program runs instruction by instruction (R208); it completes at END. -/
  | program
  /-- Delivers its remaining outputs (R265, R280). -/
  | deliver (d : Delivery)
  /-- Decode SAMPLE: the Lamp Room works the boundary of its batches: the step the entry is scheduled in, and its CYCLE_OFFSET
  (R346). -/
  | boundary (batches : List Nat) (step offset : Nat)
  /-- GATHER or JOURNAL_READ: the result block read (R377, R378). -/
  | result (block : List Byte) (journal : Bool)
  /-- An exchange command that waits for stamps (R365): its kind is the entry's opcode. -/
  | waiting
  /-- ROSTER_SYNC: the new active set (R383). -/
  | roster (active : List Nat) (autoLeft : List Nat)
  /-- SNAP_WRITE: the generation written, its slot, store base and TABLE_DIGEST, and the SNAP.TAKE that waits for it (R454). -/
  | snapshot (generation slot base : Nat) (digest : List Byte) (take_ : Option (Nat × Nat))
  deriving DecidableEq, Repr, Inhabited

/-- A vector program's control block (R204, R208, R213). -/
structure Control where
  /-- A program runs on the engine. -/
  running : Bool
  ip : Nat
  /-- Code base and LENGTH of the program. -/
  code : Nat
  length : Nat
  /-- Open loops, innermost first: start IP and iterations left. -/
  loops : List (Nat × Nat)
  /-- Conversion context: tensor, row, column. -/
  tensor : Nat
  row : Nat
  col : Nat
  /-- Explicit step of the conversions, or none for LSTEP (R206). -/
  step : Option (BitVec 64)
  /-- The Level and context it runs for, and its entry. -/
  level : Nat
  context : Nat
  entry : Nat
  deriving DecidableEq, Repr, Inhabited

/-- The vector, mask and pointer registers of an engine (R202): V0 to V31 by register * 256 + lane, M1 to M7 (M0 reads all
ones), P0 to P15. -/
structure VRegs where
  v : Tab (BitVec 32)
  m : Tab (BitVec 256)
  p : Tab (BitVec 64)
  deriving DecidableEq, Repr, Inhabited

/-- A command that has been dispatched and has not completed. -/
structure Running where
  entry : Nat
  /-- LSTEP at its dispatch (R187); of an exchange command the step it is scheduled in (R24). -/
  step : Nat
  ctx : Nat
  /-- Hub clock since which its engine time has not been charged: at first that of its dispatch (R442). -/
  since : Nat
  /-- Effective end (count) and SLIP_BUDGET of a slice it overruns (R75). -/
  overrun : Option (Nat × Nat)
  writes : List Write
  contribs : List Contribution
  /-- Refused core-store lines: `lineKey` of each (R106). -/
  refused : List Nat
  after : After
  /-- The stamp has been forbidden by a passed close (R364) or by containment (R416). -/
  noStamp : Bool
  /-- Near and far bytes it moves (R442). -/
  nearBytes : Nat
  farBytes : Nat
  /-- Arrays whose active sets are live while it is suspended, as a mask (R434). -/
  arrays : Nat
  /-- A pass: the time of its quadrant's arithmetic clock before which its last issue cannot have entered the array (R120,
  R134). -/
  issued : Nat
  /-- Groups, rows or items done when it was last suspended (R136, R214, R404). -/
  progress : Nat
  /-- Control block and registers of a suspended vector program (R214). -/
  ctl : Option Control
  regs : Option VRegs
  deriving DecidableEq, Repr, Inhabited

/-- A context switch of a core engine (R434, R437): when it began, whether it pays the fixed time, the bytes of the save path,
and the bytes written back and loaded. -/
structure Switch where
  since : Nat
  fixed : Bool
  bytes : Nat
  reload : Nat
  deriving DecidableEq, Repr, Inhabited

/-- One engine, as a Level's schedule sees it. -/
structure EngineState where
  /-- Entries dispatched so far, by context (R64, R68). -/
  dispatched : Tab Nat
  /-- Commands dispatched and not completed, oldest first; a core's arrays may drain one while the next issues (R134). -/
  running : List Running
  /-- Suspended command of each context (R74). -/
  suspended : List (Nat × Running)
  /-- Command suspended at the end of a slot run (R424). -/
  slotHeld : List Running
  /-- Slice in effect: index and step (R74). -/
  slice : Option (Nat × Nat)
  /-- The last slice that was in effect. -/
  lastSlice : Option (Nat × Nat)
  /-- Context the engine holds (R433). -/
  ctx : Nat
  /-- A switch is in progress (R434), and the last one that began. -/
  switching : Bool
  switch : Option Switch
  /-- Stretches that do not count as stall (R71): context, or 8 for the entries no slice covers, first count, last count. -/
  away : List (Nat × Nat × Option Nat)
  /-- By context, 1 + number of the entry whose stall has been reported (R71). -/
  stalled : Tab Nat
  /-- Counts at which the last overrun ended (R75). -/
  overrunEnd : Nat
  /-- Debt of each context (R75). -/
  debt : Tab Nat
  /-- MODEL: 1 + ordinal of the cycle of the last EV_SLIP (R70). -/
  slipCycle : Nat
  deriving DecidableEq, Repr, Inhabited

/-! ### Job declarations (18_levels.md) -/

/-- A share entry (R431). -/
structure Share where
  context : Nat
  core : Nat
  region : Nat
  sharedRead : Bool
  retain : Bool
  evictable : Bool
  start : Nat
  size : Nat
  backing : Nat
  deriving DecidableEq, Repr, Inhabited

/-- A chute range (R290, R428). -/
structure Chute where
  context : Nat
  core : Nat
  addr : Nat
  size : Nat
  deriving DecidableEq, Repr, Inhabited

/-- A far window (R407). -/
structure FarWindow where
  base : Nat
  size : Nat
  links : BitVec 16
  granule4k : Bool
  shared : Bool
  persistent : Bool
  readOnly : Bool
  ide : Bool
  target : Nat
  deriving DecidableEq, Repr, Inhabited

/-- A frozen entry (R438). -/
structure Frozen where
  id : Nat
  near : Nat
  size : Nat
  source : Nat
  deriving DecidableEq, Repr, Inhabited

/-- A skip map (R223, R224): its frozen tensor, the shape of its tile plan and its records. -/
structure SkipMap where
  frozenId : Nat
  blocks : Nat
  chunks : Nat
  dense : Nat
  records : List Byte
  deriving DecidableEq, Repr, Inhabited

/-- A decode batch declaration (R339): ROWS, and its 96 bytes. -/
structure BatchDecl where
  rows : Nat
  raw : List Byte
  deriving DecidableEq, Repr, Inhabited

/-- The EXCHANGE section (R428). -/
structure ExchangeDecl where
  region : Nat
  index : Nat
  baseStep : Nat
  gradElements : Nat
  deriving DecidableEq, Repr, Inhabited

/-- A job declaration (R428). -/
structure Declaration where
  crc : BitVec 64
  shares : List Share
  chutes : List Chute
  passBuffer : Option (Nat × Nat)
  batches : List BatchDecl
  windows : List FarWindow
  exchange : Option ExchangeDecl
  frozen : List Frozen
  skipMaps : List SkipMap
  spill : Option (Nat × Nat)
  deriving DecidableEq, Repr, Inhabited

/-! ### Ledger (08_ledger.md) -/

/-- A ledger record (R190), without its digest RECORD_CRC, which the bytes of a closed record determine. -/
structure LedgerRecord where
  /-- 0 EMPTY, 1 OPEN, 2 CLOSED. -/
  state : Nat
  flags : Nat
  formats : Nat
  step : Nat
  /-- MODEL: LSTEP of the dispatch of its contributions (R187), which STEP is not where a command names its own (R205). -/
  lstep : Nat
  beginCycle : BitVec 64
  beginAngle : BitVec 16
  closeCycle : BitVec 64
  closeAngle : BitVec 16
  counts : List Nat
  /-- VALID coordinate records: coordinate, entry and engine. -/
  firsts : List (Option (Coord × Nat × Nat))
  hist : Tab Nat
  outputCrc : BitVec 64
  deriving DecidableEq, Repr, Inhabited

/-! ### Pit Log (19_snapshots.md) -/

/-- A Pit Log entry (R462): kind, cadence time, LSTEP and body. -/
structure LogEntry where
  seq : BitVec 64
  cycle : BitVec 64
  angle : BitVec 16
  holdover : Bool
  kind : Nat
  step : BitVec 64
  body : List Byte
  deriving DecidableEq, Repr, Inhabited

/-! ### Adit (20_adit.md) -/

/-- A message taken from a slot (R480): the Headframe's copy. -/
structure Taken where
  slot : Nat
  seq : BitVec 64
  /-- MODEL: its place among all messages taken (R345, R357), and the number of the Winder's cycle at which it was taken (R67). -/
  turn : Nat
  cycle : BitVec 64
  msg : Nat
  tag : BitVec 16
  vector : Nat
  level : Nat
  length : Nat
  payload : List Byte
  /-- Every reserved header byte is zero. -/
  headerOk : Bool
  /-- Its checks have passed and its work goes on; REPLY_POSTED ends it (R490). -/
  working : Bool
  /-- Status and reply payload decided so far. -/
  status : Nat
  reply : List Byte
  /-- MODEL: of a JOB.START or REPLAY.START that has been taken: the ordinal of the first cycle begun since that carries a number
  at or above its start cycle (R67), and whether a discontinuity came before it (R44). -/
  begun : Option Nat
  dropped : Bool
  /-- Its function was reset: the reply is discarded (R472). -/
  orphan : Bool
  deriving DecidableEq, Repr, Inhabited

/-- One PCIe function (R470, R476). -/
structure Fn where
  /-- NEG.VERSION and NEG_FEAT. -/
  version : Nat
  features : BitVec 64
  noticeVector : Nat
  filtered : BitVec 32
  noticeLost : BitVec 32
  /-- LOST of the next notice (R482). -/
  lostSince : BitVec 16
  scanMax : BitVec 32
  lastScan : Option Nat
  takeSeq : BitVec 64
  noticeSeq : BitVec 64
  /-- Notices waiting, oldest first, at most 1,024 (R483). -/
  waiting : List Notice
  taken : List Taken
  /-- Latches of R84: WCYCLE_HI and WFLAGS, LSTEP_HI by Level, TIMER_HI by Level * 64 + timer. DESIGN CHOICE
  (notes/assumptions/87.md): each function has its own. -/
  wcycleHi : Option (BitVec 32)
  wflags : Option (BitVec 32)
  lstepHi : Tab (BitVec 33)
  timerHi : Tab (BitVec 33)
  /-- MODEL: the value of the last latching read. -/
  rdata : BitVec 32
  /-- MSI-X: mask bit and pending bit of each vector (R484). -/
  msixMask : BitVec 64
  msixPending : BitVec 64
  /-- MODEL: messages sent, by vector. -/
  msixSent : Tab Nat
  deriving DecidableEq, Repr, Inhabited

end Sys2Proof.Machine
end

