-- ==== Sys2Proof/Machine/StateJobs.lean ====
section
/-!
DEFINITION. Machine/StateJobs.lean: the parts of the state that requests, the exchange, replays, jobs and Levels hold.
-/
namespace Sys2Proof.Machine

/-! ### Requests (15_requests.md) -/

/-- A request (R336, R342, R345). -/
structure Request where
  handle : BitVec 32
  fn : Nat
  batch : Nat
  /-- Code of R345. -/
  state : Nat
  row : Option Nat
  /-- The submission payload. -/
  payload : List Byte
  notifyEvery : Nat
  notifyVector : Nat
  deadline : BitVec 64
  /-- Pages given so far, in order of supply (R349). -/
  pages : List Nat
  /-- Records formed so far; the next RECORD_NO. -/
  records : Nat
  /-- Records in the backlog, oldest first (R350). -/
  backlog : List (List Byte)
  /-- REQ.CANCEL messages taken in the step: function and slot (R354). -/
  cancels : List (Nat × Nat)
  deriving DecidableEq, Repr, Inhabited

/-- What a decode batch holds (R339, R345). -/
structure Batch where
  /-- Indices of queued requests, oldest first. -/
  queue : List Nat
  /-- Request index + 1 of each row that a request holds. -/
  rows : Tab Nat
  /-- Step of the last admission and of the last boundary worked. -/
  admitted : Nat
  boundary : Nat
  /-- Completed SAMPLEs whose boundary is not yet worked, oldest first: scheduled step and CYCLE_OFFSET (R340, R346). -/
  due : List (Nat × Nat)
  deriving DecidableEq, Repr, Inhabited

/-! ### Exchange (16_training.md) -/

/-- The region header (R360). -/
structure Region where
  base : Nat
  layout : Nat
  capacity : Nat
  shards : Nat
  copies : Nat
  contribF32 : Bool
  reducedBf16 : Bool
  mean : Bool
  elements : Nat
  journal : Nat
  amax : Nat
  autoLeave : Nat
  guardNs : Nat
  rosterOff : Nat
  slotOff : Nat
  slotSize : Nat
  journalOff : Nat
  entrySize : Nat
  size : Nat
  deriving DecidableEq, Repr, Inhabited

/-- What the Level keeps of a result block it has read (R370, R386): its step, its DIGEST and its MISSING_PARTS. -/
structure StepResult where
  step : Nat
  digest : BitVec 64
  missing : List Nat
  deriving DecidableEq, Repr, Inhabited

/-- The exchange sequencer of a job. -/
structure Exchange where
  region : Region
  /-- Active indices of the current step and of the next, ascending (R372, R383). -/
  active : List Nat
  next : List Nat
  /-- Pool step whose set `active` is. -/
  activeStep : Nat
  /-- Indices that have left under AUTO_LEAVE, and the step at which each left (R386). -/
  autoLeft : List (Nat × Nat)
  deriving DecidableEq, Repr, Inhabited

/-- A ROSTER message pending on the part (R384). -/
structure PendingRoster where
  level : Nat
  fn : Nat
  slot : Nat
  join : Bool
  index : Nat
  effective : Nat
  identity : List Byte
  /-- The status that the ROSTER_SYNC in progress has decided. -/
  status : Option Nat
  deriving DecidableEq, Repr, Inhabited

/-! ### Replay (19_snapshots.md) -/

/-- A replay in progress (R465 to R467). -/
structure Replay where
  log : List LogEntry
  /-- The next entry of the log whose message is to be taken (R466). -/
  pos : Nat
  first : Nat
  last : Nat
  stopOnDiverge : Bool
  /-- Steps in which a comparison has failed, in the order in which they were reported. -/
  diverged : List Nat
  /-- LAST_STEP has ended; EV_REPLAY_DONE is due (R467). -/
  done : Bool
  deriving DecidableEq, Repr, Inhabited

/-! ### Jobs (18_levels.md) -/

/-- Job states (R426); `opening` is the time from the checks of JOB.OPEN to its reply, `opened` is OPEN before JOB.START,
`started` OPEN after it, `draining` the time from the stop boundary until the dispatched commands have completed or been
abandoned. -/
inductive Phase where
  | opening
  | opened
  | started
  | running
  | draining
  | stopped
  deriving DecidableEq, Repr, Inhabited

/-- Saved state of a context on a core engine (R432, R433): bytes a switch moves for it. -/
structure Saved where
  engine : Nat
  context : Nat
  /-- Bytes its save takes: accumulator sets and vector state (R436). -/
  bytes : Nat
  deriving DecidableEq, Repr, Inhabited

/-- A job (R426 to R430). -/
structure Job where
  phase : Phase
  tensors : Nat
  grace : Nat
  /-- LGRACE.REMAINING (R52). -/
  graceLeft : Nat
  seed : BitVec 64
  mask : BitVec 64
  payload : List Byte
  decl : Declaration
  startCycle : BitVec 64
  stepLimit : Nat
  /-- MODEL: ordinal of the Winder cycle in which the job began. -/
  beginOrdinal : Nat
  /-- The job stops at the next cycle boundary (LJOB.STOP_PENDING). -/
  stopPending : Bool
  /-- That boundary has come; JOB_STOP is due (R71). -/
  stopDue : Bool
  /-- The start cycle has begun; JOB_BEGIN is due: the ordinal of that cycle (R67). -/
  beginDue : Option Nat
  /-- The grace has run out; EV_HOLDOVER_EXPIRED is due: hub clock of the boundary, numbers of the cycle it began and of the one it
  ended (R52). -/
  graceExpired : Option (Nat × BitVec 64 × BitVec 64)
  /-- JOB.CLOSE in progress: function and slot, or a function reset (R430, R472). -/
  closing : Option (Option (Nat × Nat))
  /-- Contained until the stop (R416). -/
  contained : Bool
  /-- EV_LEDGER_RANGE and EV_LOG_WRAP have been raised (R186, R461). -/
  rangeRaised : Bool
  wrapRaised : Bool
  /-- A SNAP.RESTORE failed after writing (R455). -/
  restoreDirty : Bool
  /-- Restored generation and its TABLE_DIGEST (R465). -/
  restored : Option (Nat × List Byte)
  /-- SNAP.TAKE pending: function and slot (R454). -/
  snapTake : Option (Nat × Nat)
  /-- Resident evictable contexts of each core (R436), key core * 8 + context. -/
  resident : Tab Bool
  saved : List Saved
  exchange : Option Exchange
  replay : Option Replay
  deriving DecidableEq, Repr, Inhabited

/-- The first step a job runs: 1, or FIRST_STEP of a replay (R67, R465). -/
def Job.firstStep (j : Job) : Nat :=
  match j.replay with
  | some r => r.first
  | none => 1

/-- A pass that has formed a zero-times-infinity product for a record of a step, the LSTEP of its dispatch (R181). -/
structure Invalid where
  tensor : Nat
  step : Nat
  entry : Nat
  coord : Coord
  deriving DecidableEq, Repr, Inhabited

/-- A completed contribution: the LSTEP of its dispatch, its schedule entry and engine, and the cadence time of its completion
(R187). -/
structure Fed where
  contrib : Contribution
  step : Nat
  entry : Nat
  engine : Nat
  cycle : BitVec 64
  angle : BitVec 16
  holdover : Bool
  deriving DecidableEq, Repr, Inhabited

/-- What the Level counts for the Assay in a cycle (R442, R513). -/
structure Accounting where
  /-- Engine time, in hub clocks. -/
  engine : Nat
  nearBytes : Nat
  farBytes : Nat
  pcieBytes : Nat
  /-- Engine time on the Level's cores by context, in hub clocks. -/
  byContext : Tab Nat
  deriving DecidableEq, Repr, Inhabited

/-- Switch work that is still to be charged (R442): the engine, the context, the hub clocks from and until which it holds the engine,
and the near bytes that it moves. -/
structure SwitchWork where
  engine : Nat
  context : Nat
  from_ : Nat
  till : Nat
  near : Nat
  deriving DecidableEq, Repr, Inhabited

/-- The record of LEVEL.SET (R419). -/
structure LevelRecord where
  quads : BitVec 8
  lflags : BitVec 8
  tallyBlocks : Nat
  reqBlocks : Nat
  hubUnits : Nat
  beltUnits : Nat
  pipes : BitVec 8
  stems : BitVec 8
  imageSlots : BitVec 16
  audioSlots : BitVec 16
  deriving DecidableEq, Repr, Inhabited

/-- The Pit Log of a Level (R461). -/
structure PitLog where
  entries : List LogEntry
  nextSeq : Nat
  lost : Nat
  /-- Units of 64 bytes the held entries take, and those that all entries since JOB.OPEN have taken. -/
  units : Nat
  written : Nat
  deriving DecidableEq, Repr, Inhabited

/-- One Level. -/
structure LevelState where
  record : LevelRecord
  image : Option Image
  /-- Ledger area: base and T (R185). -/
  ledgerArea : Option (Nat × Nat)
  ledger : Tab LedgerRecord
  /-- Invalid products not yet reported, and records whose event has been raised (R181). -/
  invalid : List Invalid
  invalidRaised : List (Nat × Nat)
  /-- Completed contributions of a later step that wait for those of an earlier one (R201). -/
  deferred : List Fed
  tallies : Tab TallyState
  timers : Tab PhaseTimer
  engines : Tab EngineState
  batches : Tab Batch
  requests : Tab Request
  generations : Tab Nat
  job : Option Job
  /-- LGRACE as the last job left it (R86). -/
  graceHeld : Nat
  /-- LSTEP, LOFFSET.OFFSET (R86). -/
  lstep : BitVec 64
  offset : Nat
  slipCount : BitVec 32
  slipMax : BitVec 32
  slipFirst : Option Nat
  log : PitLog
  /-- TALLY entries asked for by LOG.EXPORT: first, count, and the ordinal of the cycle of the request (R464). -/
  tallyLog : List (Nat × Nat × Nat)
  /-- The counts of the current cycle, and those of the cycle before it, which its frame carries (R513). -/
  acct : Accounting
  frame : Accounting
  switchWork : List SwitchWork
  /-- Outputs that the Crusher has handed to each stem engine and that it has not read, oldest first (R280). -/
  handed : Tab (List HandItem)
  /-- Result blocks read, newest first, one of a step, back to 256 steps before the last GATHER (R370, R386). -/
  results : List StepResult
  deriving DecidableEq, Repr, Inhabited

end Sys2Proof.Machine
end

