-- ==== Sys2Proof/Machine/StateUnits.lean ====
section
/-!
DEFINITION. Machine/StateUnits.lean: the parts of the state that the cores, boot, the memories and links, power control
and the Assay hold.
-/
namespace Sys2Proof.Machine

/-- A feeder (R87, R94): its queue of at most 32 slots, and the slots read for it that the queue has not yet room for. -/
structure Feeder where
  queue : List Slot
  behind : List Slot
  deriving DecidableEq, Repr, Inhabited

/-- One Stope core (R87, R108, R202). -/
structure CoreState where
  /-- Effective fill level, TARGET, STEP (R108, R109). -/
  fillLevel : Nat
  fillTarget : Nat
  fillStep : Nat
  /-- Time of the quadrant's arithmetic clock from which the interval to the next step counts (R109). -/
  fillFrom : Nat
  /-- Accumulator sets (R87, R162), key set * 65,536 + array * 16,384 + row * 128 + column, and which of the two sets of each
  array is the active one (R124). -/
  sets : Tab (BitVec 96)
  roles : BitVec 4
  /-- Row and column feeders (R87, R94), key array * 128 + feeder. -/
  rowFeed : Tab Feeder
  colFeed : Tab Feeder
  /-- FORMAT of the last pass of each array, key array (R112). -/
  lastFormat : Tab Nat
  /-- Registers of its vector engine (R202). -/
  regs : VRegs
  ctl : Control
  deriving DecidableEq, Repr, Inhabited

/-- FW_STATE (R476). -/
inductive FwState where
  | awaiting
  | verifying
  | running
  | rejected
  deriving DecidableEq, Repr, Inhabited

/-- FW_STATE's code (R476). -/
def FwState.code : FwState → Nat
  | .awaiting => 0 | .verifying => 1 | .running => 2 | .rejected => 3

/-- The board-configuration area (R497). -/
structure Board where
  ceiling : Nat
  portSplit : BitVec 8
  anchors : List (BitVec 384)
  ideRequired : BitVec 8
  deriving DecidableEq, Repr, Inhabited

/-- Root of Trust and boot (21_boot.md). -/
structure Boot where
  /-- The rails other than VASY are up; VAUX, the pins' own, is (R555). -/
  rails : Bool
  vaux : Bool
  /-- RESET_L, PE_PERST_L and THERMTRIP_L levels. -/
  resetHigh : Bool
  perstHigh : Bool
  thermtripHigh : Bool
  /-- The ROM has run (stage 2 of R494), the PCIe link is up (stage 3). -/
  romDone : Bool
  linkUp : Bool
  fw : FwState
  /-- REASON of R500. -/
  reason : Nat
  /-- Anti-rollback counter and revoked keys (R501); fuses. -/
  rollback : Nat
  revoked : BitVec 4
  /-- The firmware load window (R498). -/
  window : Mem
  /-- The Headframe's private SRAM (R1, R20, R499): the image copied at its commit; what the firmware keeps there besides is open
  (notes/assumptions/93.md). -/
  sram : Mem
  /-- Of the image committed: FW_DIGEST, SVN, FLAGS, KEY_INDEX, board area. -/
  fwDigest : BitVec 384
  svn : Nat
  fwFlags : Nat
  keyIndex : Nat
  board : Board
  /-- Debug state sampled at step 2, a valid token that waits for a part reset, and the challenge (R506). -/
  debugUnlocked : Bool
  tokenPending : Bool
  challenge : BitVec 384
  /-- Bit p: port Hp has been trained since the part reset (CXp_PERST_L, R555). -/
  cxTrained : BitVec 8
  deriving DecidableEq, Repr, Inhabited

/-- One CXL link half (R405, R504). -/
structure LinkHalf where
  up : Bool
  type3 : Bool
  capacity : Nat
  ide : Bool
  /-- The half carries CXL.mem (R504: not without IDE on a port that requires it). -/
  carries : Bool
  /-- MODEL: key refreshes since the keys were established (R505). -/
  refreshes : Nat
  deriving DecidableEq, Repr, Inhabited

/-- Near memory as trained, corrected counts, and failed 64-byte blocks (R395, R400, R568). -/
structure MemoryState where
  /-- 0 not trained, 1 32 Gbit, 2 64 Gbit. -/
  density : Nat
  rate : Nat
  quads : BitVec 4
  corrected : Tab Nat
  /-- Failed blocks: near-memory address, core * 2^26 + address, hub address, each / 64. -/
  failedNear : List Nat
  failedCore : List Nat
  failedHub : List Nat
  /-- MODEL: stretches of far memory (key, length) whose reads the devices return poisoned, and those whose reads time out or fail
  IDE's check, as the last command that read far memory found them (R415, R568). -/
  poisoned : List (Nat × Nat)
  lost : List (Nat × Nat)
  /-- MODEL: 64-byte blocks of near memory (address / 64) whose reads the devices correct, as the last command that was told found
  them (R400; notes/assumptions/99.md). -/
  weak : List Nat
  deriving DecidableEq, Repr, Inhabited

/-- Clock, voltage and droop of one quadrant (R529 to R538). -/
structure QuadPower where
  /-- Bin in 100 MHz. -/
  bin : Nat
  /-- A bin change decided and not yet executed (R537). -/
  pendingBin : Option Nat
  /-- Duty in eighths: 8, 7, 6 or 4. -/
  duty : Nat
  /-- Hub clock before which a duty of 1/2 stays (R539). -/
  dutyHold : Nat
  /-- Set voltage in mV, and the hub clock of its last adaptive adjustment. -/
  millivolts : Nat
  adjustedAt : Option Nat
  /-- Highest bin allowed after a rail fault (R531); 0 where no bin qualifies. -/
  limitBin : Option Nat
  drooping : Bool
  /-- The arithmetic clock (R88): cycles so far in units of 1/160 cycle, and the hub clock until which a bin change pauses it
  (R537). -/
  arith : Nat
  pausedUntil : Nat
  /-- 1 + ordinal of the cycle of the last EV_DROOP (R536). -/
  droopCycle : Nat
  deriving DecidableEq, Repr, Inhabited

/-- Headframe power control (23_power.md). -/
structure PowerState where
  quads : List QuadPower
  /-- The latest readings over AVSBus: currents in mA, temperatures and statuses of its ten rails, voltages in mV of the core rails
  (R529), and the rails whose readings are lost (R531). -/
  amps : List Nat
  temps : List Int
  status : List (BitVec 16)
  volts : List Nat
  railLost : BitVec 16
  /-- Samples of part power in microwatts with their hub clocks, oldest first, over the last second; the clock of the first one since
  the reset (R539). -/
  power : List (Nat × Nat)
  firstSample : Option Nat
  /-- Forecast frames on LF and waiting for it, oldest first: the hub clock at which each begins, and its word, nibble 0 in bits
  [15:12] (R533, R534, R553); and how many have been sent. -/
  lf : List (Nat × BitVec 16)
  frames : Nat
  /-- What frames have been sent for (R542): `frameKey` of each. -/
  framed : List Nat
  deriving DecidableEq, Repr, Inhabited

/-! ### Assay (22_assay.md) -/

/-- Totals of one context line (R517). -/
structure AsyLine where
  /-- Engine time in hub clocks of 0.5 ns. -/
  engine : Nat
  measured : Nat
  allocated : Nat
  deriving DecidableEq, Repr, Inhabited

/-- Totals of one channel (R514, R517). -/
structure AsyChannel where
  measured : Nat
  allocated : Nat
  /-- Engine time in hub clocks of 0.5 ns. -/
  engine : Nat
  nearBytes : Nat
  farBytes : Nat
  pcieBytes : Nat
  missingCycles : Nat
  jobSeq : Nat
  /-- Lines 0 to 7 and IDLE. -/
  lines : List AsyLine
  /-- Frames missing since the channel's previous record. -/
  missing : Bool
  deriving DecidableEq, Repr, Inhabited

/-- What the Assay keeps in MRAM (R520, R521). -/
structure AsyTotals where
  /-- ASSAY_TIME in hub clocks of 0.5 ns. -/
  time : Nat
  rails : List Nat
  channels : List AsyChannel
  changeRefused : Nat
  /-- Event log entries held, LOG_COUNT and LOG_DIGEST. -/
  log : List (List Byte)
  logCount : Nat
  logDigest : BitVec 384
  logFullRaised : Bool
  /-- Signed records held, oldest first: channel and bytes; the next RECORD_SEQ. -/
  records : List (Nat × List Byte)
  nextSeq : Nat
  deriving DecidableEq, Repr, Inhabited

/-- Who asked for a record (R518): I3C, an ASSAY.READ slot, or none. -/
inductive AsyFor where
  | cause
  | i3c
  | message (fn : Nat) (slot : Nat)
  deriving DecidableEq, Repr, Inhabited

/-- A record asked for: channel, CAUSE and requester; formed bytes 0x000 to 0x39F less RECORD_SEQ once formed. -/
structure AsyRequest where
  channel : Nat
  cause : Nat
  for_ : AsyFor
  formed : Option (List Byte)
  deriving DecidableEq, Repr, Inhabited

/-- The Assay die. -/
structure AssayState where
  vasy : Bool
  sealed_ : Bool
  tot : AsyTotals
  /-- What MRAM holds since the last commit (R521). -/
  mram : AsyTotals
  /-- Energy of each rail in the current cycle, and past the period in which its frame should have come: the next cycle's, where
  that frame is missing (R513, R516). -/
  cycleRails : List Nat
  lateRails : List Nat
  linkUp : Bool
  /-- Assay clock of the last frame, its cycle, holdover mark and quadrant map. -/
  lastFrame : Option Nat
  lastCycle : BitVec 64
  holdover : Bool
  map : List (BitVec 8)
  missingFrames : Nat
  /-- Assay clock up to which the 10 ms marks of MISSING_CYCLES have been looked at (R516). -/
  lastTick : Nat
  /-- Channels of the jobs opened while VASY was absent, which the hub tells the Assay of when it returns (R517). -/
  openedDark : List Nat
  /-- Records asked for and not yet signed, in order of formation. -/
  waiting : List AsyRequest
  /-- I3C: dynamic address, register offset, ASY_RESULT, ASY_ARG, latches, ASY_WINDOW, and the last bytes returned. -/
  dynAddr : Option (BitVec 7)
  offset : BitVec 16
  resultCode : Nat
  resultCmd : Nat
  done : Bool
  arg : BitVec 64
  latches : Tab (BitVec 33)
  window : List Byte
  reply : List Byte
  /-- Channel blocks of the mirror, as the last frame left them (R525). -/
  mirror : List (List Byte)
  deriving DecidableEq, Repr, Inhabited

end Sys2Proof.Machine
end

