-- ==== Sys2Proof/Machine/State.lean ====
section
/-!
DEFINITION. Machine/State.lean: the state of the part, its reset state, and the reasons a step can stop.
-/
namespace Sys2Proof.Machine

/-- The part. -/
structure State where
  /-- MODEL: hub clocks (2.0 GHz, 0.5 ns) since the model's start (notes/assumptions/1.md). -/
  now : Nat
  /-- MODEL: number of the next free value (notes/assumptions/2.md). -/
  freeCtr : Nat
  /-- MODEL: the commands that wait, first in, first out. -/
  pending : List Instr
  /-- MODEL: every event raised since power-up or the last reset of the part, newest first (notes/assumptions/8.md). -/
  raised : List Event
  boot : Boot
  cad : Cadence
  levels : Tab LevelState
  cores : Tab CoreState
  /-- Core stores, key core * 2^26 + address (R100). -/
  coreMem : Mem
  /-- Hub shared store (R14). -/
  hubMem : Mem
  /-- Weight memories of the stem engines, key engine * 2^19 + byte (R278). -/
  stemMem : Mem
  /-- Near memory, key the 40-bit address (R398). -/
  nearMem : Mem
  /-- Far memory, key link half * 2^64 + host physical address (R407, R408). -/
  farMem : Mem
  /-- MODEL: how many times Global Persistent Flush has run on each link half since power-up (R409). -/
  flushes : Tab Nat
  /-- Host memory as the part has written it (R471). -/
  hostMem : Mem
  /-- BAR0 bytes of each function: slots, ledger, export and record windows, MSI-X table; key function * 2^24 + offset. -/
  barMem : Mem
  fns : Tab Fn
  mem : MemoryState
  links : Tab LinkHalf
  pwr : PowerState
  asy : AssayState
  /-- The ROSTER message pending on the part (R384). -/
  rosterMsg : Option PendingRoster
  /-- MODEL: messages taken from inbound slots since the last reset of the part (R480). -/
  takes : Nat
  deriving DecidableEq, Repr

/-- Why the machine stops with a fault: never. The spec gives every command of the table an effect (an error of the
part is an event, a status or a containment, each a next state), so there is no fault to name. -/
inductive Fault where
  deriving DecidableEq, Repr

/-- Why a command has no meaning. -/
inductive Refusal where
  /-- Raised by the dispatch for a row that has no meaning yet; safe (the machine stops). -/
  | notModelled (mnemonic : String)
  deriving DecidableEq, Repr

/-! ### Defaults: what an unlisted key of a table holds, and the values after reset -/

/-- An absent Level's record (R418). -/
def LevelRecord.absent : LevelRecord := ⟨0, 0, 0, 0, 0, 0, 0, 0, 0, 0⟩

/-- A Tally as JOB.OPEN sets it (R77). -/
def TallyState.fresh : TallyState := ⟨0, 1, false, 0, 0⟩

/-- A phase timer as JOB.OPEN sets it (R81). -/
def PhaseTimer.fresh : PhaseTimer := ⟨0, false, none⟩

/-- An engine at JOB.START (R433). -/
def EngineState.fresh : EngineState :=
  { dispatched := [], running := [], suspended := [], slotHeld := [], slice := none, lastSlice := none, ctx := 0,
    switching := false, switch := none, away := [], stalled := [], overrunEnd := 0, debt := [], slipCycle := 0 }

/-- A batch at JOB.OPEN. -/
def Batch.fresh : Batch := ⟨[], [], 0, 0, []⟩

/-- An EMPTY ledger record (R185). -/
def LedgerRecord.fresh : LedgerRecord :=
  { state := 0, flags := 0, formats := 0, step := 0, lstep := 0, beginCycle := 0, beginAngle := 0, closeCycle := 0, closeAngle := 0,
    counts := [], firsts := [], hist := [], outputCrc := 0 }

/-- An empty Pit Log (R461). -/
def PitLog.fresh : PitLog := ⟨[], 0, 0, 0, 0⟩

/-- No counts. -/
def Accounting.zero : Accounting := ⟨0, 0, 0, 0, []⟩

/-- An absent Level, with every register of its blocks at its reset value (R86, R418). -/
def LevelState.absent : LevelState :=
  { record := .absent, image := none, ledgerArea := none, ledger := [], invalid := [], invalidRaised := [], deferred := [], tallies := [],
    timers := [], engines := [], batches := [], requests := [], generations := [], job := none, graceHeld := 0, lstep := 0, offset := 0,
    slipCount := 0, slipMax := 0, slipFirst := none, log := .fresh, tallyLog := [], acct := .zero,
    frame := .zero, switchWork := [], handed := [], results := [] }

/-- A vector engine at rest. -/
def Control.idle : Control :=
  { running := false, ip := 0, code := 0, length := 0, loops := [], tensor := 0, row := 0, col := 0, step := none,
    level := 0, context := 0, entry := 0 }

/-- A core after reset: fill level 0 (R495), the dummy pattern in bfloat16 (R112), accumulators zero
(notes/assumptions/83.md). -/
def CoreState.fresh : CoreState :=
  { fillLevel := 0, fillTarget := 0, fillStep := 0, fillFrom := 0, sets := [], roles := 0, rowFeed := [], colFeed := [],
    lastFormat := [], regs := ⟨[], [], []⟩, ctl := .idle }

/-- A function after its reset (R476); every MSI-X vector masked, as PCI Express has it (notes/assumptions/9.md). -/
def Fn.fresh : Fn :=
  { version := 0, features := 0, noticeVector := 0xFF, filtered := 0, noticeLost := 0, lostSince := 0, scanMax := 0,
    lastScan := none, takeSeq := 0, noticeSeq := 0, waiting := [], taken := [], wcycleHi := none, wflags := none,
    lstepHi := [], timerHi := [], rdata := 0, msixMask := BitVec.allOnes 64, msixPending := 0, msixSent := [] }

/-- A link half with nothing on it. -/
def LinkHalf.down : LinkHalf := ⟨false, false, 0, false, false, 0⟩

/-- 10 ms in hub clocks (R51). -/
def Period.tenMs : Period := ⟨20000000, 1⟩

/-- The Winder after power-up (R47, R51, R85). -/
def Cadence.fresh (now : Nat) : Cadence :=
  { state := .unlocked, acqFrom := .unlocked, history := [], lastAccepted := none, lastEdge := none, words := [],
    prevNamed := none, goodRun := 0, badRun := 0, number := 0, ended := 0, ordinal := 0, cycleStart := now, prevStart := now, early := 0,
    cyclePeriod := .tenMs,
    holdPeriod := .tenMs, everMeasured := false, frozen := false, flags := 0, wordValid := false, wordSeen := false,
    judged := none, glitches := 0, rsvFlags := 0, compressedAt := 0, compressedFrom := 0, compressed := false,
    stopAtBoundary := false, dropAtBoundary := false }

/-- Memories and identity block before training (R476). -/
def MemoryState.fresh : MemoryState := ⟨0, 0, 0, [], [], [], [], [], [], []⟩

/-- A quadrant at its top bin and nominal voltage (R527, R537; notes/assumptions/10.md). -/
def QuadPower.fresh : QuadPower :=
  { bin := Config.topBin, pendingBin := none, duty := 8, dutyHold := 0, millivolts := 720, adjustedAt := none,
    limitBin := none, drooping := false, arith := 0, pausedUntil := 0, droopCycle := 0 }

/-- Power control after reset. -/
def PowerState.fresh : PowerState :=
  { quads := [.fresh, .fresh, .fresh, .fresh], amps := List.replicate 10 0, temps := List.replicate 10 0,
    status := List.replicate 10 0, volts := List.replicate 4 720, railLost := 0, power := [], firstSample := none, lf := [], frames := 0,
    framed := [] }

/-- No board configuration. -/
def Board.none : Board := ⟨0, 0, [], 0⟩

/-- Boot with rails up, RESET_L and PE_PERST_L low; fuses as given. -/
def Boot.fresh (rollback : Nat) (revoked : BitVec 4) : Boot :=
  { rails := true, vaux := true, resetHigh := false, perstHigh := false, thermtripHigh := true, romDone := false, linkUp := false,
    fw := .awaiting, reason := 0, rollback := rollback, revoked := revoked, window := [], sram := [], fwDigest := 0, svn := 0,
    fwFlags := 0, keyIndex := 0, board := .none, debugUnlocked := false, tokenPending := false, challenge := 0,
    cxTrained := 0 }

/-- An empty line. -/
def AsyLine.zero : AsyLine := ⟨0, 0, 0⟩

/-- A channel at sealing. -/
def AsyChannel.zero : AsyChannel := ⟨0, 0, 0, 0, 0, 0, 0, 0, List.replicate 9 .zero, false⟩

/-- One entry of the Assay's event log (R520). -/
def asyLogEntry (seq timeUs : Nat) (cycle : BitVec 64) (kind : Nat) (data : List Byte) : List Byte :=
  leBytes 8 seq ++ leBytes 8 timeUs ++ leBytes 8 cycle.toNat ++ leBytes 2 kind ++ (data ++ List.replicate 6 0).take 6

/-- The SEAL entry (R520). -/
def asySealEntry : List Byte := asyLogEntry 0 0 (BitVec.allOnes 64) 1 [Config.romVersion]

/-- The Assay's totals at sealing (R517, R520). -/
def AsyTotals.atSealing : AsyTotals :=
  { time := 0, rails := List.replicate 10 0, channels := List.replicate 5 .zero, changeRefused := 0, log := [asySealEntry],
    logCount := 1, logDigest := sha384 (List.replicate 48 0 ++ asySealEntry), logFullRaised := false, records := [],
    nextSeq := 0 }

/-- The Assay as VASY rises, with totals as MRAM gives them (R521, R522). -/
def AssayState.fromMram (m : AsyTotals) : AssayState :=
  { vasy := true, sealed_ := true, tot := m, mram := m, cycleRails := List.replicate 10 0,
    lateRails := List.replicate 10 0, linkUp := false,
    lastFrame := none, lastCycle := BitVec.allOnes 64, holdover := false, map := [0, 0, 0, 0], missingFrames := 0,
    lastTick := m.time, openedDark := [], waiting := [], dynAddr := none, offset := 0,
    resultCode := 0, resultCmd := 0, done := true, arg := 0, latches := [],
    window := List.replicate 1024 0, reply := [], mirror := [] }

/-- The part right after power-up: rails in tolerance, RESET_L and PE_PERST_L low, a sealed Assay on VASY. -/
def State.reset : State :=
  { now := 0, freeCtr := 0, pending := [], raised := [], boot := .fresh (min 64 Config.fusedRollback) Config.fusedRevoked,
    cad := .fresh 0, levels := [], cores := [], coreMem := [], hubMem := [], stemMem := [], nearMem := [], farMem := [], flushes := [], hostMem := [],
    barMem := [], fns := [], mem := .fresh, links := [], pwr := .fresh, asy := .fromMram .atSealing, rosterMsg := none, takes := 0 }

end Sys2Proof.Machine
end

