-- ==== Sys2Proof/Machine/Ops.lean ====
section
/-!
DEFINITION. Machine/Ops.lean: the named operations every meaning is written over: reading and updating the parts of the
state, cadence time (R37 to R41), events, notices and Pit Log entries (R462, R483, R560 to R562), stops (R71), memory
with its checks (R106, R399, R408, R439, R568), Tallies (R78) and the passing of one hub clock (R81).
-/
namespace Sys2Proof.Machine

/-- The outcome of every meaning. -/
abbrev Result := Host.Outcome State Fault Refusal

/-! ### Parts of the state -/

/-- Level `l`. -/
def State.lvl (s : State) (l : Fin 4) : LevelState := tabGet .absent s.levels l.val

/-- Replace Level `l`. -/
def State.setLvl (s : State) (l : Fin 4) (x : LevelState) : State := { s with levels := tabPut .absent s.levels l.val x }

/-- Change Level `l`. -/
def State.updLvl (s : State) (l : Fin 4) (f : LevelState → LevelState) : State := s.setLvl l (f (s.lvl l))

/-- Change the job of Level `l`, if one is open. -/
def State.updJob (s : State) (l : Fin 4) (f : Job → Job) : State := s.updLvl l fun ls => { ls with job := ls.job.map f }

/-- Core `n`. -/
def State.core (s : State) (n : Nat) : CoreState := tabGet .fresh s.cores n

/-- Replace core `n`. -/
def State.setCore (s : State) (n : Nat) (x : CoreState) : State := { s with cores := tabPut .fresh s.cores n x }

/-- Change core `n`. -/
def State.updCore (s : State) (n : Nat) (f : CoreState → CoreState) : State := s.setCore n (f (s.core n))

/-- Function `n`: 0 the PF, n the VF of Level n - 1 (R470). -/
def State.fn (s : State) (n : Nat) : Fn := tabGet .fresh s.fns n

/-- Replace function `n`. -/
def State.setFn (s : State) (n : Nat) (x : Fn) : State := { s with fns := tabPut .fresh s.fns n x }

/-- Change function `n`. -/
def State.updFn (s : State) (n : Nat) (f : Fn → Fn) : State := s.setFn n (f (s.fn n))

/-- Engine `e` as Level `ls` sees it. -/
def LevelState.eng (ls : LevelState) (e : Nat) : EngineState := tabGet .fresh ls.engines e

/-- Replace engine `e`. -/
def LevelState.setEng (ls : LevelState) (e : Nat) (x : EngineState) : LevelState :=
  { ls with engines := tabPut .fresh ls.engines e x }

/-- Change engine `e` of Level `l`. -/
def State.updEng (s : State) (l : Fin 4) (e : Nat) (f : EngineState → EngineState) : State :=
  s.updLvl l fun ls => ls.setEng e (f (ls.eng e))

/-- Quadrant `q`. -/
def State.quad (s : State) (q : Nat) : QuadPower := s.pwr.quads.getD q .fresh

/-- The arithmetic clock of the quadrant of a core engine (R88). -/
def State.arith (s : State) (eng : Nat) : Nat := (s.quad (eng % 16 / 4)).arith

/-- Parts of an arithmetic cycle in which its clock is kept (R88): a hub clock at bin b (in 100 MHz) and duty d (in eighths)
holds b * d of them. -/
def arithParts : Nat := 160

/-- Link half `h` (R405). -/
def State.link (s : State) (h : Nat) : LinkHalf := tabGet .down s.links h

/-- Replace link half `h`. -/
def State.setLink (s : State) (h : Nat) (x : LinkHalf) : State := { s with links := tabPut .down s.links h x }

/-- The next free value, and the state that has used it (notes/assumptions/2.md). -/
def State.free64 (s : State) : BitVec 64 × State := (Config.freeWord s.freeCtr, { s with freeCtr := s.freeCtr + 1 })

/-- The secret number of the next signature, from 1 to n - 1, and the state that has used it. -/
def State.nonce (s : State) : Nat × State := (scalarOf (Config.signNonce s.freeCtr), { s with freeCtr := s.freeCtr + 1 })

/-! ### Levels -/

/-- A Level that holds a quadrant is present (R418). -/
def LevelState.present (ls : LevelState) : Bool := decide (ls.record.quads ≠ 0)

/-- The Level owns quadrant `q` (R418). -/
def LevelState.ownsQuad (ls : LevelState) (q : Nat) : Bool := decide (q < 4) && bitAt ls.record.quads.toNat q

/-- The Level owns core `n` (R17). -/
def LevelState.ownsCore (ls : LevelState) (n : Nat) : Bool := ls.ownsQuad (n / 4)

/-- The Level that owns a quadrant (R418). -/
def State.quadOwner (s : State) (q : Nat) : Option (Fin 4) := (List.finRange 4).find? fun l => (s.lvl l).ownsQuad q

/-- Every quadrant is owned (R425). -/
def State.allOwned (s : State) : Bool := (List.range 4).all fun q => (s.quadOwner q).isSome

/-- Sum of a field of the records of the Levels below `l` (R419). -/
def State.blockBase (s : State) (l : Fin 4) (f : LevelRecord → Nat) : Nat :=
  ((List.finRange 4).filter fun k => k < l).foldl (fun acc k => acc + f (s.lvl k).record) 0

/-- The lowest-numbered quadrant of a Level. -/
def LevelState.lowQuad (ls : LevelState) : Nat := ((List.range 4).find? ls.ownsQuad).getD 0

/-- Bytes installed in one quadrant (R398). -/
def State.quadBytes (s : State) : Nat :=
  if s.mem.density = 2 then 2 ^ 36 else if s.mem.density = 1 then 2 ^ 35 else 0

/-- A near-memory address lies in the installed near memory of a Level (R398, R399). -/
def State.nearOk (s : State) (l : Fin 4) (a : Nat) : Bool :=
  decide (a < 2 ^ 38) && (s.lvl l).ownsQuad (a / 2 ^ 36) && decide (a % 2 ^ 36 < s.quadBytes)

/-- A range of near memory lies in the Level's near memory: each quadrant it touches is the Level's, and it runs past the
end of a quadrant only where the installed memory does (R398, R399). -/
def State.nearRangeOk (s : State) (l : Fin 4) (a n : Nat) : Bool :=
  let q := a / 2 ^ 36
  let e := (a + n - 1) / 2 ^ 36
  decide (n = 0) || (s.nearOk l a && s.nearOk l (a + n - 1) &&
    (List.range (e - q + 1)).all fun i => (s.lvl l).ownsQuad (q + i) && (decide (q + i = e) || decide (s.quadBytes = 2 ^ 36)))

/-- Base of the Pit Log ring of a Level (R461). -/
def State.pitBase (s : State) (l : Fin 4) : Nat := (s.lvl l).lowQuad * 2 ^ 36 + (s.quadBytes - 2 ^ 30)

/-! ### Cadence time -/

/-- Mean of the accepted intervals, none while there are none (R37). -/
def Cadence.measured (c : Cadence) : Option Period :=
  if c.history.isEmpty then none else some ⟨c.history.foldl (· + ·) 0, c.history.length⟩

/-- The current period of R46: measured while LOCKED, otherwise the holdover period. DESIGN CHOICE (notes/assumptions/101.md): that is
the period of the next holdover cycle, which R51 may already have changed while the one in progress keeps its own. -/
def Cadence.current (c : Cadence) : Period :=
  if c.state = .locked then c.measured.getD c.holdPeriod else c.holdPeriod

/-- The period that divides the cycle in progress into counts: measured while LOCKED, otherwise the holdover cycle's own
(R37, R51). -/
def Cadence.dividing (c : Cadence) : Period :=
  if c.state = .locked then c.measured.getD c.cyclePeriod else c.cyclePeriod

/-- Parts of a hub clock in which the exact start of a holdover cycle is kept: each of 1 to 16 intervals divides it (R51). -/
def clockParts : Nat := 720720

/-- Time since the exact start of the current cycle, in parts of a hub clock. -/
def Cadence.elapsed (c : Cadence) (t : Nat) : Nat := (t - c.cycleStart) * clockParts + c.early

/-- The angle at a hub clock of the current cycle; it holds at 0xFFFF until the cycle ends (R37, R39). -/
def Cadence.angleAt (c : Cadence) (t : Nat) : Nat :=
  let p := c.dividing
  min 0xFFFF (c.elapsed t * 65536 * p.n / (p.sum * clockParts))

/-- The hub clock is exactly the first instant of its count. -/
def Cadence.atCountStart (c : Cadence) (t : Nat) : Bool :=
  let p := c.dividing
  decide (c.elapsed t * 65536 * p.n % (p.sum * clockParts) = 0)

/-- The present angle. -/
def State.angle (s : State) : Nat := s.cad.angleAt s.now

/-- The holdover mark of the cadence time (R41). -/
def State.holdoverMark (s : State) : Bool := decide (s.cad.state ≠ .locked)

/-- Cadence counts since the first cycle of a job (R43, R67). -/
def State.countNow (s : State) (j : Job) : Nat := (s.cad.ordinal - j.beginOrdinal) * 65536 + s.angle

/-- Hub clocks to nanoseconds. -/
def clocksToNs (n : Nat) : Nat := n / 2

/-! ### Pit Log (R461 to R463) -/

/-- Zeros up to a whole number of bytes. -/
def padTo (n : Nat) (bs : List Byte) : List Byte := bs ++ List.replicate (n - bs.length) 0

/-- Units of 64 bytes an entry takes (R462). -/
def logUnits (body : List Byte) : Nat := max 1 (ceilDiv (32 + body.length) 64)

/-- The bytes of an entry (R462). -/
def LogEntry.bytes (e : LogEntry) : List Byte :=
  let u := logUnits e.body
  padTo (64 * u) (leBytes 8 e.seq.toNat ++ leBytes 8 e.cycle.toNat ++ leBytes 2 e.angle.toNat ++ leBytes 2 e.kind ++ leBytes 2 u ++
    leBytes 2 (if e.holdover then 1 else 0) ++ leBytes 8 e.step.toNat ++ e.body)

/-- Byte `o` of the unit that lies `back` units before the newest one, in entries given newest first. -/
def unitByte : List LogEntry → Nat → Nat → Option Byte
  | [], _, _ => none
  | e :: es, back, o =>
    let u := logUnits e.body
    if back < u then e.bytes[64 * (u - 1 - back) + o]? else unitByte es (back - u) o

/-- Byte `o` of the ring, where a held entry stands there. DESIGN CHOICE (notes/assumptions/40.md): entries stand one behind the
other from the ring's first byte, and go on there past its end. -/
def PitLog.ringByte (g : PitLog) (o : Nat) : Option Byte :=
  let back := (g.written + 2 ^ 24 - 1 - o / 64) % 2 ^ 24
  if back < g.units then unitByte g.entries.reverse back (o % 64) else none

/-- Drop the oldest entries until `n` units fit into the ring of 1 GiB. -/
def pitTrim : List LogEntry → Nat → Nat → Nat → List LogEntry × Nat × Nat
  | [], units, lost, _ => ([], units, lost)
  | e :: es, units, lost, n =>
    if units + n ≤ 2 ^ 24 then (e :: es, units, lost) else pitTrim es (units - logUnits e.body) (lost + 1) n

/-- The CADENCE entry of the recorded cycle that a running replay re-runs now: that of the same step and offset (R54, R466). -/
def LevelState.recordedCycle (ls : LevelState) : Option LogEntry :=
  match ls.job with
  | some j => match j.replay with
    | some r =>
      if j.phase = .running ∨ j.phase = .draining then
        (r.log.filter fun e => decide (e.kind = 3) && decide (e.step = ls.lstep))[ls.offset]?
      else none
    | none => none
  | none => none

/-- The cycle number that a running replay takes from its record, none for a live Level. -/
def LevelState.replayCycle (ls : LevelState) : Option (BitVec 64) := ls.recordedCycle.map LogEntry.cycle

/-- The cycle number of the cadence time of something that belongs to a Level, or to the whole part (R41, R54, R466). -/
def State.cycleNo (s : State) (level : Option (Fin 4)) : BitVec 64 :=
  match level with
  | some l => (s.lvl l).replayCycle.getD s.cad.number
  | none => s.cad.number

/-- Append one entry to the log of a Level that is present. -/
def State.logPut (s : State) (l : Fin 4) (kind : Nat) (body : List Byte) : State :=
  let ls := s.lvl l
  if ls.present then
    let n := logUnits body
    let (es, u, lost) := pitTrim ls.log.entries ls.log.units ls.log.lost n
    let e : LogEntry :=
      { seq := BitVec.ofNat 64 ls.log.nextSeq, cycle := s.cycleNo (some l), angle := BitVec.ofNat 16 s.angle,
        holdover := s.holdoverMark, kind := kind, step := ls.lstep, body := body }
    s.setLvl l { ls with log := ⟨es ++ [e], ls.log.nextSeq + 1, lost, u + n, ls.log.written + n⟩ }
  else s

/-! ### Events (R482, R483, R559 to R562) -/

/-- The payload of a notice (R561). -/
def Event.payload (e : Event) : List Byte :=
  leBytes 2 e.unit ++ leBytes 2 e.aux ++ leBytes 4 e.entry ++ leBytes 8 e.a.toNat ++ leBytes 8 e.b.toNat ++
    leBytes 8 e.c.toNat

/-- The bit of EVENT_MASK that suppresses an event (R565). -/
def maskBit : Nat → Option Nat
  | 0x1001 => some 0 | 0x1002 => some 1 | 0x2010 => some 2 | 0x2022 => some 3 | 0x3001 => some 4 | 0x4001 => some 5
  | 0x4003 => some 6 | 0x5001 => some 7 | 0x8002 => some 8 | 0x8003 => some 9 | 0x8004 => some 10 | 0x9003 => some 11
  | _ => none

/-- The job of the event's Level suppresses it (R565). -/
def State.masked (s : State) (code : Nat) (level : Option (Fin 4)) : Bool :=
  match level, maskBit code with
  | some l, some b => match (s.lvl l).job with
    | some j => decide (j.phase ≠ .opening) && bitAt j.mask.toNat b
    | none => false
  | _, _ => false

/-- Saturating increment of a 32-bit count. -/
def satInc32 (x : BitVec 32) : BitVec 32 := if x = BitVec.allOnes 32 then x else x + 1

/-- Saturating increment of a 16-bit count. -/
def satInc16 (x : BitVec 16) : BitVec 16 := if x = BitVec.allOnes 16 then x else x + 1

/-- Put a notice among the waiting ones, newest first: notices take SEQ in the order of their hub clocks, and those of one clock
in ascending code (R562). -/
def placeNotice (n : Notice) : List Notice → List Notice
  | [] => [n]
  | x :: xs =>
    if n.event.time < x.event.time ∨ (x.event.time = n.event.time ∧ n.event.code < x.event.code) then
      { x with seq := n.seq, lost := n.lost } :: placeNotice { n with seq := x.seq, lost := x.lost } xs
    else n :: x :: xs

/-- A notice arises on a function (R483): discarded before its first HELLO; otherwise it takes the next SEQ, and waits, or
is discarded and counted when 1,024 wait. -/
def Fn.notify (f : Fn) (e : Event) : Fn :=
  if f.version = 0 then f
  else if f.waiting.length < 1024 then
    { f with noticeSeq := f.noticeSeq + 1, waiting := (placeNotice ⟨f.noticeSeq, f.lostSince, e, none⟩ f.waiting.reverse).reverse,
             lostSince := 0 }
  else
    { f with noticeSeq := f.noticeSeq + 1, noticeLost := satInc32 f.noticeLost, lostSince := satInc16 f.lostSince }

/-- The functions an event is posted to (R483). -/
def State.eventFns (s : State) : Option (Fin 4) → List Nat
  | some l => [0, l.val + 1]
  | none => 0 :: (((List.finRange 4).filter fun l => (s.lvl l).present).map fun l => l.val + 1)

/-- The Levels whose logs an event is entered in: its own, or for the whole part every Level. -/
def eventLogs : Option (Fin 4) → List (Fin 4)
  | some l => [l]
  | none => List.finRange 4

/-- The body of an EVENT entry: the code, then the payload (R463, R562). -/
def Event.logBody (e : Event) : List Byte := leBytes 8 e.code ++ e.payload

/-- Post an event that has arisen. -/
def State.post (s : State) (e : Event) : State :=
  let s := { s with raised := e :: s.raised }
  let s := (eventLogs e.level).foldl (fun s l => s.logPut l 0x0D e.logBody) s
  if s.masked e.code e.level then s
  else (s.eventFns e.level).foldl (fun s n => s.updFn n fun f => f.notify e) s

/-- An event with the present cadence time. -/
def State.event (s : State) (code : Nat) (level : Option (Fin 4)) (unit aux entry : Nat) (a b c : Nat) : Event :=
  { time := s.now, code := code, level := level, unit := unit, aux := aux, entry := entry, a := BitVec.ofNat 64 a, b := BitVec.ofNat 64 b,
    c := BitVec.ofNat 64 c, cycle := s.cycleNo level, angle := BitVec.ofNat 16 s.angle, holdover := s.holdoverMark }

/-- EV_LOG_WRAP once per job, when entries have been overwritten (R461). -/
def State.checkWrap (s : State) (l : Fin 4) : State :=
  let ls := s.lvl l
  match ls.job with
  | some j =>
    if ls.log.lost ≠ 0 ∧ j.wrapRaised = false then
      let s := s.updJob l fun j => { j with wrapRaised := true }
      s.post (s.event 0x9003 (some l) 0 0 0 ls.log.lost 0 0)
    else s
  | none => s

/-- Raise an event (R483, R562). Fields it does not use read zero. -/
def State.raise (s : State) (code : Nat) (level : Option (Fin 4)) (unit aux entry : Nat) (a : Nat := 0) (b : Nat := 0)
    (c : Nat := 0) : State :=
  let s := s.post (s.event code level unit aux entry a b c)
  (eventLogs level).foldl State.checkWrap s

/-- What `f` does, done as of hub clock `t`: an edge that the part supplies itself acts at its own time, and the events and
log entries of the boundary carry that time (R50, R51, R562). -/
def State.asOf (s : State) (t : Nat) (f : State → State) : State :=
  { f { s with now := t } with now := s.now }

/-- Raise an event of a boundary that has passed, at angle 0 of the cycle that began there: `cycle` on the holdover timebase,
at hub clock `t` (R41). -/
def State.raiseAt (s : State) (t : Nat) (cycle : BitVec 64) (f : State → State) : State :=
  { f { s with now := t, cad := { s.cad with number := cycle, cycleStart := t, early := 0, state := .holdover } } with
    now := s.now, cad := s.cad }

/-- Enter something in a Level's Pit Log. -/
def State.log (s : State) (l : Fin 4) (kind : Nat) (body : List Byte) : State := (s.logPut l kind body).checkWrap l

/-! ### Stops and containment (R71, R416) -/

/-- The Level's running job stops at the next cycle boundary (R71, R426). -/
def State.stopJob (s : State) (l : Fin 4) : State :=
  s.updJob l fun j => if j.phase = .running then { j with stopPending := true } else j

/-- Containment (R416): until the stop no stamp is written and no record vector raised. -/
def State.contain (s : State) (l : Fin 4) : State :=
  s.updJob l fun j =>
    if j.phase = .opening ∨ j.phase = .stopped then j
    else { j with contained := true, stopPending := j.stopPending || decide (j.phase ≠ .draining) }

/-- The Level is contained. -/
def State.isContained (s : State) (l : Fin 4) : Bool :=
  match (s.lvl l).job with
  | some j => j.contained
  | none => false

/-! ### Memory -/

/-- Who makes an access: Level, engine code, context and schedule entry. -/
structure Cmd where
  lvl : Fin 4
  eng : Nat
  ctx : Nat
  entry : Nat
  /-- LSTEP of its dispatch (R187). -/
  step : Nat
  deriving DecidableEq, Repr

/-- What a command has done so far: writes (newest first), refused core-store lines (`lineKey`), first
refused near and far addresses, first blocked frozen address, failed blocks it met, bytes moved (R442) and corrected reads. -/
structure Acc where
  writes : List Write
  refused : List Nat
  nearBad : Option Nat
  farBad : Option Nat
  frozenBad : Option Nat
  failedNear : List Nat
  failedCore : List Nat
  failedHub : List Nat
  /-- Failed far reads: the link half of one that was down, and the first far address that failed (R415). -/
  failedFar : List (Option Nat × Nat)
  nearBytes : Nat
  farBytes : Nat
  /-- Lines of near memory that it read and whose reads the devices corrected (R400). -/
  weak : List Nat
  deriving DecidableEq, Repr, Inhabited

/-- Nothing done. -/
def Acc.empty : Acc := ⟨[], [], none, none, none, [], [], [], [], 0, 0, []⟩

/-- Add an element to a list that does not hold it. -/
def addNew (x : Nat) (xs : List Nat) : List Nat := if xs.contains x then xs else xs ++ [x]

/-- The 64-byte lines that `n` bytes from `a` touch. -/
def linesOf (a n : Nat) : List Nat :=
  if n = 0 then [] else (List.range ((a + n - 1) / 64 + 1 - a / 64)).map fun i => (a / 64 + i) * 64

/-- A core-store line lies in a share that the context may read (R105, R106). -/
def shareReads (shares : List Share) (ctx core line : Nat) : Bool :=
  shares.any fun sh => sh.context = ctx && sh.core = core && decide (sh.start ≤ line) && decide (line < sh.start + sh.size)

/-- A core-store line lies in a share that the context may write (R105, R106). -/
def shareWrites (shares : List Share) (ctx core line : Nat) : Bool :=
  shares.any fun sh =>
    sh.context = ctx && sh.core = core && decide (sh.start ≤ line) && decide (line < sh.start + sh.size) && !sh.sharedRead

/-- The shares of the Level's job (R431). -/
def State.shares (s : State) (l : Fin 4) : List Share :=
  match (s.lvl l).job with
  | some j => j.decl.shares
  | none => []

/-- The chute ranges of the Level's job (R290). -/
def State.chutes (s : State) (l : Fin 4) : List Chute :=
  match (s.lvl l).job with
  | some j => j.decl.chutes
  | none => []

/-- The chute range that holds a core-store line (R290). -/
def chuteAt (cs : List Chute) (core line : Nat) : Option Chute :=
  cs.find? fun c => c.core = core && decide (c.addr ≤ line) && decide (line < c.addr + c.size)

/-- Bytes of a save area (R432). -/
def saveBytes : Nat := 0xD0000

/-- A line lies in the save area of a context that owns a chute range (R290, R432). -/
def guardedSave (shares : List Share) (cs : List Chute) (core line : Nat) : Bool :=
  shares.any fun sh => sh.core = core && sh.region = 0 && decide (sh.start ≤ line) &&
    decide (line < sh.start + min sh.size saveBytes) && cs.any fun c => c.context = sh.context

/-- A context may read a line (R106, R290); `stage` says that a STAGE of a teacher tile reads it. -/
def mayRead (shares : List Share) (cs : List Chute) (ctx core line : Nat) (stage : Bool) : Bool :=
  shareReads shares ctx core line && (chuteAt cs core line).isSome == stage && !guardedSave shares cs core line

/-- A context may write a line (R106, R290); `drain` says that the drain of one of its passes writes it. -/
def mayWrite (shares : List Share) (cs : List Chute) (ctx core line : Nat) (drain : Bool) : Bool :=
  shareWrites shares ctx core line && (match chuteAt cs core line with
    | some c => drain && decide (c.context = ctx)
    | none => true)

/-- How a refused line is kept: its core and its lowest refused byte; an address beyond 26 bits keeps its number (R106). -/
def lineKey (core byte : Nat) : Nat := core * 2 ^ 80 + byte

/-- Add a refused line, or lower the byte kept for it. -/
def addLine (x : Nat) (xs : List Nat) : List Nat :=
  if xs.any fun y => y / 64 = x / 64 then xs.map fun y => if y / 64 = x / 64 then min x y else y else xs ++ [x]

/-- Read core-store bytes under the checks of R106 and R290; refused lines and failed lines deliver zeros. -/
def readCore (s : State) (c : Cmd) (a : Acc) (core addr n : Nat) (stage : Bool := false) : List Byte × Acc :=
  let sh := s.shares c.lvl
  let cs := s.chutes c.lvl
  let lines := linesOf addr n
  let bad := lines.filter fun ln => !mayRead sh cs c.ctx core ln stage
  let failed := lines.filter fun ln => !bad.contains ln && s.mem.failedCore.contains ((core * 2 ^ 26 + ln) / 64)
  let bytes := (List.range n).map fun i =>
    let ln := (addr + i) / 64 * 64
    if bad.contains ln || failed.contains ln then 0 else memGet s.coreMem (core * 2 ^ 26 + addr + i)
  (bytes,
    { a with
      refused := bad.foldl (fun r ln => addLine (lineKey core (max ln addr)) r) a.refused,
      failedCore := failed.foldl (fun r ln => addNew (core * 2 ^ 26 + ln) r) a.failedCore })

/-- Cut bytes at 64-byte boundaries; `fuel` bounds the number of pieces. -/
def cutLines : Nat → Nat → List Byte → List (Nat × List Byte)
  | 0, _, _ => []
  | fuel + 1, a, bs =>
    if bs.isEmpty then []
    else
      let k := 64 - a % 64
      (a, bs.take k) :: cutLines fuel (a + (bs.take k).length) (bs.drop k)

/-- The pieces of a run of bytes, cut at 64-byte boundaries. -/
def piecesOf (a : Nat) (bs : List Byte) : List (Nat × List Byte) := cutLines (bs.length + 1) a bs

/-- Write core-store bytes under the checks of R106 and R290: a refused line is discarded alone. -/
def writeCore (s : State) (c : Cmd) (a : Acc) (at_ core addr : Nat) (bs : List Byte) (drain : Bool := false) : Acc :=
  let sh := s.shares c.lvl
  let cs := s.chutes c.lvl
  (piecesOf addr bs).foldl (fun a p =>
    if mayWrite sh cs c.ctx core (p.1 / 64 * 64) drain then { a with writes := ⟨at_, .core core, p.1, p.2⟩ :: a.writes }
    else { a with refused := addLine (lineKey core p.1) a.refused }) a

/-- A byte of near memory as Level `l` reads it: in the Level's Pit Log ring the log's own bytes (R461). -/
def State.nearByte (s : State) (l : Fin 4) (a : Nat) : Byte :=
  let base := s.pitBase l
  if base ≤ a ∧ a < base + 2 ^ 30 then ((s.lvl l).log.ringByte (a - base)).getD (memGet s.nearMem a) else memGet s.nearMem a

/-- The lines of a range of near memory whose reads the devices correct (R400). -/
def State.weakLines (s : State) (addr n : Nat) : List Nat := (linesOf addr n).filter fun ln => s.mem.weak.contains (ln / 64)

/-- Read near memory under R399; refused bytes and failed blocks deliver zeros. -/
def readNear (s : State) (c : Cmd) (a : Acc) (addr n : Nat) : List Byte × Acc :=
  let lines := linesOf addr n
  let failed := lines.filter fun ln => s.nearOk c.lvl ln && s.mem.failedNear.contains (ln / 64)
  let bad := (List.range n).find? fun i => !s.nearOk c.lvl (addr + i)
  let bytes := (List.range n).map fun i =>
    if !s.nearOk c.lvl (addr + i) || failed.contains ((addr + i) / 64 * 64) then 0 else s.nearByte c.lvl (addr + i)
  (bytes,
    { a with nearBad := a.nearBad <|> (bad.map fun i => addr + i),
             failedNear := failed.foldl (fun r ln => addNew ln r) a.failedNear, nearBytes := a.nearBytes + n,
             weak := a.weak ++ (s.weakLines addr n).filter (s.nearOk c.lvl) })

/-- An address lies in a frozen range of the Level's job (R439). -/
def State.isFrozen (s : State) (l : Fin 4) (addr : Nat) : Bool :=
  match (s.lvl l).job with
  | some j => j.decl.frozen.any fun f => decide (f.near ≤ addr) && decide (addr < f.near + f.size)
  | none => false

/-- Write near memory under R399 and R439: a piece outside the Level or inside a frozen range is discarded. -/
def writeNear (s : State) (c : Cmd) (a : Acc) (at_ addr : Nat) (bs : List Byte) : Acc :=
  (piecesOf addr bs).foldl (fun a p =>
    if !s.nearOk c.lvl p.1 then { a with nearBad := a.nearBad <|> some p.1 }
    else if s.isFrozen c.lvl p.1 then { a with frozenBad := a.frozenBad <|> some p.1 }
    else { a with writes := ⟨at_, .near, p.1, p.2⟩ :: a.writes, nearBytes := a.nearBytes + p.2.length }) a

/-- The window of a job that holds a far address (R408). -/
def windowOf (ws : List FarWindow) (f : Nat) : Option FarWindow :=
  ws.find? fun w => decide (w.base ≤ f) && decide (f < w.base + w.size)

/-- Positions of the set bits of a LINKS field, lowest first. -/
def linkBits (m : BitVec 16) : List Nat := (List.range 16).filter fun i => bitAt m.toNat i

/-- Where a far address goes: link half and host physical address, as a key of far memory (R408). -/
def farKey (w : FarWindow) (f : Nat) : Nat :=
  let o := f - w.base
  let g := if w.granule4k then 4096 else 256
  let ls := linkBits w.links
  let n := ls.length
  let half := ls.getD (o / g % n) 0
  half * 2 ^ 64 + (w.target + o / (g * n) * g + o % g)

/-- The far windows of the Level's job (R407). -/
def State.windows (s : State) (l : Fin 4) : List FarWindow :=
  match (s.lvl l).job with
  | some j => j.decl.windows
  | none => []

/-- Far memory as the Hoist sees it: its bytes, the stretches that fail, and the link halves that are down. -/
structure FarView where
  mem : Mem
  poisoned : List (Nat × Nat)
  lost : List (Nat × Nat)
  down : List Nat
  deriving DecidableEq, Repr

/-- Far memory now. -/
def State.far (s : State) : FarView := ⟨s.farMem, s.mem.poisoned, s.mem.lost, (List.range 16).filter fun h => !(s.link h).up⟩

/-- A key lies in one of some stretches. -/
def inStretch (ps : List (Nat × Nat)) (key : Nat) : Bool := ps.any fun p => decide (p.1 ≤ key) && decide (key < p.1 + p.2)

/-- A read of a far byte fails: at its link half, which is given, where that is down or the read times out or fails IDE's check, or
poisoned (R415, R568). -/
def FarView.fails (v : FarView) (key : Nat) : Option (Option Nat) :=
  if v.down.contains (key / 2 ^ 64) || inStretch v.lost key then some (some (key / 2 ^ 64))
  else if inStretch v.poisoned key then some none
  else none

/-- Where a far byte of some windows fails, and why. -/
def FarView.failure (v : FarView) (ws : List FarWindow) (f : Nat) : Option (Option Nat) :=
  (windowOf ws f).bind fun w => v.fails (farKey w f)

/-- Read far memory under R408 through some windows; a byte in no window and a byte whose read fails deliver zero. -/
def readFarIn (ws : List FarWindow) (v : FarView) (a : Acc) (addr n : Nat) : List Byte × Acc :=
  let bad := (List.range n).find? fun i => (windowOf ws (addr + i)).isNone
  let failed := (List.range n).findSome? fun i => (v.failure ws (addr + i)).map fun h => (h, addr + i)
  let bytes := (List.range n).map fun i =>
    match windowOf ws (addr + i) with
    | some w => if (v.fails (farKey w (addr + i))).isSome then 0 else memGet v.mem (farKey w (addr + i))
    | none => 0
  (bytes, { a with farBad := a.farBad <|> (bad.map fun i => addr + i), failedFar := a.failedFar ++ failed.toList,
                   farBytes := a.farBytes + n })

/-- Read far memory for a command of the Level's job. -/
def readFar (s : State) (c : Cmd) (a : Acc) (addr n : Nat) : List Byte × Acc :=
  readFarIn (s.windows c.lvl) s.far a addr n

/-- Write far memory under R408: a byte in no window, or in a READ_ONLY one, is discarded. -/
def writeFarIn (ws : List FarWindow) (a : Acc) (at_ addr : Nat) (bs : List Byte) : Acc :=
  (piecesOf addr bs).foldl (fun a p =>
    match windowOf ws p.1 with
    | some w =>
      if w.readOnly then { a with farBad := a.farBad <|> some p.1 }
      else { a with writes := ⟨at_, .far, farKey w p.1, p.2⟩ :: a.writes, farBytes := a.farBytes + p.2.length }
    | none => { a with farBad := a.farBad <|> some p.1 }) a

/-- Write far memory for a command of the Level's job. -/
def writeFar (s : State) (c : Cmd) (a : Acc) (at_ addr : Nat) (bs : List Byte) : Acc :=
  writeFarIn (s.windows c.lvl) a at_ addr bs

/-- Read the hub shared store; failed blocks deliver zeros. -/
def readHub (s : State) (a : Acc) (addr n : Nat) : List Byte × Acc :=
  let failed := (linesOf addr n).filter fun ln => s.mem.failedHub.contains (ln / 64)
  ((List.range n).map fun i => if failed.contains ((addr + i) / 64 * 64) then 0 else memGet s.hubMem (addr + i),
    { a with failedHub := failed.foldl (fun r ln => addNew ln r) a.failedHub })

/-- Write the hub shared store. -/
def writeHub (a : Acc) (at_ addr : Nat) (bs : List Byte) : Acc :=
  (piecesOf addr bs).foldl (fun a p => { a with writes := ⟨at_, .hub, p.1, p.2⟩ :: a.writes }) a

/-- Read core store or near memory. -/
def readLocal (s : State) (c : Cmd) (a : Acc) (near : Bool) (core addr n : Nat) : List Byte × Acc :=
  if near then readNear s c a addr n else readCore s c a core addr n

/-- Write core store or near memory. -/
def writeLocal (s : State) (c : Cmd) (a : Acc) (at_ : Nat) (near : Bool) (core addr : Nat) (bs : List Byte) : Acc :=
  if near then writeNear s c a at_ addr bs else writeCore s c a at_ core addr bs

/-- A write that covers a whole 64-byte block ends its failure (R568). -/
def healed (failed : List Nat) (addr : Nat) (bs : List Byte) : List Nat :=
  if addr % 64 = 0 ∧ bs.length = 64 then failed.filter fun b => decide (b ≠ addr / 64) else failed

/-- Blocks of 64 bytes that stay failed when `n` bytes from `a` are all written (R568). -/
def healRange (failed : List Nat) (a n : Nat) : List Nat :=
  failed.filter fun b => !(decide (a ≤ 64 * b) && decide (64 * b + 64 ≤ a + n))

/-- Carry out one write; none reaches a device over a link half that is down (R415). -/
def State.applyWrite (s : State) (w : Write) : State :=
  match w.space with
  | .core n =>
    let k := n * 2 ^ 26 + w.addr
    { s with coreMem := memWrite s.coreMem k w.bytes, mem := { s.mem with failedCore := healed s.mem.failedCore k w.bytes } }
  | .near =>
    { s with nearMem := memWrite s.nearMem w.addr w.bytes,
             mem := { s.mem with failedNear := healed s.mem.failedNear w.addr w.bytes } }
  | .hub =>
    { s with hubMem := memWrite s.hubMem w.addr w.bytes,
             mem := { s.mem with failedHub := healed s.mem.failedHub w.addr w.bytes } }
  | .far => if (s.link (w.addr / 2 ^ 64)).up then { s with farMem := memWrite s.farMem w.addr w.bytes } else s

/-- Carry out writes, oldest first. -/
def State.applyWrites (s : State) (ws : List Write) : State := ws.foldl State.applyWrite s

/-- Global Persistent Flush on every link half of some windows that are PERSISTENT (R409). -/
def State.flushFar (s : State) (ws : List FarWindow) : State :=
  let halves := (List.range 16).filter fun h =>
    (s.link h).up && ws.any fun w => w.persistent && bitAt w.links.toNat h
  { s with flushes := halves.foldl (fun t h => tabPut 0 t h (tabGet 0 t h + 1)) s.flushes }

/-- The device of a near-memory address (R398). -/
def nearDevice (a : Nat) : Nat := 8 * (a / 2 ^ 36) + a % 2 ^ 36 / 256 % 8

/-- A corrected read of a device is counted, and reported at the first and at each multiple of 65,536 (R400). -/
def State.countCorrected (s : State) (dev : Nat) : State :=
  let n := tabGet 0 s.mem.corrected dev + 1
  let s := { s with mem := { s.mem with corrected := tabPut 0 s.mem.corrected dev n } }
  if n = 1 ∨ n % 65536 = 0 then s.raise 0x3001 (s.quadOwner (dev / 8)) 0 dev 0 n else s

/-- Corrected reads of near-memory addresses are counted (R400). -/
def State.countReads (s : State) (addrs : List Nat) : State :=
  addrs.foldl (fun (s : State) a => s.countCorrected (nearDevice a)) s

/-- What a command's reads meet: far memory as other agents have left it and as it fails, and corrected reads of near memory,
which are counted (R400, R409, R568). -/
def State.withEnv (s : State) (env : FarEnv) : State :=
  State.countReads
    { s with
      farMem := memOverlay s.farMem env.cells,
      mem := { s.mem with poisoned := env.poison, lost := env.lost, weak := env.corrected.map (· / 64) } } env.corrected

/-! ### Tallies (R77, R78) -/

/-- A Tally of the Level's block. -/
def LevelState.tally (ls : LevelState) (t : Nat) : TallyState := tabGet .fresh ls.tallies t

/-- Set a Tally. -/
def LevelState.setTally (ls : LevelState) (t : Nat) (x : TallyState) : LevelState :=
  { ls with tallies := tabPut .fresh ls.tallies t x }

/-- Signal a Tally once: at 0xFFFF it stays, EV_TALLY_OVERFLOW is raised and the job stops (R78). A TALLY_INIT of the same hub
clock is applied after the signal, which it overwrites (R79). -/
def State.signalTally (s : State) (l : Fin 4) (t entry : Nat) : State :=
  let x := (s.lvl l).tally t
  if x.initAt = s.now + 1 then
    if x.was = 0xFFFF#16 then (s.raise 0x2021 (some l) 0 t entry).stopJob l
    else s.updLvl l fun ls => ls.setTally t { x with was := x.was + 1 }
  else if x.count = 0xFFFF#16 then (s.raise 0x2021 (some l) 0 t entry).stopJob l
  else s.updLvl l fun ls => ls.setTally t { x with count := x.count + 1 }

/-- The wait condition of a Tally (R78). -/
def LevelState.tallyReady (ls : LevelState) (t : Nat) : Bool := decide ((ls.tally t).target ≤ (ls.tally t).count)

/-- A waiter is released: in CONSUME mode COUNT falls by TARGET (R78). -/
def LevelState.tallyConsume (ls : LevelState) (t : Nat) : LevelState :=
  let x := ls.tally t
  if x.level then ls else ls.setTally t { x with count := x.count - x.target }

/-! ### Schedule lookups (R64, R68, R73) -/

/-- The slice that covers an engine at a count within the step (R73). -/
def Image.sliceAt (img : Image) (eng t : Nat) : Option (Nat × Slice) :=
  (img.slices.zipIdx.find? fun p => p.1.mask.getLsbD eng && decide (p.1.start ≤ t) && decide (t < p.1.stop)).map
    fun p => (p.2, p.1)

/-- Count within the step at which an entry is due. -/
def Entry.due (en : Entry) : Nat := en.cycle * 65536 + en.angle

/-- Context of an entry, and whether a slice covers it (R73). -/
def Image.contextOf (img : Image) (en : Entry) : Nat × Bool :=
  match img.sliceAt en.engine en.due with
  | some (_, sl) => (sl.context, true)
  | none => (0, false)

/-- Indices of the entries of one engine and context, in table order (R64). -/
def Image.entriesOf (img : Image) (eng ctx : Nat) : List Nat :=
  (img.entries.zipIdx.filter fun p => p.1.engine = eng && (img.contextOf p.1).1 = ctx).map Prod.snd

/-- The next entry of an engine and context that has not been dispatched: its index and the step (from 0) it is due in. -/
def LevelState.nextEntry (ls : LevelState) (img : Image) (eng ctx : Nat) : Option (Nat × Nat) :=
  let es := img.entriesOf eng ctx
  let k := tabGet 0 (ls.eng eng).dispatched ctx
  if es.isEmpty then none else some (es.getD (k % es.length) 0, k / es.length)

/-- Count since the job's beginning at which an entry of a step (from 0) is due. -/
def Image.dueCount (img : Image) (en : Entry) (step : Nat) : Nat := step * img.loop * 65536 + en.due

/-- Slot-shared engines (R423): IMAGE_DEC and AUDIO_DEC. -/
def slotShared (eng : Nat) : Bool := eng = 0x30 || eng = 0x31

/-- The Level's slot windows of a slot-shared engine (R423). -/
def LevelRecord.slots (r : LevelRecord) (eng : Nat) : BitVec 16 := if eng = 0x30 then r.imageSlots else r.audioSlots

/-- Another Level owns slot window `w` of an engine. -/
def State.othersWindow (s : State) (l : Fin 4) (eng w : Nat) : Bool :=
  (List.finRange 4).any fun k => k != l && bitAt ((s.lvl k).record.slots eng).toNat w

/-- A command of the Level may start on a slot-shared engine at an angle, `since` parts of a hub clock after its window began:
inside an owned window, and past the hand-over gap of 2 µs when the window before belongs to another Level (R423, R424). -/
def State.inWindowAt (s : State) (l : Fin 4) (eng angle since : Nat) : Bool :=
  let w := angle / 0x1000
  bitAt ((s.lvl l).record.slots eng).toNat w &&
    (!s.othersWindow l eng ((w + 15) % 16) || decide (4000 * clockParts ≤ since))

/-- A command of the Level may start on a slot-shared engine now. -/
def State.inWindow (s : State) (l : Fin 4) (eng : Nat) : Bool :=
  let p := s.cad.dividing
  s.inWindowAt l eng s.angle (s.cad.elapsed s.now - s.angle / 0x1000 * 0x1000 * p.sum * clockParts / (65536 * p.n))

/-- A command due at an angle that is compressed into an edge is judged by its own angle's window (R39, R423). -/
def State.compressedWindow (s : State) (l : Fin 4) (eng angle : Nat) : Bool :=
  let p := s.cad.dividing
  s.inWindowAt l eng angle (angle % 0x1000 * p.sum * clockParts / (65536 * p.n))

/-- A compressed edge is being worked: the hub clock of an edge that cut a cycle short (R39). -/
def State.atCompressed (s : State) : Bool := s.cad.compressed && decide (s.cad.compressedAt = s.now)

/-- A due count lies among those compressed into the present edge (R39). -/
def State.compressedDue (s : State) (j : Job) (due : Nat) : Bool :=
  s.atCompressed && decide (due / 65536 + 1 = s.cad.ordinal - j.beginOrdinal) && decide (s.cad.compressedFrom < due % 65536)

/-! ### The slices of an engine (R72, R75) -/

/-- The slice of an engine that starts first at or after a count of the step. -/
def Image.sliceFrom (img : Image) (eng lo : Nat) : Option (Nat × Slice) :=
  (img.slices.zipIdx.filter fun p => p.1.mask.getLsbD eng && decide (lo ≤ p.1.start)).foldl (fun b p => match b with
    | none => some (p.2, p.1)
    | some x => if p.1.start < x.2.start then some (p.2, p.1) else some x) none

/-- The slice after one, or the first one: its index and step. -/
def Image.sliceAfter (img : Image) (eng : Nat) (last : Option (Nat × Nat)) : Option (Nat × Nat) :=
  match last with
  | none => (img.sliceFrom eng 0).map fun x => (x.1, 0)
  | some (i, step) =>
    match img.sliceFrom eng ((img.slices.getD i default).start + 1) with
    | some x => some (x.1, step)
    | none => (img.sliceFrom eng 0).map fun x => (x.1, step + 1)

/-- The slice that acts as one with slice `i` of a step on an engine: it starts where `i` ends, in the same context (R72). -/
def Image.joined (img : Image) (eng i step : Nat) : Option (Nat × Nat) :=
  let sl := img.slices.getD i default
  match img.sliceAfter eng (some (i, step)) with
  | some (k, st) =>
    let nx := img.slices.getD k default
    if nx.context = sl.context ∧ st * (img.loop * 65536) + nx.start = step * (img.loop * 65536) + sl.stop then some (k, st) else none
  | none => none

/-- Counts of the slices that follow slice `i` as one with it; none where they go round for ever. -/
def Image.joinedRest (img : Image) (eng : Nat) : Nat → Nat → Nat → Option Nat
  | 0, _, _ => none
  | fuel + 1, i, step =>
    match img.joined eng i step with
    | none => some 0
    | some (k, st) =>
      let nx := img.slices.getD k default
      (img.joinedRest eng fuel k st).map fun n => n + (nx.stop - nx.start)

/-- What a debt takes from the end of slice `i`: the part that the slices joined behind it do not take (R72, R75). -/
def Image.deduction (img : Image) (eng i step debt : Nat) : Nat :=
  let sl := img.slices.getD i default
  match img.joinedRest eng (img.slices.length + 1) i step with
  | some rest => min (debt - rest) (sl.stop - sl.start)
  | none => 0

/-- Scheduled start of a slice of a step, in counts of the job. -/
def Image.sliceStart (img : Image) (i step : Nat) : Nat := step * (img.loop * 65536) + (img.slices.getD i default).start

/-- Scheduled end. -/
def Image.sliceStop (img : Image) (i step : Nat) : Nat := step * (img.loop * 65536) + (img.slices.getD i default).stop

/-- What a context owes on an engine. -/
def EngineState.owes (st : EngineState) (ctx : Nat) : Nat := tabGet 0 st.debt ctx

/-- The effective end of slice `i` of a step on an engine, none where the slices joined behind it go round for ever (R72, R74,
R75). -/
def Image.effectiveEnd (img : Image) (eng i step debt : Nat) : Option Nat :=
  (img.joinedRest eng (img.slices.length + 1) i step).map fun rest => img.sliceStop i step + rest - debt

/-- The slice in effect on an engine has reached its effective end at a count. -/
def EngineState.pastEnd (e : EngineState) (img : Image) (eng count : Nat) : Bool :=
  match e.slice with
  | some (i, step) => match img.effectiveEnd eng i step (e.owes (img.slices.getD i default).context) with
    | some x => decide (x ≤ count)
    | none => false
  | none => false

/-- The next slice of another context than 0 on an engine: its index and step. -/
def Image.nextForeign (img : Image) (eng : Nat) (last : Option (Nat × Nat)) : Option (Nat × Nat) :=
  ((List.range img.slices.length).foldl (fun (x : Option (Nat × Nat) × Option (Nat × Nat)) _ =>
    match x.2 with
    | some y => (x.1, some y)
    | none =>
      let n := img.sliceAfter eng x.1
      (n, n.filter fun p => (img.slices.getD p.1 default).context ≠ 0)) (last, none)).2

/-- A slice of another context than 0 has reached its effective start on an engine, whether or not the engine has been switched
to it yet; one that debt or lateness empties takes no effect (R73, R74). -/
def EngineState.foreignDue (e : EngineState) (img : Image) (eng count : Nat) : Bool :=
  match img.nextForeign eng e.lastSlice with
  | some (i, step) =>
    let start := max (img.sliceStart i step) e.overrunEnd
    decide (start ≤ count) &&
      decide (start < img.sliceStop i step - img.deduction eng i step (e.owes (img.slices.getD i default).context))
  | none => false

/-- No slice bars a command of context `ctx` on the engine at a count (R68, R73, R74): the slice in effect is of its context and
has not reached its effective end; or none is, the command is covered by none, and none of another context is due to start. -/
def EngineState.sliceAllows (e : EngineState) (img : Image) (eng ctx : Nat) (covered : Bool) (count : Nat) : Bool :=
  match e.slice with
  | some (i, _) => (img.slices.getD i default).context = ctx && (!covered || !e.pastEnd img eng count) &&
      (covered || !e.foreignDue img eng count)
  | none => !covered && !e.foreignDue img eng count

/-- The engine has completed its previous command for a dispatch (R68): on CORE_Sn a pass has once its last issue has
entered the array, while it may still drain (R134); `issued` is the earliest that can be (notes/assumptions/12.md). -/
def EngineState.free (e : EngineState) (eng arith : Nat) : Bool :=
  if eng < 0x10 then e.running.all fun r => decide (r.issued ≤ arith) else e.running.isEmpty

/-- A command on the engine runs past the end of its slice, or one that no slice covers past the scheduled start of a slice of
another context (R73, R75). -/
def EngineState.runsOver (e : EngineState) (img : Image) (eng count : Nat) : Bool :=
  let begun := match img.nextForeign eng e.lastSlice with
    | some (i, step) => decide (img.sliceStart i step ≤ count)
    | none => false
  !e.running.isEmpty && (e.pastEnd img eng count || e.running.any fun r =>
    r.overrun.isSome || (begun && !(img.contextOf (img.entries.getD r.entry default)).2))

/-- Why the next entry of an engine and context is held (R81): Tally wait, engine busy, slice wait. An engine is busy also while
a command overruns the end of its slice or runs on to its suspension boundary. -/
def State.heldCauses (s : State) (l : Fin 4) (eng ctx : Nat) : Bool × Bool × Bool :=
  let ls := s.lvl l
  match ls.image, ls.job with
  | some img, some j =>
    if j.phase ≠ .running then (false, false, false)
    else match ls.nextEntry img eng ctx with
      | some (i, st) =>
        let en := img.entries.getD i default
        let e := ls.eng eng
        if img.dueCount en st ≤ s.countNow j then
          (en.waitTally && !ls.tallyReady en.tally,
            !e.free eng (s.arith eng) || !e.slotHeld.isEmpty || e.runsOver img eng (s.countNow j),
            !e.sliceAllows img eng ctx (img.contextOf en).2 (s.countNow j) || e.switching || (slotShared eng && !s.inWindow l eng))
        else (false, false, false)
      | none => (false, false, false)
  | _, _ => (false, false, false)

/-- A timer's binding holds in the present hub clock (R81). DESIGN CHOICE (notes/assumptions/73.md): where several contexts have
entries due on an engine, the next entry of any of them that is held for the cause counts. -/
def State.timerHeld (s : State) (l : Fin 4) (eng cause : Nat) : Bool :=
  (List.range 8).any fun ctx =>
    let (t, b, w) := s.heldCauses l eng ctx
    match cause with
    | 0 => t
    | 1 => b
    | 2 => w
    | _ => t || b || w

/-- A timer of a Level. -/
def LevelState.timer (ls : LevelState) (n : Nat) : PhaseTimer := tabGet .fresh ls.timers n

/-- Set a timer. -/
def LevelState.setTimer (ls : LevelState) (n : Nat) (t : PhaseTimer) : LevelState :=
  { ls with timers := tabPut .fresh ls.timers n t }

/-- A timer in one hub clock: it advances while it runs, or while its binding holds, and stays at all ones (R81). -/
def State.timerTick (s : State) (l : Fin 4) (t : PhaseTimer) : PhaseTimer :=
  let on := match t.bound with
    | some (eng, cause) => s.timerHeld l eng cause
    | none => t.running
  if on && decide (t.count ≠ BitVec.allOnes 64) then { t with count := t.count + 1 } else t

/-- A quadrant in one hub clock: its arithmetic clock advances by its bin and duty, unless a bin change pauses it or it skips
cycles for droop (R88, R536 to R538). -/
def QuadPower.tick (q : QuadPower) (now : Nat) : QuadPower :=
  if q.drooping || decide (now < q.pausedUntil) then q else { q with arith := q.arith + q.bin * q.duty }

/-- One hub clock passes (notes/assumptions/1.md): timers advance (R81), the arithmetic clocks (R88) and, on VASY, the Assay's
clock (R512). -/
def tick (s : State) : State :=
  let lv := (List.finRange 4).foldl (fun (s' : State) l =>
    s'.updLvl l fun ls => { ls with timers := ls.timers.map fun p => (p.1, s.timerTick l p.2) }) s
  { lv with now := s.now + 1, pwr := { s.pwr with quads := s.pwr.quads.map fun q => q.tick s.now },
            asy := if s.asy.vasy then { s.asy with tot := { s.asy.tot with time := s.asy.tot.time + 1 } } else s.asy }

end Sys2Proof.Machine
end

