-- ==== Sys2Proof/Machine/Ledger.lean ====
section
/-!
DEFINITION. Machine/Ledger.lean: ledger records (08_ledger.md): beginning, updating and closing them, their bytes, their
copy in near memory, and EV_INVALID_PRODUCT (R181).
-/
namespace Sys2Proof.Machine

/-! ### The bytes of a record (R190) -/

/-- One coordinate record (R195). -/
def coordBytes : Option (Coord × Nat × Nat) → List Byte
  | none => List.replicate 32 0
  | some (c, entry, eng) =>
    leBytes 2 1 ++ leBytes 2 c.chunk ++ leBytes 4 (c.row % 2 ^ 22) ++ leBytes 4 (c.col % 2 ^ 20) ++
      leBytes 4 (entry % 2 ^ 20 + eng % 256 * 2 ^ 24) ++ List.replicate 16 0

/-- Bytes 0x000 to 0x7F7 of a record of tensor `t`. -/
def LedgerRecord.body (r : LedgerRecord) (t : Nat) : List Byte :=
  leBytes 2 2 ++ leBytes 2 t ++ leBytes 1 r.state ++ leBytes 1 r.flags ++ leBytes 1 r.formats ++ leBytes 1 0 ++
    leBytes 8 r.step ++ leBytes 8 r.beginCycle.toNat ++ leBytes 2 r.beginAngle.toNat ++ List.replicate 6 0 ++
    leBytes 8 r.closeCycle.toNat ++ leBytes 2 r.closeAngle.toNat ++ List.replicate 22 0 ++
    (List.range 16).flatMap (fun i => leBytes 8 (r.counts.getD i 0)) ++
    (List.range 4).flatMap (fun j => coordBytes (r.firsts.getD j none)) ++
    (List.range 260).flatMap (fun i => leBytes 4 (tabGet 0 r.hist i)) ++
    List.replicate 672 0 ++ leBytes 8 r.outputCrc.toNat

/-- The 2 KiB of a record: RECORD_CRC is zero unless the record is CLOSED (R185, R189). -/
def LedgerRecord.bytes (r : LedgerRecord) (t : Nat) : List Byte :=
  let b := r.body t
  b ++ leBytes 8 (if r.state = 2 then crc64 b else 0)

/-- Record `t` of a Level. -/
def LevelState.record_ (ls : LevelState) (t : Nat) : LedgerRecord := tabGet .fresh ls.ledger t

/-- Put record `t`, and its bytes into the ledger area (R185), whose blocks they cover (R568). -/
def State.putRecord (s : State) (l : Fin 4) (t : Nat) (r : LedgerRecord) : State :=
  let ls := s.lvl l
  let s := s.setLvl l { ls with ledger := tabPut .fresh ls.ledger t r }
  match ls.ledgerArea with
  | some (base, _) =>
    { s with nearMem := memWrite s.nearMem (base + 2048 * t) (r.bytes t),
             mem := { s.mem with failedNear := healRange s.mem.failedNear (base + 2048 * t) 2048 } }
  | none => s

/-! ### Updates (R187, R188, R192, R194, R196) -/

/-- Saturating addition: the sum and whether it stayed at the top. DESIGN CHOICE (notes/assumptions/75.md): an addition that ends
exactly at the top has lost nothing and does not set the flag of R191; one that goes beyond it does. -/
def satAdd (w a b : Nat) : Nat × Bool := if 2 ^ w - 1 ≤ a + b then (2 ^ w - 1, decide (2 ^ w - 1 < a + b)) else (a + b, false)

/-- Sixteen counters with sixteen additions, and whether one stayed saturated (R192). -/
def addCounts (xs ys : List Nat) : List Nat × Bool :=
  let r := (List.range 16).map fun i => satAdd 64 (xs.getD i 0) (ys.getD i 0)
  (r.map Prod.fst, r.any Prod.snd)

/-- Histogram bins with additions (R196). -/
def addHist (h : Tab Nat) (add : Tab Nat) : Tab Nat × Bool :=
  add.foldl (fun acc kv =>
    let (v, sat) := satAdd 32 (tabGet 0 acc.1 kv.1) kv.2
    (tabPut 0 acc.1 kv.1 v, acc.2 || sat)) (h, false)

/-- Order of coordinates: (CHUNK, ROW, COL, ENTRY) (R194). DESIGN CHOICE (notes/assumptions/107.md): between contributions a row counts
modulo 2^22 and a column modulo 2^20, as a record holds them; within one they count as they are. -/
def coordLt (a : Coord × Nat × Nat) (b : Coord × Nat × Nat) : Bool :=
  let k (x : Coord × Nat × Nat) : Nat := ((x.1.chunk * 2 ^ 22 + x.1.row % 2 ^ 22) * 2 ^ 20 + x.1.col % 2 ^ 20) * 2 ^ 20 + x.2.1
  decide (k a < k b)

/-- Keep the smaller of two occurrences. -/
def minCoord : Option (Coord × Nat × Nat) → Option (Coord × Nat × Nat) → Option (Coord × Nat × Nat)
  | none, y => y
  | x, none => x
  | some x, some y => if coordLt y x then some y else some x

/-- A record with one contribution added (R188). -/
def LedgerRecord.add (r : LedgerRecord) (c : Contribution) (entry eng : Nat) : LedgerRecord :=
  let (cs, csat) := addCounts r.counts c.counts
  let (h, hsat) := addHist r.hist c.hist
  let fl := r.flags ||| (if c.flushed then 1 else 0) ||| (if hsat then 2 else 0) ||| (if csat then 4 else 0) |||
    (if c.warmUp then 8 else 0)
  { r with flags := fl, formats := r.formats ||| c.formats, counts := cs, hist := h,
           firsts := (List.range 4).map fun j =>
             minCoord (r.firsts.getD j none) ((c.firsts.getD j none).map fun x => (x, entry, eng)),
           outputCrc := r.outputCrc ^^^ c.outputCrc }

/-- The record that a contribution begins: it carries the cadence time of the contribution's completion (R187, R191). -/
def Fed.begunRecord (f : Fed) : LedgerRecord :=
  { LedgerRecord.fresh with
    state := 1, step := f.contrib.step.getD f.step, lstep := f.step, beginCycle := f.cycle, beginAngle := f.angle,
    flags := if f.holdover then 16 else 0 }

/-- A contribution that completes now. -/
def State.fed (s : State) (l : Fin 4) (c : Contribution) (step entry eng : Nat) : Fed :=
  ⟨c, step, entry, eng, s.cycleNo (some l), BitVec.ofNat 16 s.angle, s.holdoverMark⟩

/-! ### Closing (R189) -/

/-- Commands of a Level that have been dispatched and have neither completed nor been abandoned. -/
def LevelState.live (ls : LevelState) : List (Nat × Running) :=
  ls.engines.flatMap fun ke =>
    (ke.2.running ++ ke.2.slotHeld ++ ke.2.suspended.map Prod.snd).map fun r => (ke.1, r)

/-- A live command of some step contributes to a tensor. A vector program may name any tensor until it ends. -/
def LevelState.feeds (ls : LevelState) (t step : Nat) : Bool :=
  ls.live.any fun p =>
    p.2.step = step && (decide (p.2.after = .program) || p.2.contribs.any fun c => c.tensor = t)

/-- Body of a LEDGER entry of the Pit Log (R463). -/
def ledgerLogBody (t : Nat) (r : LedgerRecord) : List Byte :=
  leBytes 8 t ++ leBytes 8 r.step ++ leBytes 8 r.outputCrc.toNat ++
    leBytes 8 (crc64 ((List.range 16).flatMap (fun i => leBytes 8 (r.counts.getD i 0)) ++
      (List.range 260).flatMap fun i => leBytes 4 (tabGet 0 r.hist i)))

/-- The first comparison of a step that fails is reported once (R467). -/
def State.replayDiverged (s : State) (l : Fin 4) (step kind what : Nat) : State :=
  match (s.lvl l).job with
  | some j => match j.replay with
    | some r =>
      if r.diverged.contains step then s
      else
        let r' := { r with diverged := r.diverged ++ [step] }
        let s := s.updJob l fun j => { j with replay := some r' }
        let s := s.raise 0x9005 (some l) 0 kind 0 step what
        if r.stopOnDiverge then s.stopJob l else s
    | none => s
  | none => s

/-- An input of a replay differs from the recorded one: EV_REPLAY_INPUT, and the job stops (R466). -/
def State.replayInput (s : State) (l : Fin 4) (step kind : Nat) : State := (s.raise 0x9004 (some l) 0 kind 0 step).stopJob l

/-- The Level's recorded log, in a replay. -/
def State.replayLog (s : State) (l : Fin 4) : Option (List LogEntry) :=
  match (s.lvl l).job with
  | some j => j.replay.map fun r => r.log
  | none => none

/-- In a replay a closed record is compared with its LEDGER entry (R466). -/
def State.replayLedger (s : State) (l : Fin 4) (t : Nat) (r : LedgerRecord) : State :=
  match (s.lvl l).job with
  | some j => match j.replay with
    | some rp =>
      let b := ledgerLogBody t r
      let found := rp.log.find? fun e => e.kind = 0x0B && e.body.take 16 = b.take 16
      match found with
      | some e => if e.body = b then s else s.replayDiverged l r.lstep 0x0B t
      | none => s.replayDiverged l r.lstep 0x0B t
    | none => s
  | none => s

/-- Close an OPEN record: the cadence time, CLOSED, then RECORD_CRC (R189). -/
def State.closeRecord (s : State) (l : Fin 4) (t : Nat) : State :=
  let r := (s.lvl l).record_ t
  if r.state = 1 then
    let r' := { r with state := 2, closeCycle := s.cycleNo (some l), closeAngle := BitVec.ofNat 16 s.angle }
    ((s.putRecord l t r').log l 0x0B (ledgerLogBody t r')).replayLedger l t r'
  else s

/-! ### EV_INVALID_PRODUCT (R181) -/

/-- Entries of the pass opcodes of the Stope cores. -/
def Entry.isPass (en : Entry) : Bool := en.engine < 0x10 && decide (0x10 ≤ en.opcode) && decide (en.opcode < 0x20)

/-- TENSOR of a pass descriptor (R115). -/
def passTensor (img : Image) (en : Entry) : Nat := listLe img.descs (en.desc + 56) 2

/-- The command of an entry in a step has completed or been abandoned; one that a stopped job never dispatches counts with them. -/
def LevelState.entryDone (ls : LevelState) (img : Image) (i step : Nat) : Bool :=
  let first := (ls.job.map Job.firstStep).getD 1
  let en := img.entries.getD i default
  let ctx := (img.contextOf en).1
  let es := img.entriesOf en.engine ctx
  let pos := (es.findIdx? fun k => k = i).getD 0
  let e := ls.eng en.engine
  (decide ((step - first) * es.length + pos < tabGet 0 e.dispatched ctx) ||
      (match ls.job with
        | some j => decide (j.phase = .draining) || decide (j.phase = .stopped)
        | none => true)) &&
    !(e.running ++ e.slotHeld ++ e.suspended.map Prod.snd).any fun r => r.entry = i && r.step = step

/-- Raise the events that have become due: the first pass in schedule order with such a product, once it and every pass
before it that feeds the record have ended. -/
def State.checkInvalid (s : State) (l : Fin 4) : State :=
  let ls := s.lvl l
  match ls.image with
  | none => s
  | some img =>
    ls.invalid.foldl (fun (s : State) inv =>
      let ls := s.lvl l
      let earlier := (List.range img.entries.length).filter fun i =>
        let en := img.entries.getD i default
        decide (i < inv.entry) && en.isPass && passTensor img en = inv.tensor
      let allDone := earlier.all fun i => ls.entryDone img i inv.step
      let raised := ls.invalidRaised.contains (inv.tensor, inv.step)
      let first := !(ls.invalid.any fun o => o.tensor = inv.tensor && o.step = inv.step && decide (o.entry < inv.entry))
      if allDone && !raised && first then
        let s := s.updLvl l fun ls => { ls with invalidRaised := (inv.tensor, inv.step) :: ls.invalidRaised }
        s.raise 0x1001 (some l) 0 inv.tensor 0 inv.coord.chunk inv.coord.row inv.coord.col
      else s) s

/-! ### Applying a contribution (R186 to R188, R201) -/

/-- A contribution joins an OPEN record of its own step, counted in LSTEP, and of the STEP it carries (R187, R205). -/
def LedgerRecord.joins (r : LedgerRecord) (f : Fed) : Bool :=
  decide (r.state = 1) && decide (r.lstep = f.step) && decide (r.step = f.contrib.step.getD f.step)

/-- Add a contribution to its record, which it begins where it does not join it (R187); an open record of another step is closed first
(R201). DESIGN CHOICE (notes/assumptions/106.md): a CLOSED record is begun anew also where it holds the same STEP. -/
def State.feedRecord (s : State) (l : Fin 4) (f : Fed) : State :=
  let t := f.contrib.tensor
  let r := (s.lvl l).record_ t
  let s := if r.joins f then s else s.closeRecord l t
  let r0 := if r.joins f then r else f.begunRecord
  let s := s.putRecord l t (r0.add f.contrib f.entry f.engine)
  match f.contrib.firsts.getD 0 none with
  | some x =>
    if f.engine < 0x10 then s.updLvl l fun ls => { ls with invalid := ⟨t, f.step, f.entry, x⟩ :: ls.invalid } else s
  | none => s

/-- A live command of an earlier step feeds the tensor: a contribution of this step waits for it (R201). -/
def LevelState.earlierFeeds (ls : LevelState) (t step : Nat) : Bool :=
  ls.live.any fun p =>
    decide (p.2.step < step) && (decide (p.2.after = .program) || p.2.contribs.any fun c => c.tensor = t)

/-- Apply a completed contribution, or keep it until the commands of earlier steps that feed its record have ended (R186,
R201). -/
def State.applyFed (s : State) (l : Fin 4) (f : Fed) : State :=
  let t := f.contrib.tensor
  if t = 0xFFFF then s
  else match (s.lvl l).ledgerArea with
    | none => s
    | some (_, n) =>
      if n ≤ t then
        match (s.lvl l).job with
        | some j =>
          if j.rangeRaised then s
          else (s.updJob l fun j => { j with rangeRaised := true }).raise 0x1002 (some l) 0 t f.entry
        | none => s
      else if (s.lvl l).earlierFeeds t f.step then s.updLvl l fun ls => { ls with deferred := ls.deferred ++ [f] }
      else s.feedRecord l f

/-- One contribution of a command completes. -/
def State.contribute (s : State) (l : Fin 4) (c : Contribution) (step entry eng : Nat) : State :=
  s.applyFed l (s.fed l c step entry eng)

/-- Put a contribution behind those of its step and of lower ones. -/
def placeFed (f : Fed) : List Fed → List Fed
  | [] => [f]
  | x :: xs => if f.step < x.step then f :: x :: xs else x :: placeFed f xs

/-- Apply the contributions that have waited, where they need wait no longer: those of lower steps first (R201). -/
def State.flushDeferred (s : State) (l : Fin 4) : State :=
  let ds := (s.lvl l).deferred
  (ds.foldl (fun xs f => placeFed f xs) []).foldl (fun s f => s.applyFed l f) (s.updLvl l fun ls => { ls with deferred := [] })

/-- EV_REPLAY_DONE, once the job has stopped after LAST_STEP and every comparison is done: no record is OPEN and no boundary
waits (R467). -/
def State.replayDone (s : State) (l : Fin 4) : State :=
  let ls := s.lvl l
  match ls.job with
  | some j => match j.replay with
    | some r =>
      if r.done ∧ j.phase = .stopped ∧ (ls.ledger.all fun e => e.2.state ≠ 1) = true ∧
          (ls.batches.all fun e => e.2.due.isEmpty) = true then
        (s.updJob l fun j => { j with replay := some { r with done := false } }).raise 0x9006 (some l) 0 0 0
          (r.diverged.foldl min (2 ^ 64 - 1))
      else s
    | none => s
  | none => s

/-- LEDGER_RECORD_CLOSE: an OPEN record closes once its step has ended and every contribution dispatched in that step has
completed or been abandoned (R189); not in the hub clock of an edge that compresses counts of the step, whose commands are still to be
dispatched (R39). -/
def execLedgerRecordClose (l : Fin 4) (tensor : BitVec 16) (s : State) : Result :=
  let ls := s.lvl l
  let t := tensor.toNat
  let r := ls.record_ t
  let ended := match ls.job with
    | some j => (decide (r.lstep < ls.lstep.toNat) && !s.atCompressed) || decide (j.phase = .stopped) || decide (j.phase = .draining)
    | none => true
  if r.state = 1 ∧ ended = true ∧ ls.feeds t r.lstep = false then .next ((s.closeRecord l t).replayDone l) else .next s

end Sys2Proof.Machine
end

