-- ==== Sys2Proof/Machine/Launch.lean ====
section
/-!
DEFINITION. Machine/Launch.lean: the dispatch of a schedule entry (R68 to R70), what a command does at its dispatch, its
completion (R78, R75, R442) and its suspension (R74).
-/
namespace Sys2Proof.Machine

/-- The Headframe as a reader of a Level's memory. -/
def headframeCmd (l : Fin 4) : Cmd := ⟨l, 0xFFFF, 0, 0xFFFFFFFF, 0⟩

/-! ### Dispatch (R68) -/

/-- An entry that may be dispatched now. -/
structure Ready where
  img : Image
  job : Job
  en : Entry
  ctx : Nat
  /-- Step from 0. -/
  step : Nat
  slip : Nat
  /-- LSTEP of the dispatch; a command compressed into an edge belongs to the cycle the edge ends (R39, R187). -/
  lstep : Nat
  /-- It is compressed into an edge (R39). -/
  comp : Bool
  deriving DecidableEq, Repr

/-- Entry `e` of the Level's bound image has every condition of R68, on its own engine, and the part dispatches at all (R71,
R540); its turn among the entries due on one edge aside. -/
def State.rawReady (s : State) (l : Fin 4) (e : Nat) : Option Ready :=
  let ls := s.lvl l
  match ls.image, ls.job with
  | some img, some j =>
    let en := img.entries.getD e default
    let (ctx, covered) := img.contextOf en
    let st := ls.eng en.engine
    match ls.nextEntry img en.engine ctx with
    | some (i, step) =>
      let due := img.dueCount en step
      let comp := s.compressedDue j due
      let phaseOk := j.phase = .running && ((!j.stopDue && decide (due ≤ s.countNow j)) || comp)
      let window := !slotShared en.engine || (if comp then s.compressedWindow l en.engine en.angle else s.inWindow l en.engine)
      if decide (e < img.entries.length) && decide (i = e) && phaseOk &&
          s.boot.thermtripHigh && st.free en.engine (s.arith en.engine) && !st.switching && st.slotHeld.isEmpty &&
          !(st.suspended.any fun p => p.1 = ctx) &&
          st.sliceAllows img en.engine ctx covered (if comp then due else s.countNow j) && window &&
          (!en.waitTally || ls.tallyReady en.tally) then
        some ⟨img, j, en, ctx, step, if comp then 0 else s.countNow j - due,
          if comp then step + j.firstStep else ls.lstep.toNat, comp⟩
      else none
    | none => none
  | _, _ => none

/-- A Winder entry that sets or signals its Tally: TALLY_INIT or TALLY_SIGNAL. -/
def Entry.setsTally (en : Entry) : Bool := decide (en.engine = 0xF0) && (decide (en.opcode = 0x01) || decide (en.opcode = 0x02))

/-- Place of an entry of the step among all that fall due: its count, then its index (R38, R39). -/
def Ready.place (r : Ready) (e : Nat) : Nat := r.img.dueCount r.en r.step * 2 ^ 24 + e

/-- The Tallies that the Winder's own entries of a context set or signal on this edge: its entries go one after another within one
hub clock (R63), from the next one on, up to one that is not due or that waits. -/
def State.winderSets (s : State) (l : Fin 4) (r : Ready) : List Nat :=
  let ls := s.lvl l
  let es := r.img.entriesOf 0xF0 r.ctx
  let k := tabGet 0 (ls.eng 0xF0).dispatched r.ctx
  let goes (i : Nat) : Bool :=
    let en := r.img.entries.getD (es.getD ((k + i) % es.length) 0) default
    let due := r.img.dueCount en ((k + i) / es.length)
    (decide (due ≤ s.countNow r.job) || s.compressedDue r.job due) && (!en.waitTally || ls.tallyReady en.tally)
  (((List.range es.length).takeWhile goes).map fun i => r.img.entries.getD (es.getD ((k + i) % es.length) 0) default).filterMap fun en =>
    if en.setsTally then some en.tally else none

/-- Tally and place of every entry that could be dispatched now and waits on a Tally. -/
def State.waiters (s : State) (l : Fin 4) (n : Nat) : List (Nat × Nat) :=
  (List.range n).filterMap fun i => (s.rawReady l i).bind fun a => if a.en.waitTally then some (a.en.tally, a.place i) else none

/-- Rank of an entry that could be dispatched now, lowest first: its place; but an entry of the Winder goes before every waiter on a
Tally that it, or an entry behind it on the same edge, sets or signals (R79; notes/assumptions/102.md). -/
def State.rank (s : State) (l : Fin 4) (r : Ready) (e : Nat) : Nat :=
  if r.en.engine = 0xF0 then
    let sets := s.winderSets l r
    ((s.waiters l r.img.entries.length).filter fun w => sets.contains w.1).foldl (fun n w => min n (2 * w.2)) (2 * r.place e + 1)
  else 2 * r.place e + 1

/-- Another entry of the Level has to be dispatched first. -/
def State.outranked (s : State) (l : Fin 4) (r : Ready) (e : Nat) : Bool :=
  (List.range r.img.entries.length).any fun i => decide (i ≠ e) && match s.rawReady l i with
    | some a => decide (s.rank l a i < s.rank l r e)
    | none => false

/-- Entry `e` of the Level's bound image may be dispatched now: every condition of R68 holds, its turn has come (R38, R39, R79),
and it uses `opcode` on an engine that `engOk` accepts. -/
def State.ready (s : State) (l : Fin 4) (e : Nat) (engOk : Nat → Bool) (opcode : Nat) : Option Ready :=
  match s.rawReady l e with
  | some r => if engOk r.en.engine && decide (r.en.opcode = opcode) && !s.outranked l r e then some r else none
  | none => none

/-- Slip beyond a budget is counted, recorded, and reported once per engine and cycle (R70). -/
def State.slipBeyond (s : State) (l : Fin 4) (eng entry slip : Nat) : State :=
  let ls := s.lvl l
  let st := ls.eng eng
  let s := s.setLvl l { ls with
    slipCount := satInc32 ls.slipCount, slipMax := BitVec.ofNat 32 (min (2 ^ 32 - 1) (max ls.slipMax.toNat slip)),
    slipFirst := ls.slipFirst <|> some entry }
  if st.slipCycle = s.cad.ordinal + 1 then s
  else (s.updEng l eng fun st => { st with slipCycle := s.cad.ordinal + 1 }).raise 0x2010 (some l) eng 0 entry slip

/-- The bookkeeping of a dispatch: entry order, the Tally wait, slip. -/
def State.dispatched (s : State) (l : Fin 4) (e : Nat) (r : Ready) : State :=
  let s := s.updEng l r.en.engine fun st =>
    { st with dispatched := tabPut 0 st.dispatched r.ctx (tabGet 0 st.dispatched r.ctx + 1) }
  let s := if r.en.waitTally then s.updLvl l fun ls => ls.tallyConsume r.en.tally else s
  if r.en.budget ≠ 0xFFFF ∧ r.en.budget < r.slip then s.slipBeyond l r.en.engine e r.slip else s

/-- The command of a ready entry. -/
def Ready.cmd (r : Ready) (l : Fin 4) (e : Nat) : Cmd := ⟨l, r.en.engine, r.ctx, e, r.lstep⟩

/-- Dispatch an entry where it may be, and go on with its command; otherwise it stays held (R68). -/
def State.dispatch (s : State) (l : Fin 4) (e : Nat) (engOk : Nat → Bool) (opcode : Nat)
    (go : State → Ready → Cmd → State) : Result :=
  match s.ready l e engOk opcode with
  | some r => .next (go (s.dispatched l e r) r (r.cmd l e))
  | none => .next s

/-- An invalid descriptor: the command is not executed, EV_DESCRIPTOR_INVALID, and the job stops (R135, R368, R403). -/
def State.invalidDesc (s : State) (c : Cmd) : State := (s.raise 0x2012 (some c.lvl) c.eng 0 c.entry).stopJob c.lvl

/-- Failed reads of far memory through some windows: one event each, with the port or the link half and the far address, and
containment (R415, R416). -/
def State.reportFarIn (s : State) (ws : List FarWindow) (c : Cmd) (a : Acc) : State :=
  a.failedFar.foldl (fun (s : State) x =>
    (match x.1 with
      | some half => s.raise 0x3021 (some c.lvl) 0 half 0 x.2
      | none => s.raise 0x3020 (some c.lvl) c.eng (((windowOf ws x.2).map fun w => farKey w x.2 / 2 ^ 65).getD 0) 0
          x.2).contain c.lvl) s

/-- Failed blocks and far reads that a command met: one event each and containment (R415, R416). -/
def State.reportFailures (s : State) (c : Cmd) (a : Acc) : State :=
  let s := s.reportFarIn (s.windows c.lvl) c a
  let s := a.failedNear.foldl (fun (s : State) x =>
    (s.raise 0x3002 (some c.lvl) c.eng (nearDevice x) 0 x).contain c.lvl) s
  let s := a.failedCore.foldl (fun (s : State) x =>
    (s.raise 0x3003 (some c.lvl) c.eng (x / 2 ^ 26) 0 (x % 2 ^ 26)).contain c.lvl) s
  a.failedHub.foldl (fun (s : State) x => (s.raise 0x3003 (some c.lvl) c.eng 0x00FF 0 x).contain c.lvl) s

/-- Refused and blocked accesses: the events of R399, R408 and R439, and the stop of R106. -/
def State.reportRefused (s : State) (c : Cmd) (a : Acc) : State :=
  let s := match a.nearBad with
    | some x => (s.raise 0x3011 (some c.lvl) c.eng 0 c.entry x).stopJob c.lvl
    | none => s
  let s := match a.farBad with
    | some x => (s.raise 0x3012 (some c.lvl) c.eng 0 c.entry x).stopJob c.lvl
    | none => s
  let s := match a.frozenBad with
    | some x => (s.raise 0x3013 (some c.lvl) c.eng 0 c.entry x).stopJob c.lvl
    | none => s
  if a.refused.isEmpty then s else s.stopJob c.lvl

/-- The record of a dispatched command. -/
def runningOf (s : State) (c : Cmd) (a : Acc) (contribs : List Contribution) (after : After) : Running :=
  { entry := c.entry, step := c.step, ctx := c.ctx, since := s.now, overrun := none,
    writes := a.writes.reverse, contribs := contribs, refused := a.refused, after := after, noStamp := false,
    nearBytes := a.nearBytes, farBytes := a.farBytes, arrays := 0, issued := 0, progress := 0, ctl := none, regs := none }

/-- A command has been dispatched: its reads are done, its writes stand to be made by its completion
(notes/assumptions/4.md). -/
def State.launch (s : State) (c : Cmd) (a : Acc) (contribs : List Contribution) (after : After)
    (arrays : Nat := 0) (issued : Nat := 0) : State :=
  let r := { runningOf s c a contribs after with arrays := arrays, issued := issued }
  let s := s.updEng c.lvl c.eng fun st => { st with running := st.running ++ [r] }
  (s.reportFailures c a).reportRefused c a

/-! ### Completion (R71, R75, R78, R106, R442) -/

/-- Stamp writes stand at this index: they are dropped where no stamp may be written (R364, R416). -/
def stampAt : Nat := 2 ^ 60

/-- EV_STORE_BOUNDS when a command completes or is abandoned (R106): the lowest refused byte address, its core (the lowest
core where several share it), and the number of refused lines. -/
def State.storeBounds (s : State) (l : Fin 4) (eng entry : Nat) (refused : List Nat) : State :=
  match refused with
  | [] => s
  | x :: xs =>
    let key (y : Nat) : Nat := y % 2 ^ 80 * 16 + y / 2 ^ 80
    let low := xs.foldl (fun m y => min m (key y)) (key x)
    (s.raise 0x3010 (some l) eng (low % 16) entry (low / 16) refused.length).stopJob l

/-- Charge engine time, in hub clocks, and bytes (R442). -/
def Accounting.charge (a : Accounting) (eng ctx clocks near far : Nat) : Accounting :=
  { a with engine := a.engine + clocks, nearBytes := a.nearBytes + near, farBytes := a.farBytes + far,
           byContext := if eng < 0x20 then tabPut 0 a.byContext ctx (tabGet 0 a.byContext ctx + clocks) else a.byContext }

/-- Far bytes that the Headframe moves for a Level (R442). -/
def State.chargeFar (s : State) (l : Fin 4) (n : Nat) : State :=
  s.updLvl l fun ls => { ls with acct := { ls.acct with farBytes := ls.acct.farBytes + n } }

/-- Charge a command the engine time that it has not been charged, and the bytes it moves, which it is charged once. -/
def State.chargeRunning (s : State) (l : Fin 4) (eng : Nat) (r : Running) : State :=
  s.updLvl l fun ls => { ls with acct := ls.acct.charge eng r.ctx (s.now - r.since) r.nearBytes r.farBytes }

/-- The record of a command whose time and bytes have been charged. -/
def Running.charged (r : Running) (now : Nat) : Running := { r with since := now, nearBytes := 0, farBytes := 0 }

/-- The overrun D, in whole counts rounded up, of an engine that ran past a slice's effective end (R75). -/
def State.overrunCounts (s : State) (j : Job) (effEnd : Nat) : Nat :=
  s.countNow j - effEnd + (if s.cad.atCountStart s.now then 0 else 1)

/-- An overrun has ended: the debt is incurred, and beyond the slice's budget it is reported (R75). DESIGN CHOICE
(notes/assumptions/74.md): EV_SLIP and LSLIP_FIRST carry the entry of the command that overran. -/
def State.chargeOverrun (s : State) (l : Fin 4) (eng ctx entry effEnd budget : Nat) : State :=
  match (s.lvl l).job with
  | some j =>
    let d := s.overrunCounts j effEnd
    let s := s.updEng l eng fun st =>
      { st with debt := tabPut 0 st.debt ctx (tabGet 0 st.debt ctx + d), overrunEnd := effEnd + d }
    if budget ≠ 0xFFFF ∧ budget < d then s.slipBeyond l eng entry d else s
  | none => s

/-- Contributions of a completed command, in order (R188). -/
def State.contributeAll (s : State) (l : Fin 4) (cs : List Contribution) (step entry eng : Nat) : State :=
  let s := cs.foldl (fun (s : State) c => s.contribute l c step entry eng) s
  (s.flushDeferred l).checkInvalid l

/-- What every command does at its completion: its writes become visible, its refusals are reported, its contributions are
applied, its time and bytes charged, its overrun measured, its Tally signalled. -/
def State.completeRunning (s : State) (l : Fin 4) (eng : Nat) (r : Running) : State :=
  let ok := fun w : Write => w.at_ ≠ stampAt || (!r.noStamp && !s.isContained l)
  let s := s.applyWrites (r.writes.filter ok)
  let s := s.storeBounds l eng r.entry r.refused
  let s := s.contributeAll l r.contribs r.step r.entry eng
  let s := s.chargeRunning l eng r
  let s := match r.overrun with
    | some (effEnd, budget) => s.chargeOverrun l eng r.ctx r.entry effEnd budget
    | none => s
  match (s.lvl l).image with
  | some img =>
    let en := img.entries.getD r.entry default
    if en.signalTally then s.signalTally l en.tally r.entry else s
  | none => s

/-- A command that completes at its dispatch (R63, R108): its Tally is signalled at once. -/
def State.completeNow (s : State) (r : Ready) (c : Cmd) : State :=
  if r.en.signalTally then s.signalTally c.lvl r.en.tally c.entry else s

/-- A suspended or abandoned command: the writes of the groups, rows or items below `progress` are made, the others stay. -/
def State.partWrites (s : State) (r : Running) (progress : Nat) : State × Running :=
  let (now_, later) := r.writes.partition fun w => decide (w.at_ < progress)
  (s.applyWrites now_, { r with writes := later, progress := max r.progress progress })

/-- A command is abandoned where it stands: its refusals are reported; nothing else (R71, R106, R189). The contributions that
waited for its own are applied (R201). -/
def State.abandon (s : State) (l : Fin 4) (eng : Nat) (r : Running) : State :=
  ((s.storeBounds l eng r.entry r.refused).flushDeferred l).checkInvalid l

/-- A command that still held its engine is abandoned: the time it held it and the bytes it moved are charged (R442). -/
def State.abandonRunning (s : State) (l : Fin 4) (eng : Nat) (r : Running) : State := (s.chargeRunning l eng r).abandon l eng r

end Sys2Proof.Machine
end

