-- ==== Sys2Proof/Machine/Cadence.lean ====
section
/-!
DEFINITION. Machine/Cadence.lean: reference edges, cycle words, flywheel and holdover (02_cadence.md), and what a cycle
boundary does to every Level (R43, R52, R67, R71).
-/
namespace Sys2Proof.Machine

/-! ### Cycle boundaries -/

/-- What the Pit Log records of a cycle (R54): received number and flags, good, state, interval in hub clocks. DESIGN CHOICE
(notes/assumptions/76.md): the state is the one after the cycle's end, and the layout, which R54 and R463 leave open: number, all
ones where no word was received, in 8 bytes, flags in 2 (0 without a word), good and state in 1 each, 4 zeros, interval in 8. -/
def cadenceBody (c : Cadence) (word : Option CycleWord) (good : Bool) (interval : Nat) : List Byte :=
  leBytes 8 ((word.map fun w => w.number.toNat).getD (2 ^ 64 - 1)) ++ leBytes 2 ((word.map fun w => w.flags.toNat).getD 0) ++
    leBytes 1 (if good then 1 else 0) ++ leBytes 1 c.state.code ++ leBytes 4 0 ++ leBytes 8 interval

/-- The body of a Level's entry of a cycle: in a replay the number and the flags are those of the recorded cycle (R54, R466). -/
def LevelState.cycleBody (ls : LevelState) (body : List Byte) : List Byte :=
  match ls.recordedCycle with
  | some e => e.body.take 10 ++ body.drop 10
  | none => body

/-- The cycle that ends is entered in the log of every Level, at its last cadence time (R41, R54). -/
def State.logCycle (s : State) (body : List Byte) : State :=
  (List.finRange 4).foldl (fun (s : State) l => s.log l 0x03 ((s.lvl l).cycleBody body)) s

/-- The image of a job uses the exchange (R58). -/
def LevelState.usesExchange (ls : LevelState) : Bool :=
  match ls.image with
  | some img => img.usesExchange
  | none => false

/-- Hub clocks of some switch work that fall before hub clock `t`. -/
def SwitchWork.clocksBy (w : SwitchWork) (t : Nat) : Nat := min t w.till - w.from_

/-- The bytes of some switch work moved before hub clock `t`: in proportion to the time, the last of them at its end. -/
def SwitchWork.bytesBy (w : SwitchWork) (t : Nat) : Nat :=
  if w.till ≤ t then w.near else w.near * w.clocksBy t / (w.till - w.from_)

/-- The counts of the cycle that ends are the ones its frame carries; the commands that run on have been charged up to the
boundary at hub clock `t` (R442, R513). -/
def LevelState.countCycle (ls : LevelState) (t : Nat) : LevelState :=
  let charge (a : Accounting) (eng : Nat) (r : Running) : Accounting := a.charge eng r.ctx (t - r.since) r.nearBytes r.farBytes
  let done := ls.switchWork.foldl (fun a w => a.charge w.engine w.context (w.clocksBy t) (w.bytesBy t) 0) ls.acct
  { ls with
    frame := ls.engines.foldl (fun a ke => ke.2.running.foldl (fun a r => charge a ke.1 r) a) done, acct := .zero,
    switchWork := (ls.switchWork.filter fun w => decide (t < w.till)).map fun w =>
      { w with from_ := w.from_ + w.clocksBy t, near := w.near - w.bytesBy t },
    engines := ls.engines.map fun ke =>
      (ke.1, { ke.2 with running := ke.2.running.map fun r => { r with since := max r.since t, nearBytes := 0, farBytes := 0 } }) }

/-- One Level at a cycle boundary: `justLost` says that lock ends at it, `stopRunning` that R44 or R45 stops the running exchange
jobs at it, `stopStarted` that R44 stops those that have not begun. DESIGN CHOICE (notes/assumptions/77.md): an exchange job
started while LOCKED whose start cycle begins after lock was lost begins, and its grace counts from its beginning. -/
def LevelState.boundary (ls : LevelState) (cad : Cadence) (justLost stopRunning stopStarted : Bool) : LevelState :=
  match ls.image, ls.job with
  | some img, some j =>
    let ex := img.usesExchange && j.replay.isNone
    match j.phase with
    | .running =>
      if j.stopDue then ls
      else
        -- the grace is whole while LOCKED and at the boundary where lock is lost, and only exchange jobs use it (R52, R86)
        let left := if cad.state = .locked || justLost || !ex then j.grace else j.graceLeft - 1
        let out := ex && decide (cad.state ≠ .locked) && decide (left = 0)
        let wrap := decide (img.loop ≤ ls.offset + 1)
        let lastStep := wrap && decide (j.stepLimit ≠ 0) && decide (j.stepLimit ≤ ls.lstep.toNat)
        let replayEnd := wrap && (match j.replay with
          | some r => decide (r.last ≤ ls.lstep.toNat)
          | none => false)
        let stop := j.stopPending || out || lastStep || replayEnd || (stopRunning && ex)
        { ls with
          offset := if stop then ls.offset else if wrap then 0 else ls.offset + 1,
          lstep := if stop then ls.lstep else if wrap then ls.lstep + 1 else ls.lstep,
          job := some { j with
            stopPending := false, stopDue := stop,
            graceExpired := if out then some (cad.cycleStart, cad.number, cad.ended) else j.graceExpired,
            graceLeft := left,
            replay := j.replay.map fun r => { r with done := r.done || replayEnd } } }
    | .started =>
      if j.stopPending || (stopStarted && ex) then { ls with job := some { j with stopPending := false, stopDue := true } }
      else if j.beginDue.isNone && !j.stopDue && decide (j.startCycle ≤ cad.number) then
        { ls with job := some { j with beginDue := some cad.ordinal } }
      else ls
    | .opened =>
      { ls with job := some { j with stopPending := false, stopDue := j.stopDue || j.stopPending,
                                     graceLeft := if cad.state = .locked then j.grace else j.graceLeft } }
    | _ => { ls with job := some { j with graceLeft := if cad.state = .locked then j.grace else j.graceLeft } }
  | _, _ => ls

/-- A JOB.START or REPLAY.START that has been taken and not acted on, at a cycle boundary: the first cycle at or above its start
cycle is where its job begins (R67); a discontinuity that comes first stops an exchange job (R44). -/
def Taken.atBoundary (t : Taken) (cad : Cadence) (stopStarted : Bool) : Taken :=
  if (t.msg = 0x21 ∨ t.msg = 0x70) ∧ t.begun = none then
    { t with dropped := t.dropped || stopStarted,
             begun := if listLe t.payload 0 8 ≤ cad.number.toNat then some cad.ordinal else none }
  else t

/-- The cadence as a cycle begins at hub clock `t`, `early` parts of a hub clock late, with a number (R37, R43, R51). -/
def Cadence.begun (c : Cadence) (t early : Nat) (number : BitVec 64) : Cadence :=
  { c with
    number := number, ended := c.number, ordinal := c.ordinal + 1, cycleStart := t, prevStart := c.cycleStart, early := early,
    cyclePeriod := c.holdPeriod, wordValid := c.wordSeen, wordSeen := false, judged := none, compressed := false,
    compressedAt := t, compressedFrom := 0, stopAtBoundary := false, dropAtBoundary := false }

/-- A cycle of the Winder ends and the next begins: the cadence, then the commands that start a job, then every Level (R37, R43, R51,
R67). -/
def State.boundary (s : State) (t early : Nat) (number : BitVec 64) (justLost stopRunning stopStarted : Bool) : State :=
  let cad := s.cad.begun t early number
  let s := { s with cad := cad,
                    fns := s.fns.map fun f => (f.1, { f.2 with taken := f.2.taken.map fun t => t.atBoundary cad stopStarted }) }
  (List.finRange 4).foldl (fun (s : State) l =>
    s.updLvl l fun ls => (ls.countCycle t).boundary cad justLost stopRunning stopStarted) s

/-! ### Judging a cycle of the reference (R34, R37, R42, R48) -/

/-- Half-width of the lock window and distance from the prediction, times 65,536 * n: the larger of 10 ns and one count. -/
def inWindowOf (p : Period) (ref t : Nat) : Bool × Nat :=
  let d := t - ref
  let k := max 1 ((2 * d * p.n + p.sum) / (2 * p.sum))
  let off := ((d * p.n : Nat) : Int) - ((k * p.sum : Nat) : Int)
  (decide (off.natAbs * 65536 ≤ max (20 * p.n * 65536) p.sum), k)

/-- The words of the cycle in progress that end inside the window of R34 where its last edge is not before `t`: at least 2 µs
after its first edge and before `t`. -/
def Cadence.validWords (c : Cadence) (t : Nat) : List CycleWord :=
  c.words.filter fun w => (match c.lastEdge with
    | some e => decide (e + 4000 ≤ w.ended)
    | none => false) && decide (w.ended + 4000 ≤ t)

/-- Valid words with a reserved flag that is not zero (R36). -/
def reservedFlags (ws : List CycleWord) : Nat := ws.countP fun w => w.flags &&& 0xF8#16 ≠ 0#16

/-- The flag bits of the last valid word; a word that no edge has judged yet is valid once no edge can spoil it (R34, R36, R85). -/
def Cadence.lastFlags (c : Cadence) (t : Nat) : BitVec 16 := ((c.validWords t).getLast?.map CycleWord.flags).getD c.flags

/-- A valid word ended within the Winder's previous cycle (R85). -/
def Cadence.wordBefore (c : Cadence) (t : Nat) : Bool :=
  c.wordValid || (c.validWords t).any fun w => decide (c.prevStart ≤ w.ended) && decide (w.ended < c.cycleStart)

/-- Count valid words with reserved flags. -/
def countReserved (n : BitVec 32) (ws : List CycleWord) : BitVec 32 :=
  (List.range (reservedFlags ws)).foldl (fun x _ => satInc32 x) n

/-- What the words of a cycle say: the one usable word, and the registers that mirror it (R36, R42). -/
structure Judged where
  word : Option CycleWord
  good : Bool
  periodChange : Bool
  cad : Cadence
  deriving DecidableEq, Repr

/-- Judge the cycle that ends at `t`; `edge` says that a reference edge ended it inside the lock window, `consecutive` that
its interval counts as one period (R37, R48). A word that ends after `t` belongs to the next cycle. -/
def Cadence.judge (c : Cadence) (t : Nat) (edge consecutive : Bool) : Judged :=
  let valid := c.validWords t
  let word := match valid with
    | [w] => some w
    | _ => none
  let prev : Option (BitVec 64) := if c.state = .locked then some c.number else c.prevNamed
  let good := edge && (match word with
    | some w => (match prev with
      | some p => decide (w.number = p + 1)
      | none => true)
    | none => false)
  let named : Option (BitVec 64) := match word with
    | some w => some w.number
    | none => if valid.isEmpty then none else c.prevNamed.map (· + 1)
  let interval := edge && consecutive && c.lastAccepted.isSome
  let history := if interval then ((t - c.lastAccepted.getD t) :: c.history).take 16 else c.history
  let c1 := { c with
    history := history, lastAccepted := if edge then some t else c.lastAccepted, lastEdge := some t,
    words := c.words.filter fun w => decide (t < w.ended),
    prevNamed := named, goodRun := if good then min 0xFFFF (c.goodRun + 1) else 0,
    badRun := if good then 0 else min 0xFFFF (c.badRun + 1),
    flags := c.lastFlags t, wordSeen := c.wordSeen || valid.any fun w => decide (c.cycleStart ≤ w.ended),
    wordValid := c.wordBefore t, rsvFlags := countReserved c.rsvFlags valid }
  let c2 := if interval then
      { c1 with everMeasured := true, holdPeriod := if c1.frozen then c1.holdPeriod else (c1.measured.getD c1.holdPeriod) }
    else c1
  let pc := match word with
    | some w => bitAt w.flags.toNat 2
    | none => false
  ⟨word, good, pc, c2⟩

/-- A period change empties the history and restarts the good run (R45). -/
def Cadence.restart (c : Cadence) : Cadence :=
  { c with history := [], goodRun := 0, prevNamed := none, frozen := true }

/-- The cadence after the end of a cycle while LOCKED, before the next begins (R44, R45, R50). -/
def Cadence.lockedEnd (c : Cadence) (t : Nat) (edge consecutive : Bool) : Cadence :=
  let j := c.judge t edge consecutive
  if j.periodChange then { j.cad.restart with state := .holdover }
  else if !j.good && decide (4 ≤ j.cad.badRun) then { j.cad with state := .holdover } else j.cad

/-- The word whose number and flags the Pit Log records of a cycle: of several valid words the last, although none is used
(R42, R54). -/
def Cadence.received (c : Cadence) (t : Nat) : Option CycleWord := (c.validWords t).getLast?

/-- The end of a cycle of the reference while LOCKED (R44, R45, R50). DESIGN CHOICE (notes/assumptions/32.md): EV_PERIOD_CHANGE, of
which 25_events.md says only 'A cycle number', numbers the cycle that ends, and outside LOCKED the holdover cycle in progress. -/
def State.lockedEnd (s : State) (t : Nat) (edge : Bool) (consecutive : Bool) : State :=
  let old := s.cad.number
  let j := s.cad.judge t edge consecutive
  let new := (j.word.map CycleWord.number).getD (old + 1)
  let disc := match j.word with
    | some w => decide (w.number ≠ old + 1)
    | none => false
  let lost := !j.good && decide (4 ≤ j.cad.badRun)
  let cad := s.cad.lockedEnd t edge consecutive
  let from_ := s.cad.angleAt t
  let short := edge && decide (from_ < 0xFFFF)
  let s := s.logCycle (cadenceBody cad (s.cad.received t) j.good (t - s.cad.lastEdge.getD t))
  let s := { s with cad := cad }.boundary t 0 new (lost || j.periodChange) (disc || j.periodChange) disc
  let s := { s with cad := { s.cad with compressed := short, compressedFrom := from_ } }
  let s := if j.good then s else s.raise 0x2002 none 0 0 0 old.toNat j.cad.badRun
  let s := if lost then s.raise 0x2003 none 0 0 0 old.toNat else s
  let s := if disc then s.raise 0x2004 none 0 0 0 new.toNat old.toNat else s
  if j.periodChange then s.raise 0x2005 none 0 0 0 old.toNat else s

/-- The edge that ends the 16th consecutive good cycle enters LOCKED and ends the holdover cycle (R49). -/
def State.enterLock (s : State) (t : Nat) (j : Judged) (interval : Nat) : State :=
  let old := s.cad.number
  let new := (j.word.map CycleWord.number).getD (old + 1)
  let disc := decide (new ≠ old + 1)
  let from_ := s.cad.angleAt t
  let cad := { j.cad with state := .locked, frozen := false, holdPeriod := j.cad.measured.getD j.cad.holdPeriod }
  let s := s.logCycle (cadenceBody cad j.word j.good interval)
  let s := { s with cad := cad }.boundary t 0 new false (disc || s.cad.stopAtBoundary)
    (disc || s.cad.dropAtBoundary)
  let s := { s with cad := { s.cad with compressed := decide (from_ < 0xFFFF), compressedFrom := from_ } }
  let s := s.raise 0x2001 none 0 0 0 old.toNat
  if disc then s.raise 0x2004 none 0 0 0 new.toNat old.toNat else s

/-- The end of a cycle of the reference in every other state (R44, R45, R47, R49): what was received is kept for the Pit Log's
entry of the Winder's cycle (R54). DESIGN CHOICE (notes/assumptions/32.md): EV_PERIOD_CHANGE numbers the holdover cycle in
progress. -/
def State.freeEnd (s : State) (t : Nat) (edge consecutive : Bool) : State :=
  let j := s.cad.judge t edge consecutive
  let interval := t - s.cad.lastEdge.getD t
  let named := (s.cad.prevNamed.map BitVec.toNat).getD 0
  let disc := match j.word, s.cad.prevNamed with
    | some w, some p => decide (w.number ≠ p + 1)
    | _, _ => false
  let heard : Cadence := { j.cad with judged := some (s.cad.received t, j.good, interval) }
  let back (c : Cadence) : Cadence := if c.state = .acquiring then { c with state := c.acqFrom } else c
  let marked : Cadence :=
    { heard with stopAtBoundary := heard.stopAtBoundary || disc || j.periodChange, dropAtBoundary := heard.dropAtBoundary || disc }
  if j.periodChange = false ∧ j.good = true then
    if 16 ≤ j.cad.goodRun then s.enterLock t j interval
    else if s.cad.state = .acquiring then { s with cad := heard }
    else { s with cad := { heard with acqFrom := s.cad.state, state := .acquiring } }
  else
    let s := { s with cad := back (if j.periodChange then marked.restart else marked) }
    let s := if disc then s.raise 0x2004 none 0 0 0 ((j.word.map fun w => w.number.toNat).getD 0) named else s
    if j.periodChange then s.raise 0x2005 none 0 0 0 s.cad.number.toNat else s

/-! ### The commands -/

/-- REFERENCE_EDGE (R30, R48 to R50): a glitch is counted; the first edge of all is taken; in LOCKED an edge outside the
window is left to the flywheel; otherwise the edge ends a cycle, which is judged. DESIGN CHOICE (notes/assumptions/78.md): the
first edge after power-up ends no cycle that is judged, since no edge began it, and the words before it are dropped. DEDUCED
(notes/assumptions/100.md): until bring-up has ended the Winder stays on its holdover timebase at 10 ms (R495), so that it takes no
edge and no word before. -/
def execReferenceEdge (s : State) : Result :=
  let c := s.cad
  if s.boot.fw ≠ .running then .next s
  else match c.lastAccepted with
  | none =>
    .next { s with cad := { c with lastAccepted := some s.now, lastEdge := some s.now, words := [] } }
  | some acc =>
    if s.now - acc < 10000 then .next { s with cad := { c with glitches := satInc32 c.glitches } }
    else match c.state, c.measured with
      | .locked, some p =>
        let (win, k) := inWindowOf p (c.lastEdge.getD acc) s.now
        if win ∧ k = 1 then .next (s.lockedEnd s.now true (decide (c.lastEdge = c.lastAccepted))) else .next s
      | _, some p =>
        let (win, k) := inWindowOf p acc s.now
        .next (s.freeEnd s.now win (k = 1))
      | _, none =>
        let win := decide (100000 ≤ s.now - acc)
        .next (s.freeEnd s.now win win)

/-- CYCLE_WORD (R33, R35, R42): a word with a good sync pattern, check and number is kept until the edge that ends its
cycle, which judges its window. -/
def execCycleWord (sync : BitVec 8) (number : BitVec 64) (flags check : BitVec 16) (s : State) : Result :=
  if s.boot.fw = .running ∧ sync = 0b10011010#8 ∧ check = cycleWordCheck number flags ∧ number ≠ BitVec.allOnes 64 then
    .next { s with cad := { s.cad with words := s.cad.words ++ [⟨s.now, number, flags⟩] } }
  else .next s

/-- FLYWHEEL_EDGE (R50): in LOCKED, once the window of the predicted edge has passed, the edge is supplied at its predicted
time. -/
def execFlywheelEdge (s : State) : Result :=
  let c := s.cad
  match c.state, c.measured, c.lastEdge with
  | .locked, some p, some e =>
    if p.sum * 65536 + max (20 * p.n * 65536) p.sum < (s.now - e) * p.n * 65536 then
      let t := e + ceilDiv p.sum p.n
      .next (s.asOf t fun s => s.lockedEnd t false false)
    else .next s
  | _, _, _ => .next s

/-- The exact end of the holdover cycle in progress, in parts of a hub clock (R51). -/
def Cadence.holdoverEnd (c : Cadence) : Nat :=
  c.cycleStart * clockParts + c.cyclePeriod.sum * (clockParts / c.cyclePeriod.n) - c.early

/-- HOLDOVER_BOUNDARY (R51): the holdover timebase ends a cycle at its period and numbers the next as previous plus one; the
exchange jobs that R44 or R45 has marked stop at it. What the reference gave in the cycle is recorded with it (R54). -/
def execHoldoverBoundary (s : State) : Result :=
  let c := s.cad
  let x := c.holdoverEnd
  if c.state ≠ .locked ∧ x ≤ s.now * clockParts then
    let t := ceilDiv x clockParts
    let (word, good, interval) := c.judged.getD (none, false, t - c.lastEdge.getD t)
    .next (s.asOf t fun s => (s.logCycle (cadenceBody c word good interval)).boundary t (t * clockParts - x) (c.number + 1) false
      c.stopAtBoundary c.dropAtBoundary)
  else .next s

/-- EV_HOLDOVER_EXPIRED (R52): the grace of the Level's exchange job has run out at a boundary and the job stops at it; the
event is the Level's, carries the time of that boundary, and names the last cycle of grace. -/
def execEvHoldoverExpired (l : Fin 4) (s : State) : Result :=
  match (s.lvl l).job with
  | some j => match j.graceExpired with
    | some (t, number, ended) =>
      .next ((s.updJob l fun j => { j with graceExpired := none }).raiseAt t number fun s =>
        s.raise 0x2006 (some l) 0 0 0 ended.toNat)
    | none => .next s
  | none => .next s

end Sys2Proof.Machine
end

