-- ==== Sys2Proof/Machine/Adit.lean ====
section
/-!
DEFINITION. Machine/Adit.lean: BAR0, mailbox slots, replies, notices, MSI-X and negotiation (20_adit.md).
-/
namespace Sys2Proof.Machine

/-! ### BAR0 bytes -/

/-- The part is past stage 2 of R494 and neither in reset nor stopped by THERMTRIP_L (R540, R558). -/
def Boot.awake (b : Boot) : Bool := b.romDone && b.resetHigh && b.thermtripHigh

/-- The Adit answers: its link is trained, which takes PE_PERST_L high (stage 3 of R494, R558). -/
def State.aditUp (s : State) : Bool := s.boot.awake && s.boot.perstHigh && s.boot.linkUp

/-- Key of a BAR0 byte of a function. -/
def barKey (fn off : Nat) : Nat := fn * 2 ^ 24 + off

/-- Read a little-endian field of a function's BAR0 bytes. -/
def State.bar (s : State) (fn off n : Nat) : Nat := memLe s.barMem (barKey fn off) n

/-- Write a little-endian field of a function's BAR0 bytes. -/
def State.setBar (s : State) (fn off n v : Nat) : State := { s with barMem := memWrite s.barMem (barKey fn off) (leBytes n v) }

/-- Write bytes of a function's BAR0. -/
def State.barBytes (s : State) (fn off : Nat) (bs : List Byte) : State :=
  { s with barMem := memWrite s.barMem (barKey fn off) bs }

/-- Offset of an inbound slot (R473). -/
def inSlot (i : Nat) : Nat := 0x10000 + 0x1000 * i

/-- Offset of an outbound slot (R473). -/
def outSlot (j : Nat) : Nat := 0x20000 + 0x1000 * j

/-- OWNER codes (R477). -/
def ownFree : Nat := 0
/-- HOST_POSTED (R477). -/
def ownPosted : Nat := 1
/-- DEVICE_TAKEN (R477). -/
def ownTaken : Nat := 2
/-- DEVICE_REPLIED (R477). -/
def ownReplied : Nat := 3

/-- A host write that the Adit discards and counts in FILTERED (R474, R478). -/
def State.filtered (s : State) (fn : Nat) : State := s.updFn fn fun f => { f with filtered := satInc32 f.filtered }

/-- One 32-bit word of a host write to a slot: accepted, or none (R478). -/
def State.slotWord (s : State) (fn off v : Nat) : Option State :=
  let base := off / 0x1000 * 0x1000
  let owner := s.bar fn base 4
  if base < 0x20000 then
    if off = base then
      if (owner = ownFree ∧ v = ownPosted) ∨ (owner = ownReplied ∧ v = ownFree) then some (s.setBar fn off 4 v) else none
    else if owner = ownFree then some (s.setBar fn off 4 v) else none
  else if off = base ∧ owner = ownReplied ∧ v = ownFree then some (s.setBar fn off 4 v) else none

/-- A host write to the slots: 32 or 64 bits, each word judged by its slot's ownership (R474, R478). A 64-bit write that
reaches OWNER is judged by the ownership before it, its other word first. -/
def State.slotWrite (s : State) (fn off size data : Nat) : State :=
  if size = 4 ∧ off % 4 = 0 then
    match s.slotWord fn off (data % 2 ^ 32) with
    | some s' => s'
    | none => s.filtered fn
  else if size = 8 ∧ off % 8 = 0 then
    let (s1, b1) := match s.slotWord fn (off + 4) (data / 2 ^ 32 % 2 ^ 32) with
      | some s' => (s', false)
      | none => (s, true)
    let (s2, b2) := match s1.slotWord fn off (data % 2 ^ 32) with
      | some s' => (s', false)
      | none => (s1, true)
    if b1 || b2 then s2.filtered fn else s2
  else s.filtered fn

/-- SLOT_OWNER_WRITE (R478). -/
def execSlotOwnerWrite (fn : Fin 5) (off : BitVec 24) (size : Nat) (data : BitVec 64) (s : State) : Result :=
  if s.aditUp = true ∧ 0x10000 ≤ off.toNat ∧ off.toNat < 0x30000 then .next (s.slotWrite fn.val off.toNat size data.toNat) else .next s

/-! ### MSI-X (R484) -/

/-- Send the message of a vector: its data written at its address (R471, R484). -/
def State.sendVector (s : State) (fn v : Nat) : State :=
  let addr := s.bar fn (0x8000 + 16 * v) 8
  let data := s.bar fn (0x8000 + 16 * v + 8) 4
  let s := { s with hostMem := memWrite s.hostMem addr (leBytes 4 data) }
  s.updFn fn fun f => { f with msixSent := tabPut 0 f.msixSent v (tabGet 0 f.msixSent v + 1) }

/-- Raise a vector: one message, or its pending bit while it is masked; 0xFF is none (R481, R484). -/
def State.raiseVector (s : State) (fn v : Nat) : State :=
  if 64 ≤ v then s
  else if (s.fn fn).msixMask.getLsbD v then
    s.updFn fn fun f => { f with msixPending := f.msixPending ||| BitVec.ofNat 64 (2 ^ v) }
  else s.sendVector fn v

/-- Unmask a vector: any number of pending raises is delivered as one message (R484). -/
def State.unmask (s : State) (fn v : Nat) : State :=
  let f := s.fn fn
  let s' := s.updFn fn fun f =>
    { f with msixMask := f.msixMask &&& ~~~(BitVec.ofNat 64 (2 ^ v)),
             msixPending := f.msixPending &&& ~~~(BitVec.ofNat 64 (2 ^ v)) }
  if f.msixPending.getLsbD v then s'.sendVector fn v else s'

/-- MSIX_VECTOR_UNMASK (R484). -/
def execMsixVectorUnmask (fn : Fin 5) (vec : Fin 64) (s : State) : Result :=
  .next (if s.aditUp then s.unmask fn.val vec.val else s)

/-! ### Notices (R482, R483) -/

/-- The bytes of a notice, OWNER and the bytes after the payload apart. -/
def Notice.bytes (n : Notice) : List Byte :=
  List.replicate 12 0 ++ leBytes 2 0x8000 ++ leBytes 2 n.event.code ++ leBytes 4 32 ++
    leBytes 1 ((n.event.level.map Fin.val).getD 0xFF) ++ leBytes 1 0 ++ leBytes 2 n.lost.toNat ++ leBytes 4 0 ++
    leBytes 8 n.seq.toNat ++ leBytes 8 n.event.cycle.toNat ++ leBytes 2 n.event.angle.toNat ++
    leBytes 2 (if n.event.holdover then 1 else 0) ++ List.replicate 12 0 ++ n.event.payload

/-- The reply of the message that a notice arose from is still to be written (R567). -/
def State.replyFirst (s : State) (n : Notice) : Bool :=
  match n.after with
  | some (fn, q) => (s.fn fn).taken.any fun t => t.seq = q && !t.orphan
  | none => false

/-- The notices that have arisen since state `s₀` wait for the reply of the message taken in a slot (R567). -/
def State.replyBefore (s s₀ : State) (fn slot : Nat) : State :=
  match ((s.fn fn).taken.find? fun t => t.slot = slot).map Taken.seq with
  | some q => (List.range 5).foldl (fun (s : State) k => s.updFn k fun f =>
      { f with waiting := f.waiting.map fun n =>
          if (s₀.fn k).waiting.any fun o => o.event = n.event then n else { n with after := some (fn, q) } }) s
  | none => s

/-- NOTICE_POST: the oldest waiting notice goes into the lowest FREE outbound slot, and the notice vector is raised. It waits for the
reply of the message that it arose from (R567). -/
def execNoticePost (fn : Fin 5) (s : State) : Result :=
  let f := s.fn fn.val
  match f.waiting, (List.range 16).find? (fun j => s.bar fn.val (outSlot j) 4 = ownFree) with
  | n :: rest, some j =>
    if s.replyFirst n then .next s
    else
    let s := s.barBytes fn.val (outSlot j + 4) (n.bytes ++ List.replicate (4032 - 32) 0)
    let s := s.setBar fn.val (outSlot j) 4 ownReplied
    let s := s.updFn fn.val fun f => { f with waiting := rest }
    .next (s.raiseVector fn.val f.noticeVector)
  | _, _ => .next s

/-! ### Taking messages (R479, R480) -/

/-- The message codes of R489. -/
def knownMsg (m : Nat) : Bool :=
  [0x01, 0x10, 0x20, 0x21, 0x22, 0x23, 0x30, 0x31, 0x32, 0x33, 0x40, 0x41, 0x42, 0x50, 0x51, 0x60, 0x61, 0x62, 0x63, 0x70].contains m

/-- Messages with a LEVEL field of their own: its payload offset (R488). -/
def ownLevelAt (m : Nat) : Option Nat :=
  if m = 0x20 then some 0 else if m = 0x60 then some 5 else if m = 0x63 then some 0x0D else none

/-- Messages that act on a Level (R488). -/
def actsOnLevel (m : Nat) : Bool := knownMsg m && !([0x01, 0x10, 0x61, 0x62].contains m)

/-- The number in a message's Level place: of the function on a VF; of the payload or the header on the PF (R488). -/
def Taken.levelNo (t : Taken) (fn : Nat) : Nat :=
  if fn ≠ 0 then fn - 1
  else match ownLevelAt t.msg with
    | some o => (t.payload.getD o 0).toNat
    | none => t.level

/-- The Level a message acts on. -/
def Taken.lvl (t : Taken) (fn : Nat) : Fin 4 := Fin.ofNat 4 (t.levelNo fn)

/-- The header and payload of a slot as the scan copies them (R480). -/
def State.copySlot (s : State) (fn i : Nat) (seq : BitVec 64) : Taken :=
  let b := inSlot i
  let len := s.bar fn (b + 0x14) 4
  { slot := i, seq := seq, turn := s.takes, cycle := s.cad.number, msg := s.bar fn (b + 0x10) 2,
    tag := BitVec.ofNat 16 (s.bar fn (b + 0x12) 2),
    vector := s.bar fn (b + 0x1A) 1, level := s.bar fn (b + 0x1B) 1, length := len,
    payload := memRead s.barMem (barKey fn (b + 0x40)) (min len 4032),
    headerOk := allZero (memRead s.barMem (barKey fn (b + 4)) 12) && allZero (memRead s.barMem (barKey fn (b + 0x34)) 12),
    working := false, status := 0, reply := [], orphan := false, begun := none, dropped := false }

/-- A message's header keeps R488: LENGTH, VECTOR, reserved bytes, and on the PF the LEVEL byte. -/
def Taken.headerKept (t : Taken) (fn : Nat) : Bool :=
  decide (t.length ≤ 4032) && !(decide (64 ≤ t.vector) && decide (t.vector ≤ 254)) && t.headerOk &&
    !(decide (fn = 0) && !(ownLevelAt t.msg).isSome && decide (3 < t.level))

/-- A taken message will be acted on: its header is kept, and its function has negotiated (R488). A HELLO that is taken and still to
be answered does not count: it is answered BUSY while another slot is DEVICE_TAKEN (R485). -/
def State.actsOn (s : State) (fn : Nat) (t : Taken) : Bool := t.headerKept fn && decide ((s.fn fn).version ≠ 0)

/-- Body of a MESSAGE entry (R463); `acts` says that its header is kept, so that a replay carries it out. -/
def messageBody (fn : Nat) (t : Taken) (acts : Bool) (step : BitVec 64) : List Byte :=
  leBytes 2 t.msg ++ leBytes 1 fn ++ leBytes 1 t.slot ++ leBytes 2 t.payload.length ++ leBytes 2 (if acts then 1 else 0) ++
    leBytes 8 step.toNat ++ leBytes 8 (crc64 t.payload) ++ t.payload

/-- A message that acts on the request table (15_requests.md). -/
def isRequestMsg (m : Nat) : Bool := decide (0x30 ≤ m) && decide (m ≤ 0x33)

/-- The Lamp Room of a Level is at work on a boundary: a SAMPLE of one of its batches has completed, and BATCH_BOUNDARY has not yet
come (R340, R346). -/
def State.lampWorks (s : State) (l : Fin 4) : Bool := (s.lvl l).batches.any fun p => !p.2.due.isEmpty

/-- A message of a slot stays posted: one for the Lamp Room, which takes none while it works a boundary (R340). -/
def State.lampHolds (s : State) (fn : Nat) (t : Taken) : Bool :=
  isRequestMsg t.msg && decide (t.levelNo fn < 4) && s.lampWorks (t.lvl fn)

/-- Take the message of one slot (R480), unless the Lamp Room holds it (R340). -/
def State.takeSlot (s : State) (fn i : Nat) : State :=
  let f := s.fn fn
  let t := s.copySlot fn i f.takeSeq
  if s.bar fn (inSlot i) 4 = ownPosted ∧ s.lampHolds fn t = false then
    let s := { s with takes := s.takes + 1 }
    let s := s.setBar fn (inSlot i + 0x20) 8 f.takeSeq.toNat
    let s := s.setBar fn (inSlot i) 4 ownTaken
    let s := s.updFn fn fun f => { f with takeSeq := f.takeSeq + 1, taken := f.taken ++ [t] }
    if actsOnLevel t.msg && decide (t.levelNo fn < 4) then
      s.log (t.lvl fn) 0x04 (messageBody fn t (s.actsOn fn t) (s.lvl (t.lvl fn)).lstep)
    else s
  else s

/-- The message taken in a slot. -/
def State.taken (s : State) (fn slot : Nat) : Option Taken := (s.fn fn).taken.find? fun t => t.slot = slot

/-- Change the first message taken in a slot; a later one stands behind the message of a reset function (R472). -/
def mapFirst (slot : Nat) (f : Taken → Taken) : List Taken → List Taken
  | [] => []
  | t :: ts => if t.slot = slot then f t :: ts else t :: mapFirst slot f ts

/-- Drop the first message taken in a slot. -/
def dropFirst (slot : Nat) : List Taken → List Taken
  | [] => []
  | t :: ts => if t.slot = slot then ts else t :: dropFirst slot ts

/-- Change the message taken in a slot. -/
def State.updTaken (s : State) (fn slot : Nat) (f : Taken → Taken) : State :=
  s.updFn fn fun x => { x with taken := mapFirst slot f x.taken }

/-! ### Replies (R481, R487) -/

/-- OK (R487). -/
def stOk : Nat := 0
/-- BUSY (R487). -/
def stBusy : Nat := 1
/-- REFUSED (R487). -/
def stRefused : Nat := 2
/-- FROZEN (R487). -/
def stFrozen : Nat := 3
/-- VERSION (R487). -/
def stVersion : Nat := 4
/-- NO_SNAPSHOT (R487). -/
def stNoSnapshot : Nat := 5
/-- CANCEL_LATE (R487). -/
def stCancelLate : Nat := 6
/-- NOT_FOUND (R487). -/
def stNotFound : Nat := 7

/-- Write a reply: payload, REPLY_LENGTH, STATUS, CYCLE, ANGLE, RFLAGS, then OWNER, then the vector (R481); the reply of a
function reset in the meantime is discarded (R472). -/
def State.reply (s : State) (fn slot status : Nat) (payload : List Byte := []) : State :=
  match s.taken fn slot with
  | none => s
  | some t =>
    let s := s.updFn fn fun f => { f with taken := dropFirst slot f.taken }
    if t.orphan then s
    else
      let b := inSlot slot
      let s := s.barBytes fn (b + 0x40) payload
      let s := s.setBar fn (b + 0x1C) 4 payload.length
      let s := s.setBar fn (b + 0x18) 2 status
      let s := s.setBar fn (b + 0x28) 8 s.cad.number.toNat
      let s := s.setBar fn (b + 0x30) 2 s.angle
      let s := s.setBar fn (b + 0x32) 2 (if s.holdoverMark then 1 else 0)
      let s := s.setBar fn b 4 ownReplied
      s.raiseVector fn t.vector

/-- A scan of a VF is deferred to the end of the Lamp Room's work on a boundary of its Level (R479). -/
def State.scanDeferred (s : State) (fn : Nat) : Bool := decide (fn ≠ 0) && s.lampWorks (Fin.ofNat 4 (fn - 1))

/-- SLOT_SCAN: every HOST_POSTED slot is taken, in ascending index (R480), once the work that defers the scan is done (R479); a
message whose code R489 does not have has no row of its own and is answered here: NOT_FOUND on the VF of an absent Level, else
REFUSED (R488). -/
def execSlotScan (fn : Fin 5) (s : State) : Result :=
  if s.boot.fw ≠ .running ∨ s.boot.awake = false ∨ s.scanDeferred fn.val = true then .next s
  else
    let f := s.fn fn.val
    let gap := match f.lastScan with
      | some t => clocksToNs (s.now - t)
      | none => 0
    let s := s.updFn fn.val fun f =>
      { f with lastScan := some s.now, scanMax := BitVec.ofNat 32 (min (2 ^ 32 - 1) (max f.scanMax.toNat gap)) }
    let s := (List.range 16).foldl (fun (s : State) i => s.takeSlot fn.val i) s
    let odd := (s.fn fn.val).taken.filter fun t => !knownMsg t.msg
    .next (odd.foldl (fun (s : State) t =>
      s.reply fn.val t.slot
        (if fn.val ≠ 0 ∧ !(s.lvl (t.lvl fn.val)).present then stNotFound else stRefused)) s)

/-- Live messages that a replay of the Level does not exclude (R466). -/
def replayAllows (t : Taken) : Bool :=
  [0x22, 0x60, 0x63].contains t.msg || (t.msg = 0x32 && decide (t.payload.getD 4 0 = 0))

/-- A Level is under replay, from REPLAY.START until its job closes (R465, R466). DEDUCED (notes/assumptions/111.md): the final
records of the stopped job are a replay's too. -/
def State.replaying (s : State) (l : Fin 4) : Bool :=
  match (s.lvl l).job with
  | some j => j.replay.isSome
  | none => false

/-- The feature bit a message needs (R486, R489). -/
def neededFeature (m : Nat) : Option Nat := if m = 0x42 then some 4 else if m = 0x70 then some 5 else none

/-- The checks before a message's own conditions (R488): the status, or none where all pass. Those on the negotiation are made as of
the take for the message of a function reset since (R472). -/
def State.precheck (s : State) (fn : Nat) (t : Taken) : Option Nat :=
  let f := s.fn fn
  let l := t.lvl fn
  let own := (ownLevelAt t.msg).isSome
  if fn ≠ 0 && !(s.lvl l).present then some stNotFound
  else if !t.headerKept fn then some stRefused
  else if !t.orphan && decide (t.msg ≠ 0x01) && decide (f.version = 0) then some stVersion
  else if !t.orphan && (match neededFeature t.msg with
    | some b => !f.features.getLsbD b
    | none => false) then some stVersion
  else if fn = 0 && own && decide (3 < t.levelNo fn) then some stRefused
  else if fn = 0 && actsOnLevel t.msg && !(s.lvl l).present then some stNotFound
  else if (fn ≠ 0 || actsOnLevel t.msg) && s.replaying l && !replayAllows t then some stBusy
  else none

/-- The request messages of a Level that have been taken and not acted on, with their functions. -/
def State.requestsTaken (s : State) (l : Fin 4) : List (Nat × Taken) :=
  (List.range 5).flatMap fun fn => ((s.fn fn).taken.filter fun t =>
    isRequestMsg t.msg && !t.working && decide (t.levelNo fn = l.val)).map fun t => (fn, t)

/-- One message was taken before another (R345, R357, R480). -/
def takenBefore (a b : Nat × Taken) : Bool := decide (a.2.turn < b.2.turn)

/-- The turn of a message has come: those that act on the request table are worked in the order in which they were taken
(R345). -/
def State.inTurn (s : State) (fn : Nat) (t : Taken) : Bool :=
  !isRequestMsg t.msg || decide (3 < t.levelNo fn) || !(s.requestsTaken (t.lvl fn)).any fun o => takenBefore o (fn, t)

/-- Act on the message taken in a slot, if it is of the given code, not already being worked, and its turn has come: its checks of
R488, then its own chapter. -/
def State.onMessage (s : State) (fn slot code : Nat) (go : State → Taken → Fin 4 → State) : Result :=
  match s.taken fn slot with
  | some t =>
    if t.msg = code ∧ t.working = false ∧ s.inTurn fn t = true then
      match s.precheck fn t with
      | some st => .next (s.reply fn slot st)
      | none => .next (go s t (t.lvl fn))
    else .next s
  | none => .next s

/-- The message's work goes on until REPLY_POSTED; what is known of its reply is kept (R490). -/
def State.work (s : State) (fn slot : Nat) (status : Nat := 0) (reply : List Byte := []) : State :=
  s.updTaken fn slot fun t => { t with working := true, status := status, reply := reply }

/-- A little-endian field of a message's payload; bytes beyond LENGTH read zero. -/
def Taken.le (t : Taken) (o n : Nat) : Nat := listLe t.payload o n

/-- A range of payload bytes is zero. -/
def Taken.zero (t : Taken) (o n : Nat) : Bool := allZero (listSlice t.payload o n)

/-! ### Negotiation (R485, R486) -/

/-- The feature bits offered at a version (R486). -/
def offered (v : Nat) : Nat := if 3 ≤ v then 0x3F else if v = 2 then 0x3B else 0

/-- A job is open on the function's Level, or on any Level for the PF; one whose JOB.OPEN is still at work is not (R426). -/
def State.jobOpenFor (s : State) (fn : Nat) : Bool :=
  (List.finRange 4).any fun l => (decide (fn = 0) || decide (fn = l.val + 1)) &&
    (s.lvl l).job.any fun j => decide (j.phase ≠ .opening)

/-- HELLO (R485): the highest common version, the agreed features, and the start of notices. -/
def execHello (fn : Fin 5) (slot : Fin 16) (s : State) : Result :=
  s.onMessage fn.val slot.val 0x01 fun s t _ =>
    let lo := t.le 0 2
    let hi := t.le 2 2
    let nv := t.le 4 1
    let v := min hi 3
    let agreed := t.le 8 8 &&& offered v
    let f := s.fn fn.val
    let st :=
      if hi < lo ∨ (64 ≤ nv ∧ nv ≤ 254) ∨ t.zero 5 3 = false then stRefused
      else if v < max lo 1 then stVersion
      else if f.taken.any fun o => decide (o.slot ≠ slot.val) && !o.orphan then stBusy
      else if s.jobOpenFor fn.val ∧ (f.version ≠ v ∨ f.features.toNat ≠ agreed) then stRefused
      else stOk
    if st = stOk then
      let s := s.updFn fn.val fun f =>
        { f with version := v, features := BitVec.ofNat 64 agreed, noticeVector := nv }
      let s := s.reply fn.val slot.val stOk
        (leBytes 2 v ++ List.replicate 6 0 ++ leBytes 8 agreed ++ leBytes 8 (offered v))
      if fn.val = 0 ∧ s.boot.debugUnlocked then s.raise 0x6003 none 0 0 0 else s
    else s.reply fn.val slot.val st

/-! ### Other host writes (R473, R474) -/

/-- A write to the MSI-X table: address and data words are kept; the mask bit of a vector control word masks or unmasks. -/
def State.msixWrite (s : State) (fn off v : Nat) : State :=
  if off % 16 = 12 then
    let vec := (off - 0x8000) / 16
    if v % 2 = 1 then s.updFn fn fun f => { f with msixMask := f.msixMask ||| BitVec.ofNat 64 (2 ^ vec) }
    else s.unmask fn vec
  else s.setBar fn off 4 v

end Sys2Proof.Machine
end

