-- ==== Sys2Proof/Machine/Operands.lean ====
section
/-!
DEFINITION. Machine/Operands.lean: how a command finds its operands: the descriptor its entry names in the descriptor area
(R58, R61), and bit fields of it.
-/
namespace Sys2Proof.Machine

/-- The `n` bytes of an entry's descriptor. -/
def Image.desc (img : Image) (en : Entry) (n : Nat) : List Byte := listSlice img.descs en.desc n

/-- The descriptor of an entry as one little-endian number. -/
def Image.descNat (img : Image) (en : Entry) (n : Nat) : Nat := leNat (img.desc en n)

/-- Every bit of a number outside the listed fields (lowest bit, width) is zero. -/
def reservedClear (d : Nat) (fields : List (Nat × Nat)) : Bool :=
  decide (d = fields.foldl (fun acc f => acc + bitField d f.1 f.2 * 2 ^ f.1) 0)

/-- A number lies in a range. -/
def inRange (x lo hi : Nat) : Bool := decide (lo ≤ x) && decide (x ≤ hi)

end Sys2Proof.Machine
end

