-- ==== Sys2Proof/Machine/PitLog.lean ====
section
/-!
DEFINITION. Machine/PitLog.lean: the bytes of the Pit Log (R462, R463), its export (R464), and reading an exported log back
(R465).
-/
namespace Sys2Proof.Machine

/-! ### LOG.EXPORT -/

/-- Whole entries that fit into some units, in order. -/
def entriesFitting : Nat → List LogEntry → List LogEntry
  | _, [] => []
  | n, e :: es => if logUnits e.body ≤ n then e :: entriesFitting (n - logUnits e.body) es else []

/-- The reply of LOG.EXPORT. -/
def exportReply (first units next oldest lost : Nat) : List Byte :=
  leBytes 8 first ++ leBytes 4 units ++ leBytes 4 0 ++ leBytes 8 next ++ leBytes 8 oldest ++ leBytes 8 lost

/-- LOG_EXPORT: the copy; the reply is posted after it (R464). -/
def execLogExport (fn : Fin 5) (slot : Fin 16) (s : State) : Result :=
  s.onMessage fn.val slot.val 0x63 fun s t l =>
    let ls := s.lvl l
    let first := t.le 0 8
    let units := t.le 8 4
    let dest := t.le 0xC 1
    let n := t.le 0xE 2
    let ok := inRange units 1 65536 && decide (dest < 2) && decide (n ≤ 1024) &&
      decide (t.le 0x10 2 + n ≤ 256 * ls.record.tallyBlocks) && t.zero 0x12 6 && (decide (dest = 0) || decide (t.le 0x18 8 % 4096 = 0))
    if (s.fn fn.val).taken.any fun o => o.msg = 0x63 && o.working then s.reply fn.val slot.val stBusy
    else if ls.log.nextSeq ≤ first then s.reply fn.val slot.val stNotFound
    else if ok = false then s.reply fn.val slot.val stRefused
    else
      let oldest := (ls.log.entries.head?.map fun e => e.seq.toNat).getD ls.log.nextSeq
      let es := entriesFitting units (ls.log.entries.filter fun e => decide (first ≤ e.seq.toNat))
      let bs := es.flatMap LogEntry.bytes
      let s := if dest = 0 then s.barBytes fn.val 0x400000 bs
        else { s with hostMem := memWrite s.hostMem (t.le 0x18 8) bs }
      let s := s.updLvl l fun ls =>
        { ls with acct := { ls.acct with pcieBytes := ls.acct.pcieBytes + bs.length },
                  tallyLog := if n = 0 then ls.tallyLog else ls.tallyLog ++ [(t.le 0x10 2, n, s.cad.ordinal)] }
      s.work fn.val slot.val stOk (exportReply (max first oldest) (bs.length / 64) ls.log.nextSeq oldest ls.log.lost)

/-- Body of a TALLY entry (R463). -/
def tallyBody (ls : LevelState) (first n : Nat) : List Byte :=
  leBytes 8 first ++ (List.range n).flatMap fun i =>
    let x := ls.tally (first + i)
    leBytes 8 (x.count.toNat + x.target.toNat * 2 ^ 16 + (if x.level then 2 ^ 32 else 0))

/-- TALLY_LOG_ENTRY: the entries asked for before the present cycle began (R464). -/
def execTallyLogEntry (l : Fin 4) (s : State) : Result :=
  let due := (s.lvl l).tallyLog.filter fun q => decide (q.2.2 < s.cad.ordinal)
  let s := s.updLvl l fun ls => { ls with tallyLog := ls.tallyLog.filter fun q => !decide (q.2.2 < s.cad.ordinal) }
  .next (due.foldl (fun (s : State) q => s.log l 0x0F (tallyBody (s.lvl l) q.1 q.2.1)) s)

/-! ### Reading an exported log (R465) -/

/-- Bytes of the body of an entry of a kind, where its padding follows (R463). -/
def bodyLength (kind : Nat) (body : List Byte) : Nat :=
  match kind with
  | 0x02 => body.length
  | 0x03 => 24
  | 0x04 => 24 + listLe body 4 2
  | 0x05 => 16 + 8 * ((List.range ((body.length - 16) / 8)).filter fun i => decide (listLe body (16 + 8 * i + 4) 4 ≠ 0)).length
  | 0x06 => 16
  | 0x07 => 80
  | 0x08 => 16
  | 0x09 => 8192
  | 0x0A => 24
  | 0x0B => 32
  | 0x0C => 24
  | 0x0D => 40
  | 0x0E => 72
  | 0x10 => 16
  | _ => body.length

/-- Read entries; `fuel` bounds their number. None where a head makes no sense. -/
def parseEntries : Nat → List Byte → Option (List LogEntry)
  | 0, bs => if bs.isEmpty then some [] else none
  | fuel + 1, bs =>
    if bs.isEmpty then some []
    else
      let u := listLe bs 20 2
      if u = 0 ∨ 129 < u ∨ bs.length < 64 * u then none
      else
        let body := listSlice bs 32 (64 * u - 32)
        let kind := listLe bs 18 2
        let e : LogEntry :=
          { seq := BitVec.ofNat 64 (listLe bs 0 8), cycle := BitVec.ofNat 64 (listLe bs 8 8), angle := BitVec.ofNat 16 (listLe bs 16 2),
            holdover := bitAt (listLe bs 22 2) 0, kind := kind, step := BitVec.ofNat 64 (listLe bs 24 8),
            body := body.take (bodyLength kind body) }
        (parseEntries fuel (bs.drop (64 * u))).map fun es => e :: es

/-- Sequence numbers follow one another without a gap. -/
def gapless : List LogEntry → Bool
  | a :: b :: rest => decide (b.seq.toNat = a.seq.toNat + 1) && gapless (b :: rest)
  | _ => true

/-- A log covers a step: one CADENCE entry for each of its cycles. -/
def coversStep (log : List LogEntry) (loop step : Nat) : Bool :=
  decide (loop ≤ log.countP fun e => decide (e.kind = 3) && decide (e.step.toNat = step))

end Sys2Proof.Machine
end

