-- ==== Sys2Proof/Machine/Meter.lean ====
section
/-!
DEFINITION. Machine/Meter.lean: what the Assay's commands are made of (22_assay.md): its event log, the division of energy, the
bytes of a record, and asking for one.
-/
namespace Sys2Proof.Machine

/-- Change the Assay. -/
def State.updAsy (s : State) (f : AssayState → AssayState) : State := { s with asy := f s.asy }

/-! ### The event log (R520) -/

/-- Entries the log holds. -/
def asyLogMax : Nat := 1048576

/-- ASSAY_TIME in µs (R512). -/
def AsyTotals.micros (t : AsyTotals) : Nat := t.time / 2000

/-- The log is full. -/
def AsyTotals.logFull (t : AsyTotals) : Bool := decide (asyLogMax ≤ t.log.length)

/-- Append an entry: LOG_COUNT and LOG_DIGEST advance whether or not it is stored. -/
def AsyTotals.append (t : AsyTotals) (cycle : BitVec 64) (kind : Nat) (data : List Byte) : AsyTotals :=
  let e := asyLogEntry t.logCount t.micros cycle kind data
  { t with log := if t.logFull then t.log else t.log ++ [e], logCount := t.logCount + 1, logDigest := sha384 (shaBytes t.logDigest ++ e) }

/-- EV_ASSAY_LOG_FULL, once, when the hub learns of it. -/
def State.checkLogFull (s : State) : State :=
  let a := s.asy
  if a.tot.logFull = true ∧ a.tot.logFullRaised = false ∧ a.linkUp = true then
    (s.updAsy fun a => { a with tot := { a.tot with logFullRaised := true } }).raise 0x7004 none 0 0 0 a.tot.logCount
  else s

/-- Append an entry with the cycle of the last frame, or all ones while no frame arrives. -/
def State.asyLog (s : State) (kind : Nat) (data : List Byte) : State :=
  let a := s.asy
  let cycle := if a.linkUp then a.lastCycle else BitVec.allOnes 64
  (s.updAsy fun a => { a with tot := a.tot.append cycle kind data }).checkLogFull

/-! ### Dividing energy (R514, R515) -/

/-- A number of a list of energies. -/
def nthNat (xs : List Nat) (i : Nat) : Nat := xs.getD i 0

/-- Owner of a quadrant in a quadrant map of Levels: 4 is PART. -/
def mapOwner (map : List (BitVec 8)) (q : Nat) : Nat :=
  ((List.range 4).find? fun l => bitAt (map.getD l 0).toNat q).getD 4

/-- MEASURED and ALLOCATED that a cycle's rail energies give channel `c` (R514). -/
def channelShare (map : List (BitVec 8)) (rails : List Nat) (c : Nat) : Nat × Nat :=
  let s := (List.range 6).foldl (fun n i => n + nthNat rails (4 + i)) 0
  let qs := (List.range 4).filter fun q => mapOwner map q = c
  (qs.foldl (fun n q => n + nthNat rails q) 0, qs.length * (s / 4) + (if c = 4 then s % 4 else 0))

/-- Add a cycle's energy to a channel's lines: contexts by their engine time, the rest to IDLE (R515). -/
def addLines (lines : List AsyLine) (times : List Nat) (e a : Nat) : List AsyLine :=
  let t := times.foldl (· + ·) 0
  let share (x : Nat) (i : Nat) : Nat := if t = 0 then 0 else x * nthNat times i / t
  let used (x : Nat) : Nat := (List.range 8).foldl (fun n i => n + share x i) 0
  (List.range 9).map fun i =>
    let l := lines.getD i .zero
    if i < 8 then ⟨l.engine + nthNat times i, l.measured + share e i, l.allocated + share a i⟩
    else ⟨l.engine, l.measured + (e - used e), l.allocated + (a - used a)⟩

/-- Sum of two lists of rail energies. -/
def addRails (x y : List Nat) : List Nat := (List.range 10).map fun k => nthNat x k + nthNat y k

/-- Change the totals of the five channels, each by its number. -/
def AssayState.updChannels (a : AssayState) (f : Nat → AsyChannel → AsyChannel) : AssayState :=
  { a with tot := { a.tot with channels := (List.range 5).map fun c => f c (a.tot.channels.getD c .zero) } }

/-- Close a cycle: its energies are divided by a map, with the counts of a frame where one has come; what was sampled past its end
begins the next (R513 to R516). -/
def AssayState.closeCycle (a : AssayState) (map : List (BitVec 8)) (counts : Nat → Accounting) : AssayState :=
  let a' := a.updChannels fun c ch =>
    let (e, al) := channelShare map a.cycleRails c
    let n := if c < 4 then counts c else .zero
    let times := (List.range 8).map fun i => tabGet 0 n.byContext i
    { ch with measured := ch.measured + e, allocated := ch.allocated + al, engine := ch.engine + n.engine,
              nearBytes := ch.nearBytes + n.nearBytes, farBytes := ch.farBytes + n.farBytes, pcieBytes := ch.pcieBytes + n.pcieBytes,
              lines := if c < 4 then addLines ch.lines times e al else ch.lines }
  { a' with cycleRails := a.lateRails, lateRails := List.replicate 10 0 }

/-- All that has been sampled since the last boundary belongs to the cycle that ends now. -/
def AssayState.joinLate (a : AssayState) : AssayState :=
  { a with cycleRails := addRails a.cycleRails a.lateRails, lateRails := List.replicate 10 0 }

/-- Frames are missing on every channel (RFLAGS of R517). -/
def AssayState.markMissing (a : AssayState) : AssayState := a.updChannels fun _ ch => { ch with missing := true }

/-- A job is opened on a channel: its JOB_SEQ counts it, and its lines start anew (R517). -/
def AssayState.jobOpened (a : AssayState) (c : Nat) : AssayState :=
  a.updChannels fun i ch => if i = c then { ch with jobSeq := ch.jobSeq + 1, lines := List.replicate 9 .zero } else ch

/-! ### Records (R517) -/

/-- An energy field. -/
def energyBytes (x : Nat) : List Byte := leBytes 10 x ++ [0, 0]

/-- Bytes 0x000 to 0x39F of a record; RECORD_SEQ is assigned at signing. -/
def AssayState.recordBody (a : AssayState) (c cause : Nat) (seq : Nat) : List Byte :=
  let ch := a.tot.channels.getD c .zero
  let flags := (if a.holdover then 1 else 0) + (if ch.missing then 2 else 0) + (if a.tot.logFull then 4 else 0) + (if a.sealed_ then 0 else 8)
  let quads := if c < 4 then (a.map.getD c 0).toNat else
    (List.range 4).foldl (fun n q => n + (if mapOwner a.map q = 4 then 2 ^ q else 0)) 0
  let cycle := if a.linkUp then a.lastCycle else BitVec.allOnes 64
  let lines := (List.range 9).flatMap fun i =>
    let l := if c < 4 then ch.lines.getD i .zero else .zero
    leBytes 8 (clocksToNs l.engine) ++ energyBytes l.measured ++ energyBytes l.allocated
  let rails := (List.range 10).flatMap fun k => energyBytes (if c = 4 then nthNat a.tot.rails k else 0)
  leBytes 4 1 ++ leBytes 1 c ++ leBytes 1 cause ++ leBytes 2 flags ++ leBytes 8 seq ++ leBytes 8 cycle.toNat ++ leBytes 8 a.tot.micros ++
    leBytes 1 quads ++ List.replicate 7 0 ++ leBytes 8 ch.jobSeq ++ energyBytes ch.measured ++ energyBytes ch.allocated ++
    leBytes 8 (clocksToNs ch.engine) ++ leBytes 8 ch.nearBytes ++ leBytes 8 ch.farBytes ++ leBytes 8 ch.pcieBytes ++ leBytes 8 ch.missingCycles ++
    leBytes 8 a.tot.logCount ++ leBytes 8 a.tot.changeRefused ++ lines ++ rails ++ leBytes 16 Config.assayId.toNat ++
    shaBytes a.tot.logDigest ++ List.replicate 328 0

/-- Form one asked-for record. A record with CAUSE 1 opens a new job on the channel: its lines start anew (R517, R526). -/
def AssayState.form (a : AssayState) (q : AsyRequest) : AssayState × AsyRequest :=
  if q.formed.isSome then (a, q)
  else
    let a := if q.cause = 1 then a.jobOpened q.channel else a
    let b := a.recordBody q.channel q.cause 0
    (a.updChannels fun i ch => if i = q.channel then { ch with missing := false } else ch, { q with formed := some b })

/-- Form every record asked for, in the order of asking. -/
def AssayState.formAll (a : AssayState) : AssayState :=
  let (a', qs) := a.waiting.foldl (fun (r : AssayState × List AsyRequest) q =>
    let (x, q') := r.1.form q
    (x, r.2 ++ [q'])) (a, [])
  { a' with waiting := qs }

/-- The mirror's channel blocks: bytes 0x030 to 0x07F of a record formed now (R525). -/
def AssayState.mirrored (a : AssayState) : AssayState :=
  { a with mirror := (List.range 5).map fun c => ((a.recordBody c 0 0).drop 0x30).take 0x50 }

/-- A record of a channel is asked for: it is formed at the next cycle boundary (R518). Without VASY the Assay does not run, and learns
later of a job that is opened (notes/assumptions/119.md). -/
def State.askRecord (s : State) (channel cause : Nat) (for_ : AsyFor := .cause) : State :=
  s.updAsy fun a =>
    if a.vasy then { a with waiting := a.waiting ++ [⟨channel, cause, for_, none⟩] }
    else if cause = 1 then { a with openedDark := a.openedDark ++ [channel] } else a

/-- Requested records that wait (R518). -/
def AssayState.requested (a : AssayState) : Nat := a.waiting.countP fun q => q.cause = 0

/-- ASY_STATUS (R522). -/
def AssayState.status (a : AssayState) : Nat :=
  (if a.sealed_ then 1 else 0) + (if a.linkUp then 2 else 0) + (if a.holdover then 4 else 0) + (if a.tot.logFull then 8 else 0) +
    (if a.waiting.any fun q => q.formed.isSome then 16 else 0)

end Sys2Proof.Machine
end

