-- ==== Sys2Proof/Machine/Winder.lean ====
section
/-!
DEFINITION. Machine/Winder.lean: the Winder's own opcodes (R63, R78, R81).
-/
namespace Sys2Proof.Machine

/-- Engine 0xF0 (R62). -/
def isWinder (e : Nat) : Bool := e = 0xF0

/-- CORE_S0 to CORE_S15 (R62). -/
def isCoreEng (e : Nat) : Bool := e < 0x10

/-- DESCRIPTOR bits of a Winder entry (R63). -/
def Ready.operand (r : Ready) (lo w : Nat) : Nat := bitField r.en.desc lo w

/-- NOP: no effect beyond its wait and its signal. -/
def execNop (l : Fin 4) (e : Nat) (s : State) : Result :=
  s.dispatch l e isWinder 0x00 fun s r c => s.completeNow r c

/-- TALLY_INIT: COUNT, TARGET and MODE are set, over every signal of the same hub clock, its own among them (R79); a TARGET of 0
is treated as 1 and reported (R63, R78). -/
def execTallyInit (l : Fin 4) (e : Nat) (s : State) : Result :=
  s.dispatch l e isWinder 0x01 fun s r c =>
    let s := s.completeNow r c
    let old := (s.lvl l).tally r.en.tally
    let target := r.operand 16 16
    let x : TallyState :=
      { count := BitVec.ofNat 16 (r.operand 0 16), target := BitVec.ofNat 16 (if target = 0 then 1 else target),
        level := r.operand 32 1 = 1, initAt := s.now + 1, was := if old.initAt = s.now + 1 then old.was else old.count }
    let s := s.updLvl l fun ls => ls.setTally r.en.tally x
    if target = 0 then s.raise 0x2022 (some l) 0 r.en.tally e else s

/-- TALLY_SIGNAL: the Tally is signalled once (R63, R78). -/
def execTallySignal (l : Fin 4) (e : Nat) (s : State) : Result :=
  s.dispatch l e isWinder 0x02 fun s r _ => s.signalTally l r.en.tally e

/-- Change the timer that a Winder entry names. -/
def timerOp (l : Fin 4) (e opcode : Nat) (f : Ready → PhaseTimer → PhaseTimer) (s : State) : Result :=
  s.dispatch l e isWinder opcode fun s r c =>
    (s.updLvl l fun ls => ls.setTimer (r.operand 0 6) (f r (ls.timer (r.operand 0 6)))).completeNow r c

/-- TIMER_START: the timer runs, unbound (R81). -/
def execTimerStart (l : Fin 4) (e : Nat) (s : State) : Result :=
  timerOp l e 0x03 (fun _ t => { t with running := true, bound := none }) s

/-- TIMER_STOP: the timer stops, unbound (R81). -/
def execTimerStop (l : Fin 4) (e : Nat) (s : State) : Result :=
  timerOp l e 0x04 (fun _ t => { t with running := false, bound := none }) s

/-- TIMER_CLEAR: the timer stops, unbound, at zero (R81). -/
def execTimerClear (l : Fin 4) (e : Nat) (s : State) : Result :=
  timerOp l e 0x05 (fun _ _ => .fresh) s

/-- TIMER_BIND: the timer advances while the engine is held for the cause (R63, R81). -/
def execTimerBind (l : Fin 4) (e : Nat) (s : State) : Result :=
  timerOp l e 0x06 (fun r t => { t with running := false, bound := some (r.operand 6 8, r.operand 14 2) }) s

end Sys2Proof.Machine
end

