-- ==== Sys2Proof/Machine/Flags.lean ====
section
/-!
DEFINITION. Machine/Flags.lean: the status registers, computed from the state (R83 to R86, R475, R476, R484, R525), and what a
read of a 32-bit word of BAR0 gives (R473).
-/
namespace Sys2Proof.Machine

/-! ### Winder status mirror (R83 to R86) -/

/-- WSTATE. -/
def State.wstate (s : State) : Nat := s.cad.state.code + (if bitAt (s.cad.lastFlags s.now).toNat 0 then 4 else 0)

/-- WFLAGS. -/
def State.wflagsReg (s : State) : BitVec 32 :=
  BitVec.ofNat 32 ((s.cad.lastFlags s.now).toNat + (if s.cad.wordBefore s.now then 2 ^ 16 else 0))

/-- WRSVFLAG. -/
def State.wrsvflag (s : State) : BitVec 32 := countReserved s.cad.rsvFlags (s.cad.validWords s.now)

/-- WPERIOD: the current period in units of 0.5 ns, halves up. -/
def State.wperiod (s : State) : Nat :=
  let p := s.cad.current
  (2 * p.sum + p.n) / (2 * p.n)

/-- WRUN. -/
def State.wrun (s : State) : Nat := min 0xFFFF s.cad.goodRun + min 0xFFFF s.cad.badRun * 2 ^ 16

/-- A stop of the Level's job is due at the next boundary (R426): its own, that of a contained job which is not running yet (R416)
among them, or one that R44 or R45 has announced outside LOCKED. DESIGN CHOICE (notes/assumptions/47.md): a stop by STEP_LIMIT, by a
replay's LAST_STEP or by the end of the grace becomes due at its boundary, so that STOP_PENDING does not read 1 in the cycle before
it. -/
def LevelState.stopAhead (ls : LevelState) (cad : Cadence) (j : Job) : Bool :=
  let ex := ls.usesExchange && j.replay.isNone
  match j.phase with
  | .running => !j.stopDue && (j.stopPending || (ex && cad.stopAtBoundary))
  | .opened => !j.stopDue && j.stopPending
  | .started => !j.stopDue && (j.stopPending || (ex && cad.dropAtBoundary))
  | _ => false

/-- LJOB: a job is RUNNING from its start cycle until its dispatched commands have ended (R426). -/
def LevelState.ljob (ls : LevelState) (cad : Cadence) : Nat :=
  match ls.job with
  | some j =>
    if j.phase = .opening then 0
    else 1 + (if j.phase = .running ∨ (j.phase = .draining ∧ ls.lstep ≠ 0) then 2 else 0) + (if ls.usesExchange then 4 else 0) +
      (if ls.stopAhead cad j then 8 else 0)
  | none => 0

/-- LSLIP_FIRST. -/
def LevelState.lslipFirst (ls : LevelState) : Nat :=
  match ls.slipFirst with
  | some e => e % 2 ^ 20 + 2 ^ 31
  | none => 0

/-- LDEBT: the debt outstanding over the Level's engines. -/
def LevelState.ldebt (ls : LevelState) : Nat :=
  ls.engines.foldl (fun n ke => ke.2.debt.foldl (fun n d => n + d.2) n) 0

/-- LTALLY; a Level without a block keeps the reset value. -/
def State.ltally (s : State) (l : Fin 4) : Nat :=
  if (s.lvl l).record.tallyBlocks = 0 then 0
  else 256 * s.blockBase l LevelRecord.tallyBlocks + 256 * (s.lvl l).record.tallyBlocks * 2 ^ 16

/-- LGRACE: the job's grace while LOCKED (R86). -/
def LevelState.lgrace (ls : LevelState) (cad : Cadence) : Nat :=
  match ls.job with
  | some j => if cad.state = .locked then j.grace else j.graceLeft
  | none => ls.graceHeld

/-- LIMAGE. -/
def LevelState.limage (ls : LevelState) : Nat :=
  match ls.image with
  | some img => img.major + img.minor * 2 ^ 16
  | none => 0

/-- A word of the block of a Level. -/
def State.levelWord (s : State) (l : Fin 4) (o : Nat) : Nat :=
  let ls := s.lvl l
  match o with
  | 0x00 => ls.ljob s.cad
  | 0x04 => ls.offset + s.angle * 2 ^ 16
  | 0x08 => ls.lstep.toNat % 2 ^ 32
  | 0x0C => ls.lstep.toNat / 2 ^ 32
  | 0x10 => ls.slipCount.toNat
  | 0x14 => ls.slipMax.toNat
  | 0x18 => ls.lslipFirst
  | 0x1C => ls.ldebt
  | 0x20 => s.ltally l
  | 0x24 => ls.lgrace s.cad
  | 0x28 => ls.limage
  | _ => 0

/-- A function may read the blocks of a Level (R83): the PF, and the VF of the Level. -/
def mayReadLevel (fn : Nat) (l : Fin 4) : Bool := fn = 0 || fn = l.val + 1

/-- The Level whose block or timer block holds an offset of the mirror. -/
def mirrorLevel (o : Nat) : Fin 4 := if o < 0x1000 then Fin.ofNat 4 ((o - 0x100) / 0x100) else Fin.ofNat 4 ((o - 0x1000) / 0x400)

/-- A word of the mirror at an offset from 0x10_0000 at this instant, without latches, as a function reads it. -/
def State.mirrorLive (s : State) (fn o : Nat) : Nat :=
  if o = 0 then s.wstate
  else if o = 4 then s.wflagsReg.toNat
  else if o = 8 then s.cad.number.toNat % 2 ^ 32
  else if o = 0xC then s.cad.number.toNat / 2 ^ 32
  else if o = 0x10 then s.wperiod
  else if o = 0x14 then s.wrun
  else if o = 0x18 then s.cad.glitches.toNat
  else if o = 0x1C then s.wrsvflag.toNat
  else if 0x100 ≤ o ∧ o < 0x500 then
    if mayReadLevel fn (mirrorLevel o) then s.levelWord (mirrorLevel o) (o % 0x100) else 0
  else if 0x1000 ≤ o ∧ o < 0x2000 then
    let n := o % 0x400 / 8
    if mayReadLevel fn (mirrorLevel o) ∧ n < 64 then
      let v := ((s.lvl (mirrorLevel o)).timer n).count.toNat
      if o % 8 = 0 then v % 2 ^ 32 else v / 2 ^ 32
    else 0
  else 0

/-- What a latch of a function holds for a word of the mirror (R84). -/
def State.latched (s : State) (fn o : Nat) : Option (BitVec 32) :=
  let f := s.fn fn
  let held (x : BitVec 33) : Option (BitVec 32) := if x.getLsbD 32 then some (x.setWidth 32) else none
  if o = 4 then f.wflags
  else if o = 0xC then f.wcycleHi
  else if 0x100 ≤ o ∧ o < 0x500 ∧ o % 0x100 = 0x0C ∧ mayReadLevel fn (mirrorLevel o) then
    held (tabGet 0 f.lstepHi (mirrorLevel o).val)
  else if 0x1000 ≤ o ∧ o < 0x2000 ∧ o % 8 = 4 ∧ o % 0x400 < 0x200 ∧ mayReadLevel fn (mirrorLevel o) then
    held (tabGet 0 f.timerHi ((mirrorLevel o).val * 64 + o % 0x400 / 8))
  else none

/-- A word of the mirror as a 32-bit read gives it: from a latch, where one holds. -/
def State.mirrorWord (s : State) (fn o : Nat) : Nat :=
  match s.latched fn o with
  | some v => v.toNat
  | none => s.mirrorLive fn o

/-- What a 32-bit read of the mirror leaves behind (R84): a low word latches its partners, and a read of a latched word releases
it. -/
def State.mirrorTouch (s : State) (fn o : Nat) : State :=
  let l := mirrorLevel o
  s.updFn fn fun f =>
    if o = 4 then { f with wflags := none }
    else if o = 8 then { f with wcycleHi := some ((s.cad.number >>> 32).setWidth 32), wflags := some s.wflagsReg }
    else if o = 0xC then { f with wcycleHi := none }
    else if 0x100 ≤ o ∧ o < 0x500 ∧ mayReadLevel fn l then
      if o % 0x100 = 8 then { f with lstepHi := tabPut 0 f.lstepHi l.val (1#1 ++ ((s.lvl l).lstep >>> 32).setWidth 32) }
      else if o % 0x100 = 0xC then { f with lstepHi := tabPut 0 f.lstepHi l.val 0 }
      else f
    else if 0x1000 ≤ o ∧ o < 0x2000 ∧ o % 0x400 < 0x200 ∧ mayReadLevel fn l then
      let n := o % 0x400 / 8
      { f with timerHi := tabPut 0 f.timerHi (l.val * 64 + n)
                 (if o % 8 = 0 then 1#1 ++ (((s.lvl l).timer n).count >>> 32).setWidth 32 else 0) }
    else f

/-! ### Identity and negotiation (R475, R476) -/

/-- IDPART. -/
def idPart : Nat := 0x4816 + Config.topBin * 2 ^ 16 + 0xB0 * 2 ^ 24

/-- IDMEM. -/
def State.idMem (s : State) : Nat := s.mem.density + s.mem.rate * 2 ^ 8 + s.mem.quads.toNat * 2 ^ 16

/-- IDFW. -/
def State.idFw (s : State) : Nat := s.boot.fw.code + 3 * 2 ^ 8

/-- IDFUNC. -/
def State.idFunc (s : State) (fn : Nat) : Nat :=
  fn + (if fn = 0 ∨ (s.lvl (Fin.ofNat 4 (fn - 1))).present = true then 8 else 0)

/-- A word of the identity block. -/
def State.identWord (s : State) (fn o : Nat) : Nat :=
  let f := s.fn fn
  match o with
  | 0x00 => idPart
  | 0x04 => s.idMem
  | 0x08 => s.idFw
  | 0x0C => s.idFunc fn
  | 0x10 => f.version
  | 0x14 => f.features.toNat % 2 ^ 32
  | 0x18 => f.features.toNat / 2 ^ 32
  | 0x1C => f.filtered.toNat
  | 0x20 => f.noticeLost.toNat
  | 0x24 => f.scanMax.toNat
  | _ => 0

/-! ### The Assay mirror (R525) -/

/-- A word of the mirror at an offset from 0x20_0000: ASY_STATUS, then the blocks of the channels a function may see. -/
def State.assayMirror (s : State) (fn o : Nat) : Nat :=
  let c := (o - 0x100) / 0x80
  if o = 0 then s.asy.status
  else if 0x100 ≤ o ∧ c < 5 ∧ (fn = 0 ∨ fn = c + 1) then listLe (s.asy.mirror.getD c []) (o % 0x80) 4
  else 0

/-! ### BAR0 (R473) -/

/-- The 32-bit word at a 4-byte-aligned offset of BAR0, as a function reads it. -/
def State.barWord (s : State) (fn o : Nat) : Nat :=
  if o < 0x8000 then s.identWord fn o
  else if 0x8000 ≤ o ∧ o < 0x8400 ∧ o % 16 = 12 then (if (s.fn fn).msixMask.getLsbD ((o - 0x8000) / 16) then 1 else 0)
  else if o = 0x9000 then (s.fn fn).msixPending.toNat % 2 ^ 32
  else if o = 0x9004 then (s.fn fn).msixPending.toNat / 2 ^ 32
  else if 0x100000 ≤ o ∧ o < 0x110000 then s.mirrorWord fn (o - 0x100000)
  else if 0x200000 ≤ o ∧ o < 0x201000 then s.assayMirror fn (o - 0x200000)
  else if 0x800000 ≤ o ∧ o < 0xC00000 then
    (if fn ≠ 0 then 0 else if o = 0xBFF008 then s.boot.reason else if o = 0xBFF00C then s.boot.rollback else 0)
  else s.bar fn o 4

/-- The word at a 4-byte-aligned offset at this instant, past the latches of R84. -/
def State.barLive (s : State) (fn o : Nat) : Nat :=
  if 0x100000 ≤ o ∧ o < 0x110000 then s.mirrorLive fn (o - 0x100000) else s.barWord fn o

/-- A 64-bit read returns both words from one instant (R474). -/
def State.barWord64 (s : State) (fn o : Nat) : Nat := s.barLive fn o + s.barLive fn (o + 4) * 2 ^ 32

/-- The bytes that a read of any size at any offset addresses, past every latch (R474); none while the Adit does not answer
(R558). -/
def State.barBytesAt (s : State) (fn o n : Nat) : Option (List Byte) :=
  let byte (a : Nat) : Byte := BitVec.ofNat 8 (s.barLive fn (a / 4 * 4) >>> (a % 4 * 8))
  if s.aditUp then some ((List.range n).map fun i => byte (o + i)) else none

/-- A 32-bit read of BAR0 by a function: the word is returned, with the side effect of R84; nothing while the Adit does not answer
(R558). -/
def State.barRead (s : State) (fn o : Nat) : State :=
  if s.aditUp = false then s else
  let v := BitVec.ofNat 32 (s.barWord fn o)
  let s := if 0x100000 ≤ o ∧ o < 0x110000 then s.mirrorTouch fn (o - 0x100000) else s
  s.updFn fn fun f => { f with rdata := v }

/-- WCYCLE_LO_READ latches WCYCLE_HI and WFLAGS (R84). -/
def execWcycleLoRead (fn : Fin 5) (s : State) : Result := .next (s.barRead fn.val 0x100008)

/-- LSTEP_LO_READ latches LSTEP_HI; a function that may not read the Level reads zeros (R83, R84). -/
def execLstepLoRead (fn : Fin 5) (l : Fin 4) (s : State) : Result := .next (s.barRead fn.val (0x100108 + 0x100 * l.val))

/-- TIMER_LO_READ latches the timer's high word; a function that may not read the Level reads zeros (R83, R84). -/
def execTimerLoRead (fn : Fin 5) (l : Fin 4) (n : Fin 64) (s : State) : Result :=
  .next (s.barRead fn.val (0x101000 + 0x400 * l.val + 8 * n.val))

end Sys2Proof.Machine
end

