-- ==== Sys2Proof/Machine/Fp.lean ====
section
/-!
DEFINITION. Machine/Fp.lean: element encodings (R137, R138), exact values, rounding (R149 to R152), and binary32
arithmetic (R211).
-/
namespace Sys2Proof.Machine

/-- The element encodings of R137. -/
inductive Encoding where
  | bf16
  | f32
  | e4m3
  | e5m2
  | e3m2
  | e2m3
  | e2m1
  deriving DecidableEq, Repr

/-- Mantissa bits. -/
def encMant : Encoding → Nat
  | .bf16 => 7 | .f32 => 23 | .e4m3 => 3 | .e5m2 => 2 | .e3m2 => 2 | .e2m3 => 3 | .e2m1 => 1

/-- Exponent bits. -/
def encExp : Encoding → Nat
  | .bf16 => 8 | .f32 => 8 | .e4m3 => 4 | .e5m2 => 5 | .e3m2 => 3 | .e2m3 => 2 | .e2m1 => 2

/-- Exponent bias. -/
def encBias : Encoding → Nat
  | .bf16 => 127 | .f32 => 127 | .e4m3 => 7 | .e5m2 => 15 | .e3m2 => 3 | .e2m3 => 1 | .e2m1 => 1

/-- Element width in bits. -/
def encWidth (e : Encoding) : Nat := 1 + encExp e + encMant e

/-- The encoding that FORMAT of a pass or MX_ENC of a stream names (R116). -/
def formatEncoding : Nat → Option Encoding
  | 0 => some .bf16
  | 1 => some .e4m3
  | 2 => some .e5m2
  | 3 => some .e3m2
  | 4 => some .e2m3
  | 5 => some .e2m1
  | _ => none

/-- An exact value: NaN, a signed infinity, or (-1)^neg * mag * 2^exp. -/
inductive Num where
  | nan
  | inf (neg : Bool)
  | fin (neg : Bool) (mag : Nat) (exp : Int)
  deriving DecidableEq, Repr

/-- The magnitude code of the first code above every finite one: infinity, or the NaN of E4M3, or one past the end. -/
def encTop : Encoding → Nat
  | .bf16 => 0x7F80 | .f32 => 0x7F800000 | .e4m3 => 0x7F | .e5m2 => 0x7C | .e3m2 => 0x20 | .e2m3 => 0x20 | .e2m1 => 0x8

/-- The largest finite magnitude code (R137). -/
def encMax (e : Encoding) : Nat := encTop e - 1

/-- The sign bit of a code. -/
def codeNeg (e : Encoding) (c : Nat) : Bool := bitAt c (encWidth e - 1)

/-- The code without its sign. -/
def codeMag (e : Encoding) (c : Nat) : Nat := c % 2 ^ (encWidth e - 1)

/-- A code whose exponent field is zero and whose mantissa is not (R137). -/
def isSubnormal (e : Encoding) (c : Nat) : Bool := decide (0 < codeMag e c) && decide (codeMag e c < 2 ^ encMant e)

/-- The exact value a code stands for (R137, R138). -/
def decodeCode (e : Encoding) (c : Nat) : Num :=
  let neg := codeNeg e c
  let m := codeMag e c
  let isInf := match e with
    | .bf16 => m == 0x7F80
    | .f32 => m == 0x7F800000
    | .e5m2 => m == 0x7C
    | _ => false
  if m < encTop e then
    let ef := m / 2 ^ encMant e
    let mant := m % 2 ^ encMant e
    if ef = 0 then .fin neg mant (1 - (encBias e : Int) - (encMant e : Int))
    else .fin neg (mant + 2 ^ encMant e) ((ef : Int) - (encBias e : Int) - (encMant e : Int))
  else if isInf then .inf neg
  else .nan

/-- Canonical NaN of bfloat16 and of binary32 (R138). -/
def nanBf16 : Nat := 0x7FC0

/-- Canonical NaN of binary32 (R138). -/
def nanF32 : Nat := 0x7FC00000

/-- The exponent floor(log2 v) of a non-zero exact magnitude. -/
def magExp (mag : Nat) (exp : Int) : Int := (Nat.log2 mag : Int) + exp

/-- The unit in the last place of an encoding at a value of exponent `E`, as a power of two. -/
def ulpExp (e : Encoding) (E : Int) : Int := max E (1 - (encBias e : Int)) - (encMant e : Int)

/-- The code of the truncated magnitude, and what was cut off as (remainder, divisor). `mag` is not zero. -/
def truncCode (e : Encoding) (mag : Nat) (exp : Int) : Nat × Nat × Nat :=
  let E := magExp mag exp
  let q := ulpExp e E
  let sig := if q ≤ exp then mag * 2 ^ (exp - q).toNat else mag / 2 ^ (q - exp).toNat
  let rem := if q ≤ exp then 0 else mag % 2 ^ (q - exp).toNat
  let div := if q ≤ exp then 1 else 2 ^ (q - exp).toNat
  let base := (max E (1 - (encBias e : Int)) + (encBias e : Int) - 1).toNat * 2 ^ encMant e
  (base + sig, rem, div)

/-- Round-to-nearest-even of an exact magnitude into an encoding, as a magnitude code that may be past the largest finite
one (R149). `sticky` says that the value lies strictly above `mag * 2^exp`, below the next unit of `mag`. -/
def roundNE (e : Encoding) (mag : Nat) (exp : Int) (sticky : Bool) : Nat :=
  if mag = 0 then 0
  else
    let (c, rem, div) := truncCode e mag exp
    if 2 * rem > div ∨ (2 * rem = div ∧ (sticky = true ∨ c % 2 = 1)) then c + 1 else c

/-- Set the sign of a magnitude code. -/
def signed (e : Encoding) (neg : Bool) (c : Nat) : Nat := if neg then c + 2 ^ (encWidth e - 1) else c

/-- Options of a conversion (R154). -/
structure CvtOpt where
  flush : Bool
  stochastic : Bool
  saturate : Bool
  deriving DecidableEq, Repr

/-- The result of one conversion and what it counts (R148, R150). -/
structure Conv where
  code : Nat
  overflow : Bool
  saturation : Bool
  flushOut : Bool
  deriving DecidableEq, Repr

/-- An exact magnitude lies below the smallest normal one of an encoding (R147). -/
def belowNormal (e : Encoding) (mag : Nat) (exp : Int) : Bool :=
  decide (mag ≠ 0) && decide (magExp mag exp < 1 - (encBias e : Int))

/-- The stochastic rounding of R152 into bfloat16, with random bits `r`. -/
def roundStochastic (mag : Nat) (exp : Int) (r : Nat) : Nat :=
  if mag = 0 then 0
  else
    let (c, rem, div) := truncCode .bf16 mag exp
    if 65536 ≤ rem * 65536 / div + r then c + 1 else c

/-- Convert an exact value into bfloat16 or binary32 (R147, R149 to R152, R161). -/
def convertNum (e : Encoding) (o : CvtOpt) (r : Nat) (v : Num) : Conv :=
  let canon := if e = .bf16 then nanBf16 else nanF32
  match v with
  | .nan => ⟨canon, false, false, false⟩
  | .inf neg => ⟨signed e neg (encTop e), false, false, false⟩
  | .fin neg mag exp =>
    if o.flush && belowNormal e mag exp then ⟨signed e neg 0, false, false, true⟩
    else
      let c := if o.stochastic && decide (e = .bf16) then roundStochastic mag exp r else roundNE e mag exp false
      if encTop e ≤ c then
        if o.saturate then ⟨signed e neg (encMax e), false, true, false⟩
        else ⟨signed e neg (encTop e), true, false, false⟩
      else ⟨signed e neg c, false, false, false⟩

/-- Round an exact value once to binary32, nearest-even, preserving subnormals; the result as a code. -/
def roundF32 (neg : Bool) (mag : Nat) (exp : Int) (sticky : Bool) : BitVec 32 :=
  let c := roundNE .f32 mag exp sticky
  BitVec.ofNat 32 (signed .f32 neg (min c 0x7F800000))

/-- The exact value of a binary32 code. -/
def f32Num (x : BitVec 32) : Num := decodeCode .f32 x.toNat

/-- The exact value of a bfloat16 code. -/
def bf16Num (x : BitVec 16) : Num := decodeCode .bf16 x.toNat

/-- Widen a bfloat16 code to binary32 exactly; a NaN gives canonical NaN (R154, CVT_BF16_F32). -/
def widenBf16 (x : BitVec 16) : BitVec 32 :=
  match bf16Num x with
  | .nan => 0x7FC00000#32
  | _ => BitVec.ofNat 32 (x.toNat * 65536)

/-- Canonical NaN as a register value. -/
def qnan : BitVec 32 := 0x7FC00000#32

/-- A signed zero. -/
def f32Zero (neg : Bool) : BitVec 32 := if neg then 0x80000000#32 else 0#32

/-- A signed infinity. -/
def f32Inf (neg : Bool) : BitVec 32 := if neg then 0xFF800000#32 else 0x7F800000#32

/-- A finite code. -/
def isFinite32 (x : BitVec 32) : Bool := decide (codeMag .f32 x.toNat < 0x7F800000)

/-- A NaN code. -/
def isNan32 (x : BitVec 32) : Bool := decide (0x7F800000 < codeMag .f32 x.toNat)

/-- Signed integer of an exact value in units of 2^q, for q at or below its exponent. -/
def scaledInt (neg : Bool) (mag : Nat) (exp q : Int) : Int :=
  let m : Int := (mag * 2 ^ (exp - q).toNat : Nat)
  if neg then -m else m

/-- The exact sum of two finite values rounded once; `zneg` is the sign of an exact zero. -/
def roundSum (n1 : Bool) (m1 : Nat) (e1 : Int) (n2 : Bool) (m2 : Nat) (e2 : Int) (zneg : Bool) : BitVec 32 :=
  let q := min e1 e2
  let s := scaledInt n1 m1 e1 q + scaledInt n2 m2 e2 q
  if s = 0 then f32Zero zneg else roundF32 (decide (s < 0)) s.natAbs q false

/-- Addition of exact values with one rounding (IEEE 754, R211). -/
def addNum (x y : Num) : BitVec 32 :=
  match x, y with
  | .nan, _ => qnan
  | _, .nan => qnan
  | .inf a, .inf b => if a = b then f32Inf a else qnan
  | .inf a, _ => f32Inf a
  | _, .inf b => f32Inf b
  | .fin n1 m1 e1, .fin n2 m2 e2 => roundSum n1 m1 e1 n2 m2 e2 (n1 && n2 && decide (m1 = 0) && decide (m2 = 0))

/-- The exact product of two exact values; zero times infinity is NaN. -/
def mulNum (x y : Num) : Num :=
  match x, y with
  | .nan, _ => .nan
  | _, .nan => .nan
  | .inf a, .inf b => .inf (a != b)
  | .inf a, .fin b m _ => if m = 0 then .nan else .inf (a != b)
  | .fin a m _, .inf b => if m = 0 then .nan else .inf (a != b)
  | .fin a m1 e1, .fin b m2 e2 => .fin (a != b) (m1 * m2) (e1 + e2)

/-- An exact value rounded once to binary32. -/
def numToF32 : Num → BitVec 32
  | .nan => qnan
  | .inf n => f32Inf n
  | .fin n m e => if m = 0 then f32Zero n else roundF32 n m e false

/-- Flip the sign of a binary32 code; a NaN input gives canonical NaN (R139). -/
def fneg (x : BitVec 32) : BitVec 32 := if isNan32 x then qnan else x ^^^ 0x80000000#32

/-- Absolute value; a NaN input gives canonical NaN (R139). -/
def fabs (x : BitVec 32) : BitVec 32 := if isNan32 x then qnan else x &&& 0x7FFFFFFF#32

/-- binary32 addition. -/
def fadd (x y : BitVec 32) : BitVec 32 := addNum (f32Num x) (f32Num y)

/-- binary32 subtraction. -/
def fsub (x y : BitVec 32) : BitVec 32 :=
  match f32Num y with
  | .nan => qnan
  | .inf n => addNum (f32Num x) (.inf (!n))
  | .fin n m e => addNum (f32Num x) (.fin (!n) m e)

/-- binary32 multiplication. -/
def fmul (x y : BitVec 32) : BitVec 32 := numToF32 (mulNum (f32Num x) (f32Num y))

/-- Fused multiply-add with one rounding: x * y + z. -/
def ffma (x y z : BitVec 32) : BitVec 32 := addNum (mulNum (f32Num x) (f32Num y)) (f32Num z)

/-- Correctly rounded quotient of two finite magnitudes, divisor not zero. -/
def divMag (neg : Bool) (m1 : Nat) (e1 : Int) (m2 : Nat) (e2 : Int) : BitVec 32 :=
  let k := Nat.log2 m2 + 30
  roundF32 neg (m1 * 2 ^ k / m2) (e1 - e2 - (k : Int)) (decide (m1 * 2 ^ k % m2 ≠ 0))

/-- binary32 division, correctly rounded. -/
def fdiv (x y : BitVec 32) : BitVec 32 :=
  match f32Num x, f32Num y with
  | .nan, _ => qnan
  | _, .nan => qnan
  | .inf _, .inf _ => qnan
  | .inf a, .fin b _ _ => f32Inf (a != b)
  | .fin a _ _, .inf b => f32Zero (a != b)
  | .fin a m1 e1, .fin b m2 e2 =>
    if m2 = 0 then (if m1 = 0 then qnan else f32Inf (a != b))
    else if m1 = 0 then f32Zero (a != b)
    else divMag (a != b) m1 e1 m2 e2

/-- binary32 reciprocal, correctly rounded. -/
def frcp (x : BitVec 32) : BitVec 32 := fdiv 0x3F800000#32 x

/-- binary32 square root, correctly rounded. -/
def fsqrt (x : BitVec 32) : BitVec 32 :=
  match f32Num x with
  | .nan => qnan
  | .inf n => if n then qnan else f32Inf false
  | .fin n m e =>
    if m = 0 then f32Zero n
    else if n then qnan
    else
      -- scale to an even exponent with at least 60 bits of radicand
      let k : Nat := 64 + (e % 2).toNat
      let r := isqrt (m * 2 ^ k)
      roundF32 false r ((e - (k : Int)) / 2) (decide (r * r ≠ m * 2 ^ k))

/-- binary32 reciprocal square root, correctly rounded. -/
def frsqrt (x : BitVec 32) : BitVec 32 :=
  match f32Num x with
  | .nan => qnan
  | .inf n => if n then qnan else f32Zero false
  | .fin n m e =>
    if m = 0 then f32Inf n
    else if n then qnan
    else
      -- 1 / sqrt (m * 2^e) with e made even
      let m' := if e % 2 = 0 then m else 2 * m
      let e' := if e % 2 = 0 then e else e - 1
      let r := isqrt (2 ^ 160 / m')
      roundF32 false r (-(e' / 2) - 80) (decide (r * r * m' ≠ 2 ^ 160))

/-- Fixed-point precision, in bits, at which VEXP2 forms 2^f. -/
def exp2Prec : Nat := 320

/-- The product of 2^(2^-i) over the set bits of a fraction `f` of `k` bits, most significant first; `c` is 2^(2^-i) and
`acc` the product so far, both in fixed point. -/
def exp2Frac : Nat → Nat → Nat → Nat → Nat
  | 0, _, _, acc => acc
  | k + 1, f, c, acc =>
    let c' := isqrt (c * 2 ^ exp2Prec)
    exp2Frac k f c' (if bitAt f k then acc * c' / 2 ^ exp2Prec else acc)

/-- binary32 base-2 exponential, correctly rounded. -/
def fexp2 (x : BitVec 32) : BitVec 32 :=
  match f32Num x with
  | .nan => qnan
  | .inf n => if n then f32Zero false else f32Inf false
  | .fin neg m e =>
    if m = 0 then 0x3F800000#32
    else if 8 ≤ magExp m e then (if neg then f32Zero false else f32Inf false)
    else
      let k : Nat := (-e).toNat
      let s := scaledInt neg m e (-(k : Int))
      let n := s / (2 ^ k : Nat)
      let f := (s % (2 ^ k : Nat)).toNat
      let p := exp2Frac k f (2 * 2 ^ exp2Prec) (2 ^ exp2Prec)
      roundF32 false p (n - (exp2Prec : Int)) (decide (f ≠ 0))

/-- Fixed-point precision, in bits, at which VLOG2 squares. -/
def log2Prec : Nat := 512

/-- Binary digits of the base-2 logarithm of `y` in [1, 2), in fixed point, by repeated squaring. -/
def log2Frac : Nat → Nat → Nat → Nat
  | 0, _, acc => acc
  | k + 1, y, acc =>
    let y2 := y * y / 2 ^ log2Prec
    if 2 * 2 ^ log2Prec ≤ y2 then log2Frac k (y2 / 2) (2 * acc + 1) else log2Frac k y2 (2 * acc)

/-- Binary digits of the logarithm that VLOG2 forms. -/
def log2Digits : Nat := 160

/-- binary32 base-2 logarithm, correctly rounded. -/
def flog2 (x : BitVec 32) : BitVec 32 :=
  match f32Num x with
  | .nan => qnan
  | .inf n => if n then qnan else f32Inf false
  | .fin neg m e =>
    if m = 0 then f32Inf true
    else if neg then qnan
    else
      let E := magExp m e
      let frac0 := m * 2 ^ log2Prec / 2 ^ Nat.log2 m
      if frac0 = 2 ^ log2Prec then
        (if E = 0 then 0#32 else roundF32 (decide (E < 0)) E.natAbs 0 false)
      else
        let fr := log2Frac log2Digits frac0 0
        let whole : Int := E * (2 ^ log2Digits : Nat) + (fr : Int)
        if 0 ≤ whole then roundF32 false whole.toNat (-(log2Digits : Int)) true
        else roundF32 true (whole.natAbs - 1) (-(log2Digits : Int)) true

/-- The place of a code in the order of R184: -Inf < negative < -0 < +0 < positive < +Inf. -/
def orderKey (e : Encoding) (c : Nat) : Int :=
  if codeNeg e c then -(codeMag e c : Int) - 1 else (codeMag e c : Int)

/-- Maximum of R184 of two (value, index) candidates of binary32. -/
def maxCand (x y : BitVec 32 × Nat) : BitVec 32 × Nat :=
  match isNan32 x.1, isNan32 y.1 with
  | true, true => (qnan, min x.2 y.2)
  | true, false => y
  | false, true => x
  | false, false =>
    let kx := orderKey .f32 x.1.toNat
    let ky := orderKey .f32 y.1.toNat
    if ky < kx then x else if kx < ky then y else (if x.2 ≤ y.2 then x else y)

/-- The maximum of a list of candidates, the first one apart: a computed value, so that a NaN is canonical (R139, R184). -/
def maxOf (x : BitVec 32 × Nat) (xs : List (BitVec 32 × Nat)) : BitVec 32 :=
  let w := (xs.foldl maxCand x).1
  if isNan32 w then qnan else w

/-- Minimum of R184 of two (value, index) candidates of binary32. -/
def minCand (x y : BitVec 32 × Nat) : BitVec 32 × Nat :=
  match isNan32 x.1, isNan32 y.1 with
  | true, true => (qnan, min x.2 y.2)
  | true, false => y
  | false, true => x
  | false, false =>
    let kx := orderKey .f32 x.1.toNat
    let ky := orderKey .f32 y.1.toNat
    if kx < ky then x else if ky < kx then y else (if x.2 ≤ y.2 then x else y)

/-- A candidate ranks strictly before another in the maximum order of R184. -/
def candBefore (x y : BitVec 32 × Nat) : Bool :=
  match isNan32 x.1, isNan32 y.1 with
  | true, true => decide (x.2 < y.2)
  | true, false => false
  | false, true => true
  | false, false =>
    let kx := orderKey .f32 x.1.toNat
    let ky := orderKey .f32 y.1.toNat
    decide (ky < kx) || (decide (kx = ky) && decide (x.2 < y.2))

/-- A value is below another in the order of R184, in which -0 is below +0; false where either is NaN (R183). Every test of a
value against zero or one uses it too (DEDUCED, notes/assumptions/103.md). -/
def ordLt (x y : BitVec 32) : Bool := !isNan32 x && !isNan32 y && decide (orderKey .f32 x.toNat < orderKey .f32 y.toNat)

/-- Two values are equal in the order of R184: the same code, and no NaN. -/
def ordEq (x y : BitVec 32) : Bool := !isNan32 x && decide (x = y)

/-- A value is below another or equal to it in the order of R184. -/
def ordLe (x y : BitVec 32) : Bool := ordLt x y || ordEq x y

/-- mix of R151. -/
def mix64 (z : BitVec 64) : BitVec 64 :=
  let z := (z ^^^ (z >>> 30)) * 0xBF58476D1CE4E5B9#64
  let z := (z ^^^ (z >>> 27)) * 0x94D049BB133111EB#64
  z ^^^ (z >>> 31)

/-- The sixteen random bits of an element (R151). -/
def randomBits (seed : BitVec 64) (tensor row col : Nat) (step : BitVec 64) : Nat :=
  let word0 : BitVec 64 :=
    (BitVec.ofNat 64 (tensor % 2 ^ 16) <<< 42) ||| (BitVec.ofNat 64 (row % 2 ^ 22) <<< 20) ||| BitVec.ofNat 64 (col % 2 ^ 20)
  let h := mix64 (seed ^^^ (word0 * 0x9E3779B97F4A7C15#64))
  let h := mix64 (h ^^^ (step * 0xD1B54A32D192ED03#64))
  (h >>> 48).toNat

end Sys2Proof.Machine
end

