-- ==== Sys2Proof/Machine/A96.lean ====
section
/-!
DEFINITION. Machine/A96.lean: packed element rows (R143), the A96 word (R162 to R164), products and groups (R166 to R168),
accumulation (R169), ACC_COMBINE (R173), conversion (R176, R177), and what an element adds to its contribution (R192 to
R197).
-/
namespace Sys2Proof.Machine

/-! ### Element rows (R143) -/

/-- Cut a list into runs of `n`; `fuel` bounds the number of runs. -/
def runsOf {α : Type} (n : Nat) : Nat → List α → List (List α)
  | 0, _ => []
  | fuel + 1, xs => if xs.isEmpty then [] else xs.take n :: runsOf n fuel (xs.drop n)

/-- Split a number into `n` fields of `w` bits, lowest first. -/
def fieldsOf (w : Nat) : Nat → Nat → List Nat
  | 0, _ => []
  | n + 1, v => v % 2 ^ w :: fieldsOf w n (v / 2 ^ w)

/-- Pack fields of `w` bits, lowest first. -/
def joinFields (w : Nat) : List Nat → Nat
  | [] => 0
  | x :: xs => x % 2 ^ w + 2 ^ w * joinFields w xs

/-- Bytes and elements of the smallest whole packing unit of an encoding. -/
def packUnit (e : Encoding) : Nat × Nat :=
  match encWidth e with
  | 6 => (3, 4)
  | 4 => (1, 2)
  | 8 => (1, 1)
  | 16 => (2, 1)
  | _ => (4, 1)

/-- Bytes of `n` packed elements. -/
def rowBytes (e : Encoding) (n : Nat) : Nat := ceilDiv n (packUnit e).2 * (packUnit e).1

/-- The codes of packed elements. -/
def unpackCodes (e : Encoding) (bs : List Byte) : List Nat :=
  (runsOf (packUnit e).1 bs.length bs).flatMap fun u => fieldsOf (encWidth e) (packUnit e).2 (leNat u)

/-- Pack codes into bytes; the last unit is filled with zero codes. -/
def packCodes (e : Encoding) (cs : List Nat) : List Byte :=
  (runsOf (packUnit e).2 cs.length cs).flatMap fun u => leBytes (packUnit e).1 (joinFields (encWidth e) u)

/-- An operand of a product: its exact value, scale included, and whether it was flushed (R140, R147). -/
structure Opnd where
  num : Num
  flushed : Bool
  deriving DecidableEq, Repr

/-- Apply a power of two to an exact value. -/
def Num.scale (v : Num) (x : Int) : Num :=
  match v with
  | .fin n m e => .fin n m (e + x)
  | v => v

/-- One element under the scale of its block, if it has one; a scale of 0xFF makes it NaN and flushes nothing (R140, R161). -/
def opnd (e : Encoding) (flush : Bool) (scale : Option Nat) (code : Nat) : Opnd :=
  if scale = some 0xFF then ⟨.nan, false⟩
  else if flush && isSubnormal e code then ⟨.fin (codeNeg e code) 0 0, true⟩
  else ⟨(decodeCode e code).scale (match scale with
    | some x => (x : Int) - 127
    | none => 0), false⟩

/-- A row of elements with one scale for every `block` of them (none: no scales). -/
def opndRow (e : Encoding) (flush : Bool) (block : Nat) (codes : List Nat) (scales : Option (List Byte)) : List Opnd :=
  match scales with
  | none => codes.map fun c => opnd e flush none c
  | some ss => ((runsOf block codes.length codes).zip ss).flatMap fun p => p.1.map fun c => opnd e flush (some p.2.toNat) c

/-! ### The A96 word (R162, R163) -/

/-- An A96 word: SIG, the anchor code and the four flags. -/
structure A96 where
  sig : Int
  anchor : Nat
  nan : Bool
  pinf : Bool
  ninf : Bool
  loss : Bool
  deriving DecidableEq, Repr, Inhabited

/-- The zero word (R164). -/
def A96.zero : A96 := ⟨0, 0, false, false, false, false⟩

/-- One bit. -/
def bitNat (b : Bool) : Nat := if b then 1 else 0

/-- The 96 bits of a word; reserved bits are zero (R162). -/
def A96.bits (x : A96) : Nat :=
  (x.sig % (2 ^ 80 : Nat)).toNat + x.anchor % 1024 * 2 ^ 80 + bitNat x.nan * 2 ^ 90 + bitNat x.pinf * 2 ^ 91 + bitNat x.ninf * 2 ^ 92 +
    bitNat x.loss * 2 ^ 93

/-- The word in some bits; reserved bits are ignored (R162, R163). -/
def A96.ofBits (v : Nat) : A96 :=
  let s : Nat := v % 2 ^ 80
  { sig := if s < 2 ^ 79 then (s : Int) else (s : Int) - (2 ^ 80 : Nat), anchor := bitField v 80 10, nan := bitAt v 90, pinf := bitAt v 91,
    ninf := bitAt v 92, loss := bitAt v 93 }

/-- The unbiased anchor. -/
def A96.anchorExp (x : A96) : Int := (x.anchor : Int) - 511

/-- Shift toward zero, and whether a non-zero bit was dropped. -/
def shiftToZero (s : Int) (n : Nat) : Int × Bool := (s.tdiv (2 ^ n), decide (s.tmod (2 ^ n) ≠ 0))

/-! ### Products and groups (R166 to R168) -/

/-- No counts. -/
def ProdCounts.zero : ProdCounts := ⟨0, 0, 0, 0⟩

/-- Sum of counts. -/
def ProdCounts.add (x y : ProdCounts) : ProdCounts :=
  ⟨x.nanInput + y.nanInput, x.zeroInf + y.zeroInf, x.trunc + y.trunc, x.flushIn + y.flushIn⟩

/-- A group while its products are classified: flags, counts, and the finite non-zero products. -/
structure Group where
  nan : Bool
  pinf : Bool
  ninf : Bool
  counts : ProdCounts
  terms : List (Bool × Nat × Int)
  deriving DecidableEq, Repr

/-- An empty group. -/
def Group.empty : Group := ⟨false, false, false, .zero, []⟩

/-- Classify one product (R166). A flushed input counts once for each product that it enters (R148), so that a dense pass counts it also
where the other operand is zero, as a compacted one, which has no such product, does not (R226; DESIGN CHOICE,
notes/assumptions/108.md). -/
def Group.product (g : Group) (p : Opnd × Opnd) : Group :=
  let fl := bitNat p.1.flushed + bitNat p.2.flushed
  let g := { g with counts := { g.counts with flushIn := g.counts.flushIn + fl } }
  let zeroInf := { g with nan := true, counts := { g.counts with zeroInf := g.counts.zeroInf + 1 } }
  let inf (neg : Bool) : Group := if neg then { g with ninf := true } else { g with pinf := true }
  match p.1.num, p.2.num with
  | .nan, _ => { g with nan := true, counts := { g.counts with nanInput := g.counts.nanInput + 1 } }
  | _, .nan => { g with nan := true, counts := { g.counts with nanInput := g.counts.nanInput + 1 } }
  | .inf a, .inf b => inf (a != b)
  | .inf a, .fin b m _ => if m = 0 then zeroInf else inf (a != b)
  | .fin a m _, .inf b => if m = 0 then zeroInf else inf (a != b)
  | .fin a m1 e1, .fin b m2 e2 => if m1 = 0 ∨ m2 = 0 then g else { g with terms := (a != b, m1 * m2, e1 + e2) :: g.terms }

/-- One product truncated toward zero at a weight 2^q: its signed integer in units of 2^q and whether a bit fell off. -/
def truncTerm (q : Int) (t : Bool × Nat × Int) : Int × Bool :=
  let n := if q ≤ t.2.2 then t.2.1 * 2 ^ (t.2.2 - q).toNat else t.2.1 / 2 ^ (q - t.2.2).toNat
  let cut := if q ≤ t.2.2 then false else decide (t.2.1 % 2 ^ (q - t.2.2).toNat ≠ 0)
  (if t.1 then -(n : Int) else (n : Int), cut)

/-- A group result: its finite sum in units of 2^unit, its flags and what its products counted (R167, R168). -/
structure GroupSum where
  sum : Int
  unit : Int
  nan : Bool
  pinf : Bool
  ninf : Bool
  loss : Bool
  counts : ProdCounts
  deriving DecidableEq, Repr

/-- Sum a group exactly in its window (R167, R168). -/
def groupSum (xs : List (Opnd × Opnd)) : GroupSum :=
  let g := xs.foldl Group.product .empty
  match g.terms with
  | [] => ⟨0, 0, g.nan, g.pinf, g.ninf, false, g.counts⟩
  | t :: ts =>
    let gmax := ts.foldl (fun m u => max m (magExp u.2.1 u.2.2)) (magExp t.2.1 t.2.2)
    let q := gmax - 63
    let cut := (t :: ts).map (truncTerm q)
    let n := cut.countP fun c => c.2
    ⟨cut.foldl (fun s c => s + c.1) 0, q, g.nan, g.pinf, g.ninf, decide (0 < n), { g.counts with trunc := g.counts.trunc + n }⟩

/-! ### Accumulation (R169) -/

/-- Add a group result to a word. -/
def A96.addGroup (x : A96) (g : GroupSum) : A96 :=
  let y := { x with nan := x.nan || g.nan, pinf := x.pinf || g.pinf, ninf := x.ninf || g.ninf, loss := x.loss || g.loss }
  if g.sum = 0 then y
  else
    let e := (Nat.log2 g.sum.natAbs : Int) + g.unit
    let a := x.anchorExp
    let (sig, l1) := if a < e then shiftToZero x.sig (e - a).toNat else (x.sig, false)
    let a' := max a e
    let q := a' - 63
    let (t, l2) := if q ≤ g.unit then (g.sum * 2 ^ (g.unit - q).toNat, false) else shiftToZero g.sum (q - g.unit).toNat
    { y with sig := sig + t, anchor := (a' + 511).toNat, loss := y.loss || l1 || l2 }

/-- One output element of a pass: groups added in order, with the counts of its products. -/
def cellResult (groups : List (List (Opnd × Opnd))) : A96 × ProdCounts :=
  groups.foldl (fun acc g =>
    let r := groupSum g
    (acc.1.addGroup r, acc.2.add r.counts)) (A96.zero, ProdCounts.zero)

/-! ### ACC_COMBINE (R173) -/

/-- Combine two words. A carry at the top anchor code has no code for its anchor: the word is then a free value (R173 says
that no reduction reaches it; notes/assumptions/2.md). -/
def A96.combine (x y : A96) : A96 :=
  let a := max x.anchor y.anchor
  let (sx, lx) := shiftToZero x.sig (a - x.anchor)
  let (sy, ly) := shiftToZero y.sig (a - y.anchor)
  let s := sx + sy
  let loss := x.loss || y.loss || lx || ly
  let r : A96 := ⟨s, a, x.nan || y.nan, x.pinf || y.pinf, x.ninf || y.ninf, loss⟩
  if s < -(2 ^ 79) ∨ 2 ^ 79 ≤ s then
    if a = 1023 then A96.ofBits (Config.anchorOverflow (BitVec.ofNat 96 x.bits) (BitVec.ofNat 96 y.bits)).toNat
    else
      let (s', l) := shiftToZero s 1
      { r with sig := s', anchor := a + 1, loss := loss || l }
  else r

/-- Shift a word whose SIG has left its range, as R173 does (R300). -/
def A96.carried (x : A96) : A96 :=
  if x.sig < -(2 ^ 79) ∨ 2 ^ 79 ≤ x.sig then
    let (s, l) := shiftToZero x.sig 1
    { x with sig := s, anchor := x.anchor + 1, loss := x.loss || l }
  else x

/-! ### Conversion (R176, R177) -/

/-- The exact value a word stands for, by the rows of R176. -/
def A96.num (x : A96) : Num :=
  if x.nan || (x.pinf && x.ninf) then .nan
  else if x.pinf then .inf false
  else if x.ninf then .inf true
  else .fin (decide (x.sig < 0)) x.sig.natAbs (x.anchorExp - 63)

/-- The conversion falls in the last two rows of R176. -/
def A96.finite (x : A96) : Bool := !x.nan && !x.pinf && !x.ninf

/-! ### What elements add to a contribution (R188, R192 to R197) -/

/-- An empty contribution to a tensor. -/
def Contribution.start (tensor : Nat) : Contribution :=
  { tensor := tensor, formats := 0, flushed := false, warmUp := false, counts := List.replicate 16 0,
    firsts := [none, none, none, none], hist := [], outputCrc := 0, step := none }

/-- Add to element `i` of a list. -/
def addAt : List Nat → Nat → Nat → List Nat
  | [], _, _ => []
  | x :: xs, 0, n => (x + n) :: xs
  | x :: xs, i + 1, n => x :: addAt xs i n

/-- Add to counter `i` (R192); a flush count sets FLUSHED (R148). -/
def Contribution.count (c : Contribution) (i n : Nat) : Contribution :=
  if n = 0 then c else { c with counts := addAt c.counts i n, flushed := c.flushed || decide (i = 7) || decide (i = 8) }

/-- Order of coordinates within one entry (R194). -/
def Coord.lt (a b : Coord) : Bool :=
  decide (a.chunk < b.chunk) || (decide (a.chunk = b.chunk) &&
    (decide (a.row < b.row) || (decide (a.row = b.row) && decide (a.col < b.col))))

/-- Note an occurrence of case `j` of R194. -/
def Contribution.first (c : Contribution) (j : Nat) (x : Coord) : Contribution :=
  { c with firsts := c.firsts.modify j fun o => match o with
    | none => some x
    | some y => if x.lt y then some x else some y }

/-- The histogram bin of a value and its encoding (R196); `sub` says that its own encoding is subnormal. -/
def histBin (v : Num) (sub : Bool) : Nat :=
  match v with
  | .nan => 259
  | .inf _ => 258
  | .fin _ m e => if m = 0 then 256 else if sub then 257 else (min 255 (max 0 (magExp m e + 128))).toNat

/-- One element written: its bin, ELEMENTS and its term of OUTPUT_CRC (R196, R197). DESIGN CHOICE (notes/assumptions/107.md): the spec
gives no modulus for coordinates past 22 or 20 bits; the term takes the sum as it is, modulo the 32 bits of its field. -/
def Contribution.wrote (c : Contribution) (row col bits bin : Nat) : Contribution :=
  { (c.count 12 1) with
    hist := tabPut 0 c.hist bin (tabGet 0 c.hist bin + 1),
    outputCrc := c.outputCrc ^^^ BitVec.ofNat 64 (crc64 (leBytes 4 row ++ leBytes 4 col ++ leBytes 8 bits)) }

/-- FORMATS_SEEN bit of an output encoding: 0 bfloat16, 1 binary32, 2 A96, 3 MX (R190). -/
def Contribution.format (c : Contribution) (bit : Nat) : Contribution := { c with formats := c.formats ||| 2 ^ bit }

/-- What a conversion into bfloat16 or binary32 counts, and its element (R150, R177). -/
def Contribution.converted (c : Contribution) (e : Encoding) (at_ : Coord) (v : Conv) : Contribution :=
  let c := c.format (if e = .bf16 then 0 else 1)
  let c := (c.count 5 (bitNat v.overflow)).count 6 (bitNat v.saturation)
  let c := c.count 8 (bitNat v.flushOut)
  let c := if v.overflow || v.saturation then c.first 3 at_ else c
  c.wrote at_.row at_.col v.code (histBin (decodeCode e v.code) (isSubnormal e v.code))

/-- Convert an A96 word and count it (R176, R177). -/
def convertA96 (x : A96) (e : Encoding) (o : CvtOpt) (rnd : Nat) (at_ : Coord) (c : Contribution) : Nat × Contribution :=
  let v := convertNum e o rnd x.num
  let c := if x.pinf && x.ninf then (c.count 2 1).first 2 at_ else c
  let c := if x.loss && x.finite then c.count 4 1 else c
  (v.code, c.converted e at_ v)

end Sys2Proof.Machine
end

