-- ==== Sys2Proof/Machine/Vector.lean ====
section
/-!
DEFINITION. Machine/Vector.lean: vector programs and their instructions, one at a time (R202 to R214, R221).
-/
namespace Sys2Proof.Machine

/-- VEC_S0 to VEC_S15 (R62). -/
def isVecEng (e : Nat) : Bool := decide (0x10 ≤ e) && decide (e < 0x20)

/-! ### Registers (R202) -/

/-- All lanes of a vector register. -/
def VRegs.lanes (g : VRegs) (r : BitVec 5) : List (BitVec 32) := (List.range 256).map fun i => tabGet 0 g.v (r.toNat * 256 + i)

/-- One lane. -/
def VRegs.lane (g : VRegs) (r : BitVec 5) (i : Nat) : BitVec 32 := tabGet 0 g.v (r.toNat * 256 + i)

/-- A mask register; M0 reads as all ones. -/
def VRegs.mask (g : VRegs) (m : BitVec 3) : BitVec 256 := if m = 0 then BitVec.allOnes 256 else tabGet 0 g.m m.toNat

/-- Write a mask register; M0 is never written. -/
def VRegs.setMask (g : VRegs) (m : BitVec 3) (x : BitVec 256) : VRegs :=
  if m = 0 then g else { g with m := tabPut 0 g.m m.toNat x }

/-- A pointer register. -/
def VRegs.ptr (g : VRegs) (p : BitVec 4) : BitVec 64 := tabGet 0 g.p p.toNat

/-- Write a pointer register. -/
def VRegs.setPtr (g : VRegs) (p : BitVec 4) (x : BitVec 64) : VRegs := { g with p := tabPut 0 g.p p.toNat x }

/-- The enabled lanes of an instruction, ascending (R209). -/
def VRegs.enabled (g : VRegs) (f : VFields) : List Nat := (List.range 256).filter fun i => (g.mask f.mask).getLsbD i

/-- Write the listed lanes of a register. -/
def VRegs.setLanes (g : VRegs) (r : BitVec 5) (is : List Nat) (x : Nat → BitVec 32) : VRegs :=
  { g with v := is.foldl (fun t i => tabPut 0 t (r.toNat * 256 + i) (x i)) g.v }

/-! ### Fetching and going on (R208, R209) -/

/-- The fields of an instruction word. DESIGN CHOICE (notes/assumptions/11.md): the reserved bit 31 is ignored. -/
def vfieldsOf (w : Nat) : VFields :=
  { vd := BitVec.ofNat 5 (bitField w 8 5), va := BitVec.ofNat 5 (bitField w 13 5), vb := BitVec.ofNat 5 (bitField w 18 5),
    vc := BitVec.ofNat 5 (bitField w 23 5), mask := BitVec.ofNat 3 (bitField w 28 3), pa := BitVec.ofNat 4 (bitField w 32 4),
    imm := BitVec.ofNat 28 (bitField w 36 28) }

/-- The defined opcodes (R210). -/
def vopDefined (o : Nat) : Bool :=
  [(0x00, 0x07), (0x10, 0x15), (0x20, 0x25), (0x30, 0x37), (0x40, 0x42), (0x50, 0x51), (0x60, 0x63), (0x70, 0x75),
    (0x80, 0x85)].any fun r => inRange o r.1 r.2

/-- The command of the program that core `n` runs: its Level, and its running record. -/
def State.vprog (s : State) (n : Nat) : Option (Fin 4 × Running × Cmd) :=
  let k := s.core n
  if k.ctl.running then
    let l := Fin.ofNat 4 k.ctl.level
    match ((s.lvl l).eng (0x10 + n)).running with
    | r :: _ => some (l, r, ⟨l, 0x10 + n, r.ctx, r.entry, r.step⟩)
    | [] => none
  else none

/-- Change the running record of an engine's oldest command. -/
def State.updHead (s : State) (l : Fin 4) (e : Nat) (f : Running → Running) : State :=
  s.updEng l e fun st => { st with running := match st.running with
    | r :: rest => f r :: rest
    | [] => [] }

/-- Fetch the instruction word at IP; nothing is fetched past the end (R208). -/
def fetchWord (s : State) (c : Cmd) (a : Acc) (n : Nat) (ctl : Control) : Nat × Acc :=
  if ctl.length ≤ ctl.ip then (0, a)
  else
    let (bs, a) := readCore s c a n (ctl.code + 8 * ctl.ip) 8
    (leNat bs, a)

/-- The program cannot go on: it has passed its end or meets an undefined opcode (R208, R210); or, a DESIGN CHOICE
(notes/assumptions/11.md), it nests a fifth loop or ends a loop it has not begun, for which the spec gives no effect. -/
def programStuck (ctl : Control) (w : Nat) : Bool :=
  let o := w % 256
  decide (ctl.length ≤ ctl.ip) || !vopDefined o || (decide (o = 0x82) && decide (4 ≤ ctl.loops.length)) ||
    (decide (o = 0x83) && ctl.loops.isEmpty)

/-- A program that cannot go on stops there: EV_DESCRIPTOR_INVALID, and the job stops (R208). -/
def State.settle (s : State) (n : Nat) : State :=
  match s.vprog n with
  | some (l, r, c) =>
    let k := s.core n
    let (w, a) := fetchWord s c .empty n k.ctl
    if programStuck k.ctl w then
      let s := s.updEng l (0x10 + n) fun st => { st with running := st.running.drop 1 }
      let s := s.setCore n { k with ctl := .idle }
      (s.abandonRunning l (0x10 + n) { r with refused := a.refused.foldl (fun xs x => addLine x xs) r.refused }).invalidDesc c
    else s
  | none => s

/-- What an instruction does: the registers and control block after it, its accesses and its conversions. -/
structure VEffect where
  regs : VRegs
  ctl : Control
  acc : Acc
  /-- Conversions of the instruction, one contribution for its tensor. -/
  conv : Option Contribution
  /-- Free values used. -/
  used : Nat
  deriving DecidableEq, Repr

/-- Two contributions of one command to one tensor, as one. -/
def Contribution.merge (x y : Contribution) : Contribution :=
  { x with
    formats := x.formats ||| y.formats, flushed := x.flushed || y.flushed, warmUp := x.warmUp || y.warmUp,
    counts := (x.counts.zip y.counts).map fun p => p.1 + p.2,
    firsts := (x.firsts.zip y.firsts).map fun p => match p with
      | (some a, some b) => if b.lt a then some b else some a
      | (some a, none) => some a
      | (none, b) => b,
    hist := y.hist.foldl (fun h kv => tabPut 0 h kv.1 (tabGet 0 h kv.1 + kv.2)) x.hist,
    outputCrc := x.outputCrc ^^^ y.outputCrc }

/-- Add an instruction's conversions to those of the program (R213). -/
def addConv (cs : List Contribution) : Option Contribution → List Contribution
  | none => cs
  | some c => if cs.any fun x => x.tensor = c.tensor then cs.map fun x => if x.tensor = c.tensor then x.merge c else x
              else cs ++ [c]

/-- Run one instruction on core `n`, if its program has just come to exactly this one; its stores are made at once. A program
that cannot go on stops (R208). -/
def vstep (n : Fin 16) (o : Nat) (f : VFields) (s : State) (go : State → Cmd → CoreState → Acc → VEffect) : Result :=
  match s.vprog n.val with
  | none => .next s
  | some (l, _, c) =>
    let k := s.core n.val
    let (w, a) := fetchWord s c .empty n.val k.ctl
    if w % 256 = o ∧ vfieldsOf w = f ∧ programStuck k.ctl w = false then
      let x := go s c { k with ctl := { k.ctl with ip := k.ctl.ip + 1 } } a
      let s := { s.setCore n.val { k with regs := x.regs, ctl := x.ctl } with freeCtr := s.freeCtr + x.used }
      let s := s.applyWrites x.acc.writes.reverse
      let s := s.updHead l (0x10 + n.val) fun r =>
        { r with refused := x.acc.refused.foldl (fun xs y => addLine y xs) r.refused, contribs := addConv r.contribs x.conv }
      .next (((s.reportFailures c x.acc).reportRefused c x.acc).settle n.val)
    else .next (s.settle n.val)

/-- An instruction that only changes registers. -/
def vregs (n : Fin 16) (o : Nat) (f : VFields) (s : State) (go : VRegs → VRegs) : Result :=
  vstep n o f s fun _ _ k a => ⟨go k.regs, k.ctl, a, none, 0⟩

/-- A lane-wise instruction of VA, VB and VC: enabled lanes of VD are written (R209). -/
def vlanes (n : Fin 16) (o : Nat) (f : VFields) (s : State) (go : BitVec 32 → BitVec 32 → BitVec 32 → BitVec 32) : Result :=
  vregs n o f s fun g => g.setLanes f.vd (g.enabled f) fun i => go (g.lane f.va i) (g.lane f.vb i) (g.lane f.vc i)

/-! ### binary32 arithmetic (R210, R211) -/

/-- VADD. -/
def execVadd (n : Fin 16) (f : VFields) (s : State) : Result := vlanes n 0x00 f s fun a b _ => fadd a b
/-- VSUB. -/
def execVsub (n : Fin 16) (f : VFields) (s : State) : Result := vlanes n 0x01 f s fun a b _ => fsub a b
/-- VMUL. -/
def execVmul (n : Fin 16) (f : VFields) (s : State) : Result := vlanes n 0x02 f s fun a b _ => fmul a b
/-- VFMA: VA * VB + VC, one rounding. -/
def execVfma (n : Fin 16) (f : VFields) (s : State) : Result := vlanes n 0x03 f s fun a b c => ffma a b c
/-- VMIN (R184): VA is the first operand. -/
def execVmin (n : Fin 16) (f : VFields) (s : State) : Result := vlanes n 0x04 f s fun a b _ => (minCand (a, 0) (b, 1)).1
/-- VMAX (R184). -/
def execVmax (n : Fin 16) (f : VFields) (s : State) : Result := vlanes n 0x05 f s fun a b _ => (maxCand (a, 0) (b, 1)).1
/-- VABS. -/
def execVabs (n : Fin 16) (f : VFields) (s : State) : Result := vlanes n 0x06 f s fun a _ _ => fabs a
/-- VNEG. -/
def execVneg (n : Fin 16) (f : VFields) (s : State) : Result := vlanes n 0x07 f s fun a _ _ => fneg a
/-- VDIV. -/
def execVdiv (n : Fin 16) (f : VFields) (s : State) : Result := vlanes n 0x10 f s fun a b _ => fdiv a b
/-- VSQRT. -/
def execVsqrt (n : Fin 16) (f : VFields) (s : State) : Result := vlanes n 0x11 f s fun a _ _ => fsqrt a
/-- VRSQRT. -/
def execVrsqrt (n : Fin 16) (f : VFields) (s : State) : Result := vlanes n 0x12 f s fun a _ _ => frsqrt a
/-- VRCP. -/
def execVrcp (n : Fin 16) (f : VFields) (s : State) : Result := vlanes n 0x13 f s fun a _ _ => frcp a
/-- VEXP2. -/
def execVexp2 (n : Fin 16) (f : VFields) (s : State) : Result := vlanes n 0x14 f s fun a _ _ => fexp2 a
/-- VLOG2. -/
def execVlog2 (n : Fin 16) (f : VFields) (s : State) : Result := vlanes n 0x15 f s fun a _ _ => flog2 a

/-! ### Compare and select -/

/-- A mask with some lanes replaced. -/
def maskSet (m : BitVec 256) (is : List Nat) (x : Nat → Bool) : BitVec 256 :=
  is.foldl (fun m i => if x i then m ||| (1#256 <<< i) else m &&& ~~~(1#256 <<< i)) m

/-- A comparison: enabled bits of mask register VD[2:0] are written (R209). -/
def vcompare (n : Fin 16) (o : Nat) (f : VFields) (s : State) (go : BitVec 32 → BitVec 32 → Bool) : Result :=
  vregs n o f s fun g =>
    let d := f.vd.setWidth 3
    g.setMask d (maskSet (g.mask d) (g.enabled f) fun i => go (g.lane f.va i) (g.lane f.vb i))

/-- VCMP_EQ, in the order of R183, as the two below. -/
def execVcmpEq (n : Fin 16) (f : VFields) (s : State) : Result := vcompare n 0x20 f s ordEq
/-- VCMP_LT. -/
def execVcmpLt (n : Fin 16) (f : VFields) (s : State) : Result := vcompare n 0x21 f s ordLt
/-- VCMP_LE. -/
def execVcmpLe (n : Fin 16) (f : VFields) (s : State) : Result := vcompare n 0x22 f s ordLe
/-- VCMP_UN: either is NaN. -/
def execVcmpUn (n : Fin 16) (f : VFields) (s : State) : Result := vcompare n 0x23 f s fun a b => isNan32 a || isNan32 b
/-- VSEL: VA where the mask register VC[2:0] has a one, VB elsewhere (DEDUCED, notes/assumptions/11.md). -/
def execVsel (n : Fin 16) (f : VFields) (s : State) : Result :=
  vregs n 0x24 f s fun g =>
    let m := g.mask (f.vc.setWidth 3)
    g.setLanes f.vd (g.enabled f) fun i => if m.getLsbD i then g.lane f.va i else g.lane f.vb i
/-- VMOVI: IMM in bits [31:4], zeros below. -/
def execVmovi (n : Fin 16) (f : VFields) (s : State) : Result := vlanes n 0x25 f s fun _ _ _ => f.imm ++ 0#4

/-! ### Integer -/

/-- VIADD. -/
def execViadd (n : Fin 16) (f : VFields) (s : State) : Result := vlanes n 0x30 f s fun a b _ => a + b
/-- VISUB. -/
def execVisub (n : Fin 16) (f : VFields) (s : State) : Result := vlanes n 0x31 f s fun a b _ => a - b
/-- VIMUL: the low 32 bits. -/
def execVimul (n : Fin 16) (f : VFields) (s : State) : Result := vlanes n 0x32 f s fun a b _ => a * b
/-- VAND. -/
def execVand (n : Fin 16) (f : VFields) (s : State) : Result := vlanes n 0x33 f s fun a b _ => a &&& b
/-- VOR. -/
def execVor (n : Fin 16) (f : VFields) (s : State) : Result := vlanes n 0x34 f s fun a b _ => a ||| b
/-- VXOR. -/
def execVxor (n : Fin 16) (f : VFields) (s : State) : Result := vlanes n 0x35 f s fun a b _ => a ^^^ b
/-- VSHL: VA left by IMM[4:0]. -/
def execVshl (n : Fin 16) (f : VFields) (s : State) : Result := vlanes n 0x36 f s fun a _ _ => a <<< (f.imm.toNat % 32)
/-- VSHR: VA right by IMM[4:0], zeros shifted in (PRESUMED, notes/assumptions/11.md). -/
def execVshr (n : Fin 16) (f : VFields) (s : State) : Result := vlanes n 0x37 f s fun a _ _ => a >>> (f.imm.toNat % 32)

/-! ### Register conversion (R213) -/

/-- VCVT_W: bits [15:0], or [31:16] with IMM[0], widened exactly. -/
def execVcvtW (n : Fin 16) (f : VFields) (s : State) : Result :=
  vlanes n 0x40 f s fun a _ _ => widenBf16 (if f.imm.getLsbD 0 then (a >>> 16).setWidth 16 else a.setWidth 16)

/-- An input element of a conversion: a subnormal one is flushed where FLUSH says so (R147). -/
def cvtInput (e : Encoding) (flush : Bool) (code : Nat) : Num × Bool :=
  if flush && isSubnormal e code then (.fin (codeNeg e code) 0 0, true) else (decodeCode e code, false)

/-- Convert one element of binary32 into bfloat16 with its counts (R147 to R152). -/
def narrowElem (o : CvtOpt) (seed step : BitVec 64) (tensor : Nat) (at_ : Coord) (x : Nat) (c : Contribution) :
    Nat × Contribution :=
  let (v, fl) := cvtInput .f32 o.flush x
  let r := if o.stochastic then randomBits seed tensor at_.row at_.col step else 0
  let y := convertNum .bf16 o r v
  (y.code, (c.count 7 (bitNat fl)).converted .bf16 at_ y)

/-- VCVT_N: enabled lanes narrow to bfloat16 in bits [15:0] and enter the context's tensor. -/
def execVcvtN (n : Fin 16) (f : VFields) (s : State) : Result :=
  vstep n 0x41 f s fun s c k a =>
    let o : CvtOpt := ⟨f.imm.getLsbD 2, f.imm.getLsbD 0, f.imm.getLsbD 1⟩
    let seed := match (s.lvl c.lvl).job with
      | some j => j.seed
      | none => 0
    let step := k.ctl.step.getD (BitVec.ofNat 64 c.step)
    let r := (k.regs.enabled f).foldl (fun (acc : VRegs × Contribution) i =>
      let (y, ct) := narrowElem o seed step k.ctl.tensor ⟨0xFFFF, k.ctl.row, k.ctl.col + i⟩ (k.regs.lane f.va i).toNat acc.2
      (acc.1.setLanes f.vd [i] fun _ => BitVec.ofNat 32 y, ct))
      (k.regs, { Contribution.start k.ctl.tensor with step := k.ctl.step.map BitVec.toNat })
    ⟨r.1, k.ctl, a, if (k.regs.enabled f).isEmpty then none else some r.2, 0⟩

/-- VTAG: the conversion context. -/
def execVtag (n : Fin 16) (f : VFields) (s : State) : Result :=
  vstep n 0x42 f s fun _ _ k a =>
    let p := (k.regs.ptr f.pa).toNat
    ⟨k.regs, { k.ctl with tensor := f.imm.toNat % 2 ^ 16, row := bitField p 0 22, col := bitField p 32 20 }, a, none, 0⟩

/-! ### Lane movement -/

/-- VPERM: lane l takes lane l xor IMM[7:0] of VA. -/
def execVperm (n : Fin 16) (f : VFields) (s : State) : Result :=
  vregs n 0x50 f s fun g => g.setLanes f.vd (g.enabled f) fun i => g.lane f.va (i ^^^ (f.imm.toNat % 256))

/-- VBCAST: lane IMM[7:0] of VA to all. -/
def execVbcast (n : Fin 16) (f : VFields) (s : State) : Result :=
  vregs n 0x51 f s fun g => g.setLanes f.vd (g.enabled f) fun _ => g.lane f.va (f.imm.toNat % 256)

/-! ### Reductions (R212) -/

/-- One level of the pairwise tree. -/
def pairSums : List (BitVec 32) → List (BitVec 32)
  | a :: b :: r => fadd a b :: pairSums r
  | r => r

/-- The tree over 256 lanes. -/
def treeSum (xs : List (BitVec 32)) : BitVec 32 := ((List.range 8).foldl (fun xs _ => pairSums xs) xs).headD 0

/-- The exact sum of binary32 values, rounded once. -/
def exactSum (xs : List (BitVec 32)) : BitVec 32 :=
  if xs.any isNan32 || (xs.contains (f32Inf false) && xs.contains (f32Inf true)) then qnan
  else if xs.contains (f32Inf false) then f32Inf false
  else if xs.contains (f32Inf true) then f32Inf true
  else
    let s : Int := xs.foldl (fun acc x => match f32Num x with
      | .fin n m e => acc + scaledInt n m e (-149)
      | _ => acc) 0
    if s = 0 then f32Zero (xs.all fun x => decide (x = 0x80000000#32)) else roundF32 (decide (s < 0)) s.natAbs (-149) false

/-- Write lanes 0 and 1 of VD, all other lanes zero (R212). -/
def VRegs.reduced (g : VRegs) (d : BitVec 5) (x y : BitVec 32) : VRegs :=
  g.setLanes d (List.range 256) fun i => if i = 0 then x else if i = 1 then y else 0

/-- Enabled lanes of VA, a disabled lane as +0. -/
def VRegs.masked (g : VRegs) (f : VFields) : List (BitVec 32) :=
  (List.range 256).map fun i => if (g.mask f.mask).getLsbD i then g.lane f.va i else 0

/-- VRED_ADD: the balanced tree, each addition rounded. -/
def execVredAdd (n : Fin 16) (f : VFields) (s : State) : Result :=
  vregs n 0x60 f s fun g => g.reduced f.vd (treeSum (g.masked f)) 0

/-- VRED_ADDX: the exact sum, rounded once. -/
def execVredAddx (n : Fin 16) (f : VFields) (s : State) : Result :=
  vregs n 0x61 f s fun g => g.reduced f.vd (exactSum (g.masked f)) 0

/-- A maximum or minimum over the enabled lanes; with none the spec states no winner, and both results are free values
(notes/assumptions/2.md). -/
def vwinner (n : Fin 16) (o : Nat) (f : VFields) (s : State)
    (pick : BitVec 32 × Nat → BitVec 32 × Nat → BitVec 32 × Nat) : Result :=
  vstep n o f s fun s _ k a =>
    match k.regs.enabled f with
    | [] =>
      let w := Config.freeWord s.freeCtr
      ⟨k.regs.reduced f.vd (w.setWidth 32) ((w >>> 32).setWidth 32), k.ctl, a, none, 1⟩
    | i :: is =>
      let r := is.foldl (fun b j => pick b (k.regs.lane f.va j, j)) (k.regs.lane f.va i, i)
      ⟨k.regs.reduced f.vd (if isNan32 r.1 then qnan else r.1) (BitVec.ofNat 32 r.2), k.ctl, a, none, 0⟩

/-- VRED_MAX (R184). -/
def execVredMax (n : Fin 16) (f : VFields) (s : State) : Result := vwinner n 0x62 f s maxCand

/-- VRED_MIN (R184). -/
def execVredMin (n : Fin 16) (f : VFields) (s : State) : Result := vwinner n 0x63 f s minCand

/-! ### Load and store (R204, R210, R221) -/

/-- Load the enabled lanes from their addresses, one lane at a time. -/
def vload (n : Fin 16) (o : Nat) (f : VFields) (s : State) (addr : VRegs → Nat → Nat) : Result :=
  vstep n o f s fun s c k a =>
    let r := (k.regs.enabled f).foldl (fun (acc : VRegs × Acc) i =>
      let (bs, a) := readCore s c acc.2 n.val (addr k.regs i) 4
      (acc.1.setLanes f.vd [i] fun _ => BitVec.ofNat 32 (leNat bs), a)) (k.regs, a)
    ⟨r.1, k.ctl, r.2, none, 0⟩

/-- Store the enabled lanes, in ascending order, to their addresses. -/
def vstore (n : Fin 16) (o : Nat) (f : VFields) (src : BitVec 5) (s : State) (addr : VRegs → Nat → Nat) : Result :=
  vstep n o f s fun s c k a =>
    let a := (k.regs.enabled f).foldl (fun a i =>
      writeCore s c a 0 n.val (addr k.regs i) (leBytes 4 (k.regs.lane src i).toNat)) a
    ⟨k.regs, k.ctl, a, none, 0⟩

/-- Lane l at P[PA] + IMM + 4 l. DESIGN CHOICE (notes/assumptions/109.md), as of the two below: IMM and VA[l] count without a sign, and
a sum past 64 bits does not wrap. -/
def addrRow (f : VFields) (g : VRegs) (i : Nat) : Nat := (g.ptr f.pa).toNat + f.imm.toNat + 4 * i

/-- Lane l at P[PA] + l * IMM (notes/assumptions/109.md). -/
def addrStride (f : VFields) (g : VRegs) (i : Nat) : Nat := (g.ptr f.pa).toNat + i * f.imm.toNat

/-- Lane l at P[PA] + 4 * VA[l] (notes/assumptions/109.md). -/
def addrIndex (f : VFields) (g : VRegs) (i : Nat) : Nat := (g.ptr f.pa).toNat + 4 * (g.lane f.va i).toNat

/-- VLD. -/
def execVld (n : Fin 16) (f : VFields) (s : State) : Result := vload n 0x70 f s (addrRow f)
/-- VST: VA is stored (DEDUCED, notes/assumptions/11.md). -/
def execVst (n : Fin 16) (f : VFields) (s : State) : Result := vstore n 0x71 f f.va s (addrRow f)
/-- VLDS. -/
def execVlds (n : Fin 16) (f : VFields) (s : State) : Result := vload n 0x72 f s (addrStride f)
/-- VSTS: VA is stored (DEDUCED, notes/assumptions/11.md). -/
def execVsts (n : Fin 16) (f : VFields) (s : State) : Result := vstore n 0x73 f f.va s (addrStride f)
/-- VGATHER. -/
def execVgather (n : Fin 16) (f : VFields) (s : State) : Result := vload n 0x74 f s (addrIndex f)
/-- VSCATTER: VA gives the addresses, VB is stored (DEDUCED, notes/assumptions/11.md); lanes are written in ascending order
(R221). -/
def execVscatter (n : Fin 16) (f : VFields) (s : State) : Result := vstore n 0x75 f f.vb s (addrIndex f)

/-! ### Pointer and loop -/

/-- PSET: P[PA] = IMM. -/
def execPset (n : Fin 16) (f : VFields) (s : State) : Result :=
  vregs n 0x80 f s fun g => g.setPtr f.pa (f.imm.setWidth 64)

/-- PADD: P[PA] += sign-extended IMM. -/
def execPadd (n : Fin 16) (f : VFields) (s : State) : Result :=
  vregs n 0x81 f s fun g => g.setPtr f.pa (g.ptr f.pa + f.imm.signExtend 64)

/-- Past the ENDLOOP that matches a LOOP just before IP, or the end of the program, and what the reads of the instructions between meet
(R204); `depth` loops are open between. -/
def skipLoop (s : State) (c : Cmd) (n : Nat) (ctl : Control) : Nat → Nat → Nat → Acc → Nat × Acc
  | 0, ip, _, a => (ip, a)
  | fuel + 1, ip, depth, a =>
    if ctl.length ≤ ip then (ctl.length, a)
    else
      let (w, a) := fetchWord s c a n { ctl with ip := ip }
      let o := w % 256
      if o = 0x83 then (if depth = 0 then (ip + 1, a) else skipLoop s c n ctl fuel (ip + 1) (depth - 1) a)
      else skipLoop s c n ctl fuel (ip + 1) (if o = 0x82 then depth + 1 else depth) a

/-- LOOP: IMM iterations of the instructions up to the matching ENDLOOP; none for an IMM of 0 (notes/assumptions/11.md). -/
def execLoop (n : Fin 16) (f : VFields) (s : State) : Result :=
  vstep n 0x82 f s fun s c k a =>
    let t := k.ctl
    if f.imm = 0 then
      let (ip, a) := skipLoop s c n.val t t.length t.ip 0 a
      ⟨k.regs, { t with ip := ip }, a, none, 0⟩
    else ⟨k.regs, { t with loops := (t.ip, f.imm.toNat) :: t.loops }, a, none, 0⟩

/-- ENDLOOP: back to the first instruction of the innermost loop while iterations are left. -/
def execEndloop (n : Fin 16) (f : VFields) (s : State) : Result :=
  vstep n 0x83 f s fun _ _ k a =>
    let t := k.ctl
    let ctl := match t.loops with
      | (start, left) :: rest => if 1 < left then { t with ip := start, loops := (start, left - 1) :: rest } else { t with loops := rest }
      | [] => t
    ⟨k.regs, ctl, a, none, 0⟩

/-- FENCE: the program's accesses are already made in order; it only goes on. -/
def execFence (n : Fin 16) (f : VFields) (s : State) : Result := vregs n 0x84 f s id

/-- END: the program is over; its command completes with COMMAND_COMPLETE (R208, R213). -/
def execEndProgram (n : Fin 16) (f : VFields) (s : State) : Result :=
  match s.vprog n.val with
  | none => .next s
  | some (l, _, c) =>
    let k := s.core n.val
    let (w, a) := fetchWord s c .empty n.val k.ctl
    if w % 256 = 0x85 ∧ vfieldsOf w = f ∧ programStuck k.ctl w = false then
      let s := s.setCore n.val { k with ctl := .idle }
      let s := s.updHead l (0x10 + n.val) fun r =>
        { r with after := .none, refused := a.refused.foldl (fun xs y => addLine y xs) r.refused,
                 contribs := r.contribs.map fun x => x.count 13 1 }
      .next ((s.reportFailures c a).reportRefused c a)
    else .next (s.settle n.val)

/-! ### PROGRAM (R208) -/

/-- Fields of a program descriptor. -/
def programFields : List (Nat × Nat) := [(0, 26), (32, 16), (64, 26), (90, 1), (128, 64)]

/-- PROGRAM: the registers read zero, P0 to P15 are loaded from the argument block, and the first instruction is next. The
conversion context before a VTAG is a free value (notes/assumptions/2.md). STEP_EXPLICIT puts STEP for LSTEP, in the random bits and
in the record (R205). -/
def execProgram (l : Fin 4) (e : Nat) (s : State) : Result :=
  s.dispatch l e isVecEng 0x01 fun s r c =>
    let d := r.img.descNat r.en 64
    let n := r.en.engine - 0x10
    let code := bitField d 0 26
    let args := bitField d 64 26
    if reservedClear d programFields && decide (code % 8 = 0) && decide (bitField d 32 16 ≠ 0) && decide (args % 64 = 0) then
      let explicit := bitAt d 90
      let step := bitField d 128 64
      let (bs, a) := readCore s c .empty n args 128
      let (w, s) := s.free64
      let p := (List.range 16).foldl (fun t i => tabPut 0 t i (BitVec.ofNat 64 (listLe bs (8 * i) 8))) ([] : Tab (BitVec 64))
      let ctl : Control :=
        { Control.idle with
          running := true, code := code, length := bitField d 32 16, tensor := bitField w.toNat 0 16,
          row := bitField w.toNat 16 22, col := bitField w.toNat 38 20,
          step := if explicit then some (BitVec.ofNat 64 step) else none, level := l.val, context := c.ctx, entry := e }
      let s := s.updCore n fun k => { k with regs := ⟨[], [], p⟩, ctl := ctl }
      (s.launch c a [] .program).settle n
    else s.invalidDesc c

end Sys2Proof.Machine
end

