-- ==== Sys2Proof/Machine/Convert.lean ====
section
/-!
DEFINITION. Machine/Convert.lean: the stream operations of the vector engine (R154 to R158, R173, R205 to R207).
-/
namespace Sys2Proof.Machine

/-- A stream descriptor (R206). -/
structure StreamDesc where
  mxEnc : Nat
  half : Bool
  flush : Bool
  stochastic : Bool
  saturate : Bool
  supplied : Bool
  warmUp : Bool
  explicit : Bool
  tensor : Nat
  count : Nat
  src : Nat
  src2 : Nat
  dst : Nat
  dst2 : Nat
  amax : Nat
  row : Nat
  col : Nat
  rowLen : Nat
  step : Nat
  reservedOk : Bool
  deriving DecidableEq, Repr

/-- Fields of a stream descriptor. -/
def streamFields : List (Nat × Nat) :=
  [(0, 4), (4, 1), (5, 1), (6, 1), (7, 1), (8, 1), (9, 1), (10, 1), (16, 16), (32, 32), (64, 26), (90, 26), (128, 26), (154, 26),
    (192, 26), (228, 22), (256, 20), (276, 20), (320, 64)]

/-- Read a stream descriptor. -/
def StreamDesc.ofNat (d : Nat) : StreamDesc :=
  { mxEnc := bitField d 0 4, half := bitAt d 4, flush := bitAt d 5, stochastic := bitAt d 6, saturate := bitAt d 7,
    supplied := bitAt d 8, warmUp := bitAt d 9, explicit := bitAt d 10, tensor := bitField d 16 16, count := bitField d 32 32,
    src := bitField d 64 26, src2 := bitField d 90 26, dst := bitField d 128 26, dst2 := bitField d 154 26,
    amax := bitField d 192 26, row := bitField d 228 22, col := bitField d 256 20, rowLen := bitField d 276 20,
    step := bitField d 320 64, reservedOk := reservedClear d streamFields }

/-- Length of an MX block (R141). -/
def StreamDesc.block (d : StreamDesc) : Nat := if d.half then 16 else 32

/-- The MX element encoding. -/
def StreamDesc.enc (d : StreamDesc) : Encoding := (formatEncoding d.mxEnc).getD .e4m3

/-- A valid stream descriptor for an operation with or without an MX operand (R206). -/
def StreamDesc.ok (d : StreamDesc) (mx : Bool) : Bool :=
  d.reservedOk && decide (d.rowLen ≠ 0) &&
    (if mx then inRange d.mxEnc 1 5 && decide (d.count % d.block = 0) else decide (d.mxEnc = 0))

/-- The coordinates of element `i` (R194, R206). -/
def StreamDesc.coord (d : StreamDesc) (i : Nat) : Coord := ⟨0xFFFF, d.row + i / d.rowLen, d.col + i % d.rowLen⟩

/-- What a stream operation works with: its descriptor, its core and the job seed. -/
structure StreamCtx where
  d : StreamDesc
  core : Nat
  seed : BitVec 64
  step : BitVec 64
  deriving DecidableEq, Repr

/-- The random bits of element `i` (R151). -/
def StreamCtx.random (x : StreamCtx) (i : Nat) : Nat :=
  if x.d.stochastic then randomBits x.seed x.d.tensor (x.d.coord i).row (x.d.coord i).col x.step else 0

/-- Conversion options for a destination: rounding and saturation are bfloat16's alone (R150, R154). -/
def StreamDesc.opt (d : StreamDesc) (e : Encoding) : CvtOpt :=
  ⟨d.flush, d.stochastic && decide (e = .bf16), d.saturate && decide (e = .bf16)⟩

/-- Bytes of a bfloat16 or binary32 element. -/
def elemBytes (e : Encoding) : Nat := if e = .bf16 then 2 else 4

/-- Run a stream operation (R207): one contribution of its output format, bit `fmt` of FORMATS_SEEN (R190), completed when its last
write is made. STEP_EXPLICIT puts STEP for LSTEP, in the random bits and in the record (R205, R206); the contribution still belongs to
the step of its dispatch (R187). -/
def runStream (l : Fin 4) (e opcode fmt : Nat) (mx : Bool) (s : State)
    (body : State → Cmd → StreamCtx → Acc × Contribution → Acc × Contribution) : Result :=
  s.dispatch l e isVecEng opcode fun s r c =>
    let d := StreamDesc.ofNat (r.img.descNat r.en 64)
    if d.ok mx then
      let step := if d.explicit then some d.step else none
      let x : StreamCtx := ⟨d, r.en.engine - 0x10, r.job.seed, BitVec.ofNat 64 (step.getD c.step)⟩
      let (a, ct) := body s c x (.empty, (Contribution.start d.tensor).format fmt)
      s.launch c a [{ (ct.count 13 1) with warmUp := d.warmUp, step := step }] .none
    else s.invalidDesc c

/-- Write one converted element at index `i`. -/
def putElem (s : State) (c : Cmd) (x : StreamCtx) (a : Acc) (i addr : Nat) (e : Encoding) (code : Nat) : Acc :=
  writeCore s c a (i / 256) x.core (addr + elemBytes e * i) (leBytes (elemBytes e) code)

/-- A conversion of each element of bfloat16 or binary32 into bfloat16 or binary32. -/
def cvtElems (src dst : Encoding) (s : State) (c : Cmd) (x : StreamCtx) (r : Acc × Contribution) : Acc × Contribution :=
  (List.range x.d.count).foldl (fun r i =>
    let (bs, a) := readCore s c r.1 x.core (x.d.src + elemBytes src * i) (elemBytes src)
    let (v, fl) := cvtInput src x.d.flush (leNat bs)
    let y := convertNum dst (x.d.opt dst) (x.random i) v
    (putElem s c x a i x.d.dst dst y.code, (r.2.count 7 (bitNat fl)).converted dst (x.d.coord i) y)) r

/-- A conversion of A96 words (R176). -/
def cvtWords (dst : Encoding) (s : State) (c : Cmd) (x : StreamCtx) (r : Acc × Contribution) : Acc × Contribution :=
  (List.range x.d.count).foldl (fun r i =>
    let (bs, a) := readCore s c r.1 x.core (x.d.src + 16 * i) 16
    let (code, ct) := convertA96 (A96.ofBits (leNat bs)) dst (x.d.opt dst) (x.random i) (x.d.coord i) r.2
    (writeCore s c a (i / 64) x.core (x.d.dst + elemBytes dst * i) (leBytes (elemBytes dst) code), ct)) r

/-- A conversion out of MX blocks. -/
def cvtFromMx (dst : Encoding) (s : State) (c : Cmd) (x : StreamCtx) (r : Acc × Contribution) : Acc × Contribution :=
  (List.range (x.d.count / x.d.block)).foldl (fun r b =>
    let n := rowBytes x.d.enc x.d.block
    let (bs, a) := readCore s c r.1 x.core (x.d.src + n * b) n
    let (sc, a) := readCore s c a x.core (x.d.src2 + b) 1
    ((unpackCodes x.d.enc bs).zipIdx).foldl (fun r p =>
      let i := x.d.block * b + p.2
      let v := opnd x.d.enc x.d.flush (some (leNat sc)) p.1
      let y := convertNum dst (x.d.opt dst) (x.random i) v.num
      (putElem s c x r.1 i x.d.dst dst y.code, (r.2.count 7 (bitNat v.flushed)).converted dst (x.d.coord i) y)) (a, r.2)) r

/-! ### Quantisation (R155 to R157) -/

/-- emax of an element encoding (R155). -/
def encEmax : Encoding → Int
  | .e4m3 => 8 | .e5m2 => 15 | .e3m2 => 4 | .e2m3 => 2 | _ => 2

/-- A binary32 or bfloat16 value is finite. -/
def Num.isFin : Num → Bool
  | .fin _ _ _ => true
  | _ => false

/-- Compare two exact magnitudes. -/
def magLt (m1 : Nat) (e1 : Int) (m2 : Nat) (e2 : Int) : Bool :=
  let q := min e1 e2
  decide (m1 * 2 ^ (e1 - q).toNat < m2 * 2 ^ (e2 - q).toNat)

/-- The largest magnitude of a block of finite values. -/
def maxMag (xs : List Num) : Nat × Int :=
  xs.foldl (fun b x => match x with
    | .fin _ m e => if magLt b.1 b.2 m e then (m, e) else b
    | _ => b) (0, 0)

/-- One quantised element: its code and whether it was flushed (R155 step 5, R150). -/
def quantElem (e : Encoding) (flush : Bool) (x : Int) : Num → Nat × Bool
  | .fin neg m exp =>
    if flush && belowNormal e m (exp - x) then (signed e neg 0, true)
    else (signed e neg (min (encMax e) (roundNE e m (exp - x) false)), false)
  | _ => (0, false)

/-- A quantised block: scale, codes, flushed outputs, and the three block counts of R157. -/
structure QuantBlock where
  scale : Nat
  codes : List (Nat × Bool)
  nonfinite : Bool
  clipped : Bool
  refused : Bool
  deriving DecidableEq, Repr

/-- Quantise one block; `supplied` is the binary32 amax of supplied mode (R155, R157). -/
def quantBlock (e : Encoding) (flush : Bool) (supplied : Option Nat) (xs : List Num) : QuantBlock :=
  if !xs.all Num.isFin then ⟨0xFF, xs.map fun _ => (0, false), true, false, false⟩
  else
    let own := maxMag xs
    let given : Option (Nat × Int) := match supplied.map (decodeCode .f32) with
      | some (.fin false m ex) => if m = 0 then none else some (m, ex)
      | _ => none
    let a := given.getD own
    let refused := supplied.isSome && given.isNone
    if a.1 = 0 then
      ⟨0x7F, xs.map fun x => match x with
        | .fin n _ _ => (signed e n 0, false)
        | _ => (0, false), false, false, refused⟩
    else
      let x := max (magExp a.1 a.2 - encEmax e) (-127)
      ⟨(x + 127).toNat, xs.map (quantElem e flush x), false, given.isSome && magLt a.1 a.2 own.1 own.2, refused⟩

/-- The elements of a quantised block enter the contribution (R196, R197). -/
def quantCount (d : StreamDesc) (b : Nat) (q : QuantBlock) (ct : Contribution) : Contribution :=
  let ct := (ct.count 9 (bitNat q.nonfinite)).count 10 (bitNat q.clipped)
  let ct := ct.count 11 (bitNat q.refused)
  q.codes.zipIdx.foldl (fun ct p =>
    let i := d.block * b + p.2
    let v : Num := if q.scale = 0xFF then .nan else (decodeCode d.enc p.1.1).scale ((q.scale : Int) - 127)
    (ct.count 8 (bitNat p.1.2)).wrote (d.coord i).row (d.coord i).col (p.1.1 + 256 * q.scale)
      (histBin v (q.scale ≠ 0xFF && isSubnormal d.enc p.1.1))) ct

/-- A conversion into MX blocks. -/
def cvtToMx (src : Encoding) (s : State) (c : Cmd) (x : StreamCtx) (r : Acc × Contribution) : Acc × Contribution :=
  let (amax, r) := if x.d.supplied then
      let (bs, a) := readCore s c r.1 x.core x.d.amax 4
      (some (leNat bs), (a, r.2))
    else (none, r)
  (List.range (x.d.count / x.d.block)).foldl (fun r b =>
    let n := elemBytes src * x.d.block
    let (bs, a) := readCore s c r.1 x.core (x.d.src + n * b) n
    let ins := (unpackCodes src bs).map (cvtInput src x.d.flush)
    let ct := r.2.count 7 (ins.countP fun p => p.2)
    let q := quantBlock x.d.enc x.d.flush amax (ins.map Prod.fst)
    let at_ := x.d.block * b / 256
    let a := writeCore s c a at_ x.core (x.d.dst + rowBytes x.d.enc x.d.block * b) (packCodes x.d.enc (q.codes.map Prod.fst))
    let a := writeCore s c a at_ x.core (x.d.dst2 + b) (leBytes 1 q.scale)
    (a, quantCount x.d b q ct)) r

/-! ### Splitting (R158) -/

/-- The exact difference of two finite values. DESIGN CHOICE (notes/assumptions/97.md): a difference of zero is +0. -/
def exactDiff (x y : Num) : Num :=
  match x, y with
  | .fin n1 m1 e1, .fin n2 m2 e2 =>
    let q := min e1 e2
    let s := scaledInt n1 m1 e1 q - scaledInt n2 m2 e2 q
    .fin (decide (s < 0)) s.natAbs q
  | x, _ => x

/-- The pair (hi, lo) of a value; SATURATION counts a clamped hi only where SATURATE is set. -/
def splitElem (flush sat : Bool) (v : Num) : Conv × Conv :=
  let o : CvtOpt := ⟨flush, false, true⟩
  let h := convertNum .bf16 o 0 v
  let hi : Conv := ⟨h.code, false, h.saturation && sat, h.flushOut⟩
  let lo : Conv := if v.isFin then convertNum .bf16 ⟨flush, false, false⟩ 0 (exactDiff v (decodeCode .bf16 h.code))
    else ⟨0, false, false, false⟩
  (hi, lo)

/-- CVT_F32_SPLIT on every element. -/
def cvtSplit (s : State) (c : Cmd) (x : StreamCtx) (r : Acc × Contribution) : Acc × Contribution :=
  (List.range x.d.count).foldl (fun r i =>
    let (bs, a) := readCore s c r.1 x.core (x.d.src + 4 * i) 4
    let (v, fl) := cvtInput .f32 x.d.flush (leNat bs)
    let (hi, lo) := splitElem x.d.flush x.d.saturate v
    let ct := ((r.2.count 7 (bitNat fl)).converted .bf16 (x.d.coord i) hi).converted .bf16 (x.d.coord i) lo
    (putElem s c x (putElem s c x a i x.d.dst .bf16 hi.code) i x.d.dst2 .bf16 lo.code, ct)) r

/-- ACC_COMBINE on every pair of words (R173). -/
def combineWords (s : State) (c : Cmd) (x : StreamCtx) (r : Acc × Contribution) : Acc × Contribution :=
  (List.range x.d.count).foldl (fun r i =>
    let (p, a) := readCore s c r.1 x.core (x.d.src + 16 * i) 16
    let (q, a) := readCore s c a x.core (x.d.src2 + 16 * i) 16
    let w := (A96.ofBits (leNat p)).combine (A96.ofBits (leNat q))
    (writeCore s c a (i / 64) x.core (x.d.dst + 16 * i) (leBytes 16 w.bits), r.2)) r

/-! ### The operations (R205) -/

/-- CVT_BF16_F32. -/
def execCvtBf16F32 (l : Fin 4) (e : Nat) (s : State) : Result := runStream l e 0x20 1 false s (cvtElems .bf16 .f32)
/-- CVT_F32_BF16. -/
def execCvtF32Bf16 (l : Fin 4) (e : Nat) (s : State) : Result := runStream l e 0x21 0 false s (cvtElems .f32 .bf16)
/-- CVT_A96_F32. -/
def execCvtA96F32 (l : Fin 4) (e : Nat) (s : State) : Result := runStream l e 0x22 1 false s (cvtWords .f32)
/-- CVT_A96_BF16. -/
def execCvtA96Bf16 (l : Fin 4) (e : Nat) (s : State) : Result := runStream l e 0x23 0 false s (cvtWords .bf16)
/-- CVT_MX_F32. -/
def execCvtMxF32 (l : Fin 4) (e : Nat) (s : State) : Result := runStream l e 0x24 1 true s (cvtFromMx .f32)
/-- CVT_MX_BF16. -/
def execCvtMxBf16 (l : Fin 4) (e : Nat) (s : State) : Result := runStream l e 0x25 0 true s (cvtFromMx .bf16)
/-- CVT_F32_MX. -/
def execCvtF32Mx (l : Fin 4) (e : Nat) (s : State) : Result := runStream l e 0x26 3 true s (cvtToMx .f32)
/-- CVT_BF16_MX. -/
def execCvtBf16Mx (l : Fin 4) (e : Nat) (s : State) : Result := runStream l e 0x27 3 true s (cvtToMx .bf16)
/-- CVT_F32_SPLIT. -/
def execCvtF32Split (l : Fin 4) (e : Nat) (s : State) : Result := runStream l e 0x28 0 false s cvtSplit
/-- ACC_COMBINE. -/
def execAccCombine (l : Fin 4) (e : Nat) (s : State) : Result := runStream l e 0x29 2 false s combineWords

end Sys2Proof.Machine
end

