-- ==== Sys2Proof/Machine/Ore.lean ====
section
/-!
DEFINITION. Machine/Ore.lean: the Ore Pass (13_ore_pass.md): span states, the two sweeps, statistics, gradient and the top-K
cache.
-/
namespace Sys2Proof.Machine

/-- ORE_U0 to ORE_U3 (R62, R288). -/
def isOreEng (e : Nat) : Bool := decide (0x20 ≤ e) && decide (e < 0x24)

/-- An Ore Pass descriptor (R293). -/
structure OreDesc where
  mode : Nat
  spread : Bool
  logitF32 : Bool
  gradF32 : Bool
  student : Bool
  useWeight : Bool
  tokens : Nat
  k : Nat
  chunk : Nat
  vocab : Nat
  srcCore : Nat
  dstCore : Nat
  srcStride : Nat
  src : Nat
  teacher : Nat
  studentTile : Nat
  state : Nat
  topk : Nat
  stats : Nat
  target : Nat
  weight : Nat
  grad : Nat
  gradStride : Nat
  scaleT : BitVec 32
  wFwd : BitVec 32
  wRev : BitVec 32
  wCe : BitVec 32
  tensor : Nat
  rowOrigin : Nat
  colFirst : Nat
  colCount : Nat
  reservedOk : Bool
  deriving DecidableEq, Repr

/-- Fields of the descriptor. -/
def oreFields : List (Nat × Nat) :=
  [(0, 2), (2, 1), (3, 1), (4, 1), (5, 1), (6, 1), (8, 8), (16, 11), (32, 8), (40, 21), (64, 4), (68, 4), (72, 24), (96, 26), (128, 26),
    (160, 26), (192, 26), (224, 26), (256, 26), (288, 26), (320, 26), (352, 26), (384, 24), (416, 32), (448, 32), (480, 32),
    (512, 32), (544, 16), (560, 22), (584, 12), (608, 13)]

/-- Read a descriptor. -/
def OreDesc.ofNat (d : Nat) : OreDesc :=
  { mode := bitField d 0 2, spread := bitAt d 2, logitF32 := bitAt d 3, gradF32 := bitAt d 4, student := bitAt d 5,
    useWeight := bitAt d 6, tokens := bitField d 8 8, k := bitField d 16 11, chunk := bitField d 32 8, vocab := bitField d 40 21,
    srcCore := bitField d 64 4, dstCore := bitField d 68 4, srcStride := bitField d 72 24, src := bitField d 96 26,
    teacher := bitField d 128 26, studentTile := bitField d 160 26, state := bitField d 192 26, topk := bitField d 224 26,
    stats := bitField d 256 26, target := bitField d 288 26, weight := bitField d 320 26, grad := bitField d 352 26,
    gradStride := bitField d 384 24, scaleT := BitVec.ofNat 32 (bitField d 416 32), wFwd := BitVec.ofNat 32 (bitField d 448 32),
    wRev := BitVec.ofNat 32 (bitField d 480 32), wCe := BitVec.ofNat 32 (bitField d 512 32), tensor := bitField d 544 16,
    rowOrigin := bitField d 560 22, colFirst := bitField d 584 12, colCount := bitField d 608 13,
    reservedOk := reservedClear d oreFields }

/-- Top-K mode. -/
def OreDesc.top (d : OreDesc) : Bool := d.mode = 1

/-- Bytes of a logit. -/
def OreDesc.e (d : OreDesc) : Nat := if d.logitF32 then 4 else 2

/-- Chunks of the vocabulary, C (R294). -/
def OreDesc.chunks (d : OreDesc) : Nat := ceilDiv d.vocab 4096

/-- Width of the chunk (R297). -/
def OreDesc.width (d : OreDesc) : Nat := min 4096 (d.vocab - 4096 * d.chunk)

/-- Bytes of a tile (R298), of the span state (R299) and of the cache (R309). -/
def OreDesc.tileBytes (d : OreDesc) : Nat := d.tokens * 4096 * d.e

/-- Bytes of the span state. -/
def OreDesc.stateBytes (d : OreDesc) : Nat := 64 + 128 * d.tokens

/-- Bytes of one token's cache. -/
def OreDesc.cacheRow (d : OreDesc) : Nat := 16 + 8 * d.k

/-- Base in the hub shared store and size of the Level's pass-buffer area (R289). -/
def State.passArea (s : State) (l : Fin 4) : Nat × Nat :=
  match (s.lvl l).job with
  | some j => match j.decl.passBuffer with
    | some (off, size) => (s.blockBase l LevelRecord.hubUnits * 2 ^ 21 + off, size)
    | none => (0, 0)
  | none => (0, 0)

/-- The conditions of R293 and R294 that hang on the descriptor and the area alone; those on columns concern STAGE, whose
fields they are. -/
def OreDesc.ok (d : OreDesc) (size : Nat) (stage : Bool) : Bool :=
  d.reservedOk && decide (d.mode ≤ 1) && inRange d.tokens 1 128 &&
    (if d.top then inRange d.k 1 1024 && decide (d.k ≤ d.vocab) else decide (d.k = 0)) && inRange d.vocab 1 1048576 &&
    decide (d.teacher % 64 = 0) && decide (d.studentTile % 64 = 0) && decide (d.state % 64 = 0) && decide (d.topk % 64 = 0) &&
    decide (d.stats % 64 = 0) &&
    ordLe 0x3C800000#32 d.scaleT && ordLe d.scaleT 0x43000000#32 &&
    isFinite32 d.wFwd && isFinite32 d.wRev && isFinite32 d.wCe && !(d.top && !ordEq d.wRev 0) &&
    decide (d.chunk < d.chunks) &&
    decide (d.colFirst + d.colCount ≤ d.width) && (!stage || decide (d.colCount ≠ 0)) &&
    decide (d.teacher + d.tileBytes ≤ size) && decide (d.studentTile + d.tileBytes ≤ size) &&
    decide (d.state + d.stateBytes ≤ size) && (!d.top || decide (d.topk + d.tokens * d.cacheRow ≤ size))

/-! ### Span states (R299) -/

/-- A span header. -/
structure SpanHeader where
  next : Nat
  vocab : Nat
  tokens : Nat
  k : Nat
  mode : Nat
  final : Bool
  deriving DecidableEq, Repr

/-- Read a header. -/
def SpanHeader.ofBytes (b : List Byte) : SpanHeader :=
  ⟨listLe b 0 4, listLe b 4 4, listLe b 8 2, listLe b 10 2, listLe b 12 1, bitAt (listLe b 13 1) 0⟩

/-- The 64 bytes of a header. -/
def SpanHeader.bytes (h : SpanHeader) : List Byte :=
  leBytes 4 h.next ++ leBytes 4 h.vocab ++ leBytes 2 h.tokens ++ leBytes 2 h.k ++ leBytes 1 h.mode ++ leBytes 1 (bitNat h.final) ++
    List.replicate 50 0

/-- A reference exponent: none is empty. -/
abbrev RefExp := Option Int

/-- A token state. -/
structure TokenState where
  mtT : RefExp
  mt1 : RefExp
  msT : RefExp
  ms1 : RefExp
  stT : A96
  st1 : A96
  ssT : A96
  ss1 : A96
  xf : A96
  xr : A96
  zt : BitVec 32
  zs : BitVec 32
  target : BitVec 32
  masked : Bool
  nonfinite : Bool
  badTarget : Bool
  deriving DecidableEq, Repr

/-- A reference exponent from its 32 bits. -/
def refOf (v : Nat) : RefExp := if v = 0x80000000 then none else some ((BitVec.ofNat 32 v).toInt)

/-- The 4 bytes of a reference exponent. -/
def refBytes : RefExp → List Byte
  | none => leBytes 4 0x80000000
  | some x => leBytes 4 (BitVec.ofInt 32 x).toNat

/-- Read a token state. -/
def TokenState.ofBytes (b : List Byte) : TokenState :=
  let w (o : Nat) : A96 := A96.ofBits (listLe b o 12)
  let fl := listLe b 0x64 4
  { mtT := refOf (listLe b 0 4), mt1 := refOf (listLe b 4 4), msT := refOf (listLe b 8 4), ms1 := refOf (listLe b 12 4),
    stT := w 0x10, st1 := w 0x1C, ssT := w 0x28, ss1 := w 0x34, xf := w 0x40, xr := w 0x4C,
    zt := BitVec.ofNat 32 (listLe b 0x58 4), zs := BitVec.ofNat 32 (listLe b 0x5C 4),
    target := BitVec.ofNat 32 (listLe b 0x60 4), masked := bitAt fl 0, nonfinite := bitAt fl 1, badTarget := bitAt fl 2 }

/-- TFLAGS of a token. -/
def TokenState.flags (t : TokenState) : Nat := bitNat t.masked + 2 * bitNat t.nonfinite + 4 * bitNat t.badTarget

/-- Bytes 0x00 to 0x57, and 0x60 to 0x7F, of a token state. -/
def TokenState.parts (t : TokenState) : List Byte × List Byte :=
  (refBytes t.mtT ++ refBytes t.mt1 ++ refBytes t.msT ++ refBytes t.ms1 ++
      [t.stT, t.st1, t.ssT, t.ss1, t.xf, t.xr].flatMap fun x => leBytes 12 x.bits,
    leBytes 4 t.target.toNat ++ leBytes 4 t.flags ++ List.replicate 24 0)

/-- The 128 bytes of a token state. -/
def TokenState.bytes (t : TokenState) : List Byte :=
  t.parts.1 ++ leBytes 4 t.zt.toNat ++ leBytes 4 t.zs.toNat ++ t.parts.2

/-- A token whose sums are not formed. -/
def TokenState.out (t : TokenState) : Bool := t.masked || t.nonfinite || t.badTarget

/-! ### Arithmetic of the sweeps -/

/-- log2(e) and ln 2 (R299, R302). -/
def log2eF : BitVec 32 := 0x3FB8AA3B#32

/-- ln 2 (R302). -/
def ln2F : BitVec 32 := 0x3F317218#32

/-- 1.0. -/
def oneF : BitVec 32 := 0x3F800000#32

/-- An integer, exact in binary32 here. -/
def intF32 (x : Int) : BitVec 32 := if x = 0 then 0 else roundF32 (decide (x < 0)) x.natAbs 0 false

/-- Add one binary32 value into a sum (R169, R300). -/
def A96.addF32 (x : A96) (v : BitVec 32) : A96 :=
  match f32Num v with
  | .fin n m e => (x.addGroup ⟨if n then -(m : Int) else m, e, false, false, false, false, .zero⟩).carried
  | .inf n => { x with pinf := x.pinf || !n, ninf := x.ninf || n }
  | .nan => { x with nan := true }

/-- Rescale by 2^(-d): the anchor code falls by d, or the word becomes zero (R300). -/
def A96.rescale (x : A96) (d : Nat) : A96 := if x.anchor < d then .zero else { x with anchor := x.anchor - d }

/-- Ceiling of a finite binary32 value. -/
def ceilF32 (v : BitVec 32) : Int :=
  match f32Num v with
  | .fin n m e =>
    let x : Int := if n then -(m : Int) else m
    if 0 ≤ e then x * 2 ^ e.toNat else -((-x) / (2 ^ (-e).toNat : Nat))
  | _ => 0

/-- Fold one list of u into a sum: the new reference, the sum, by how much older sums are rescaled, and the terms. -/
def foldSum (m : RefExp) (x : A96) (us : List (BitVec 32)) : RefExp × A96 × Nat × List (BitVec 32) :=
  match us with
  | [] => (m, x, 0, [])
  | u :: rest =>
    let mc := rest.foldl (fun b v => max b (ceilF32 v)) (ceilF32 u)
    let (m', d) := match m with
      | none => (mc, 0)
      | some m => if m < mc then (mc, (mc - m).toNat) else (m, 0)
    let es := us.map fun v => fexp2 (fsub v (intF32 m'))
    (some m', es.foldl A96.addF32 (x.rescale d), d, es)

/-- A value of magnitude 2^24 or more, or not finite (R300). -/
def tooBig (u : BitVec 32) : Bool := !isFinite32 u || ordLe 0x4B800000#32 (fabs u)

/-- SWEEP1 of one token (R300), the cache apart. -/
def sweepToken (d : OreDesc) (t : TokenState) (zt zs : List (BitVec 32)) : TokenState :=
  let utT := zt.map fun z => fmul z d.scaleT
  let ut1 := zt.map fun z => fmul z log2eF
  let usT := zs.map fun z => fmul z d.scaleT
  let us1 := zs.map fun z => fmul z log2eF
  if (zt ++ zs).any (fun z => !isFinite32 z) || (utT ++ ut1 ++ usT ++ us1).any tooBig then { t with nonfinite := true }
  else
    let (mtT, stT, d1, et) := foldSum t.mtT t.stT utT
    let (mt1, st1, _, _) := foldSum t.mt1 t.st1 ut1
    let (msT, ssT, d3, es) := foldSum t.msT t.ssT usT
    let (ms1, ss1, _, _) := foldSum t.ms1 t.ss1 us1
    let pairs := utT.zip usT
    let xf := (et.zip pairs).foldl (fun x p => x.addF32 (fmul p.1 (fsub p.2.1 p.2.2))) (t.xf.rescale d1)
    let xr := (es.zip pairs).foldl (fun x p => x.addF32 (fmul p.1 (fsub p.2.2 p.2.1))) (t.xr.rescale d3)
    let y := t.target.toNat
    let here := decide (4096 * d.chunk ≤ y) && decide (y < 4096 * d.chunk + zt.length)
    { t with mtT := mtT, mt1 := mt1, msT := msT, ms1 := ms1, stT := stT, st1 := st1, ssT := ssT, ss1 := ss1, xf := xf, xr := xr,
             zt := if here then zt.getD (y - 4096 * d.chunk) 0 else t.zt,
             zs := if here then zs.getD (y - 4096 * d.chunk) 0 else t.zs }

/-! ### The top-K cache (R309) -/

/-- A cache row. -/
structure CacheRow where
  factor : BitVec 32
  final : Bool
  /-- (value, index), in rank order. -/
  entries : List (BitVec 32 × Nat)
  deriving DecidableEq, Repr

/-- Read a cache row. -/
def CacheRow.ofBytes (b : List Byte) : CacheRow :=
  { factor := BitVec.ofNat 32 (listLe b 4 4), final := bitAt (listLe b 8 4) 0,
    entries := (List.range (min (listLe b 0 4) ((b.length - 16) / 8))).map fun i =>
      (BitVec.ofNat 32 (listLe b (0x14 + 8 * i) 4), listLe b (0x10 + 8 * i) 4 % 2 ^ 20) }

/-- The bytes of a cache row: header and the entries held. -/
def CacheRow.bytes (c : CacheRow) : List Byte :=
  leBytes 4 c.entries.length ++ leBytes 4 c.factor.toNat ++ leBytes 4 (bitNat c.final) ++ leBytes 4 0 ++
    c.entries.flatMap fun e => leBytes 4 e.2 ++ leBytes 4 e.1.toNat

/-- Insert a candidate in rank order (R184). -/
def rankInsert (x : BitVec 32 × Nat) : List (BitVec 32 × Nat) → List (BitVec 32 × Nat)
  | [] => [x]
  | y :: ys => if candBefore x y then x :: y :: ys else y :: rankInsert x ys

/-- Merge a chunk's teacher logits into a cache of K entries. -/
def mergeTop (k first : Nat) (es : List (BitVec 32 × Nat)) (zt : List (BitVec 32)) : List (BitVec 32 × Nat) :=
  zt.zipIdx.foldl (fun es z => (rankInsert (z.1, first + z.2) es).take k) es

/-! ### FINALISE (R301, R302, R310) -/

/-- CVT_A96_F32 without flush (R176). -/
def a96F32 (x : A96) : BitVec 32 := BitVec.ofNat 32 (convertNum .f32 ⟨false, false, false⟩ 0 x.num).code

/-- lse2 of R302. -/
def lse2 (m : RefExp) (x : A96) : BitVec 32 := fadd (intF32 (m.getD 0)) (flog2 (a96F32 x))

/-- The binary32 fields of a statistics record from 0x08 on, RESIDUAL apart. -/
def statFields (d : OreDesc) (t : TokenState) : List (BitVec 32) :=
  let lt := lse2 t.mtT t.stT
  let ls := lse2 t.msT t.ssT
  let lt1 := lse2 t.mt1 t.st1
  let ls1 := lse2 t.ms1 t.ss1
  let kf := fmul (fsub (fdiv (a96F32 t.xf) (a96F32 t.stT)) (fsub lt ls)) ln2F
  let kr := fmul (fsub (fdiv (a96F32 t.xr) (a96F32 t.ssT)) (fsub ls lt)) ln2F
  let ce := fmul (fsub ls (fmul t.zs d.scaleT)) ln2F
  let pt := fmul (fsub (fmul t.zt log2eF) lt1) ln2F
  let ps := fmul (fsub (fmul t.zs log2eF) ls1) ln2F
  [lt, ls, fmul lt1 ln2F, fmul ls1 ln2F, pt, ps, kf, kr, ce]

/-- The cache after FINALISE, and RESIDUAL (R310). -/
def finalCache (d : OreDesc) (lt : BitVec 32) (c : CacheRow) : CacheRow × BitVec 32 :=
  let ps := c.entries.map fun e => fexp2 (fsub (fmul e.1 d.scaleT) lt)
  let p := a96F32 (ps.foldl A96.addF32 .zero)
  let r := (maxCand (0, 0) (fsub oneF p, 1)).1
  let ru := if d.vocab = d.k then 0 else fdiv r (intF32 ((d.vocab : Int) - d.k))
  (⟨if d.spread then ru else fdiv oneF p, true, ps.zip (c.entries.map Prod.snd)⟩, r)

/-- The 64-byte statistics record of a token (R301). -/
def statRecord (d : OreDesc) (t : TokenState) (residual : BitVec 32) : List Byte :=
  let fs := if t.masked then List.replicate 10 0#32
    else if t.nonfinite || t.badTarget then List.replicate 10 qnan
    else statFields d t ++ [residual]
  leBytes 4 t.target.toNat ++ leBytes 4 (t.flags + 8 * bitNat d.top) ++ fs.flatMap (fun x => leBytes 4 x.toNat) ++
    List.replicate 16 0

/-! ### SWEEP2 (R305, R306) -/

/-- p_t of an entry in top-K mode (R310). -/
def cacheProb (d : OreDesc) (c : CacheRow) (v : Nat) : BitVec 32 :=
  match c.entries.find? fun e => e.2 = v with
  | some e => if d.spread then e.1 else fmul e.1 c.factor
  | none => if d.spread then c.factor else 0

/-- One gradient element. -/
def gradEntry (d : OreDesc) (ls lt klRev wc : BitVec 32) (target v : Nat) (zs zt : BitVec 32) (ptTop : Option (BitVec 32)) :
    BitVec 32 :=
  let us := fsub (fmul zs d.scaleT) ls
  let ut := fsub (fmul zt d.scaleT) lt
  let ps := fexp2 us
  let pt := ptTop.getD (fexp2 ut)
  let g0 : BitVec 32 := if ordEq d.wFwd 0 then 0 else fmul d.wFwd (fsub ps pt)
  let g1 := if ordEq d.wRev 0 then g0 else ffma d.wRev (fmul ps (fsub (fmul (fsub us ut) ln2F) klRev)) g0
  if ordEq wc 0 then g1 else ffma wc (fsub ps (if v = target then oneF else 0)) g1

/-! ### The commands -/

/-- A logit as binary32. -/
def logitsOf (d : OreDesc) (b : List Byte) : List (BitVec 32) :=
  if d.logitF32 then (unpackCodes .f32 b).map (BitVec.ofNat 32)
  else (unpackCodes .bf16 b).map fun x => widenBf16 (BitVec.ofNat 16 x)

/-- What an Ore Pass command works with. -/
structure OreCtx where
  d : OreDesc
  /-- Base of the pass-buffer area. -/
  base : Nat
  head : SpanHeader
  deriving DecidableEq, Repr

/-- The span state of the descriptor agrees with it (R294). -/
def OreCtx.agrees (x : OreCtx) : Bool :=
  decide (x.head.tokens = x.d.tokens) && decide (x.head.mode = x.d.mode) && decide (x.head.k = x.d.k) &&
    decide (x.head.vocab = x.d.vocab)

/-- Run an Ore Pass command: `isOpen` for SPAN_OPEN, `stage` for STAGE; `cond` is its own condition of R294. -/
def runOre (l : Fin 4) (e opcode : Nat) (isOpen stage : Bool) (cond : OreCtx → Bool) (s : State)
    (body : State → Cmd → OreCtx → Acc → Acc × List Contribution) : Result :=
  s.dispatch l e isOreEng opcode fun s r c =>
    let d := OreDesc.ofNat (r.img.descNat r.en 128)
    let (base, size) := s.passArea l
    let (hb, a) := readHub s .empty (base + d.state) 64
    let x : OreCtx := ⟨d, base, SpanHeader.ofBytes hb⟩
    if d.ok size stage && (isOpen || x.agrees) && cond x then
      let (a, ct) := body s c x (if isOpen then .empty else a)
      s.launch c a ct .none
    else s.invalidDesc c

/-- Token `r` of the span. -/
def OreCtx.tokenAt (x : OreCtx) (r : Nat) : Nat := x.base + x.d.state + 64 + 128 * r

/-- Cache row of token `r`. -/
def OreCtx.cacheAt (x : OreCtx) (r : Nat) : Nat := x.base + x.d.topk + r * x.d.cacheRow

/-- Read a token state. -/
def readToken (s : State) (x : OreCtx) (a : Acc) (r : Nat) : TokenState × Acc :=
  let (b, a) := readHub s a (x.tokenAt r) 128
  (TokenState.ofBytes b, a)

/-- Read the columns below the chunk's width of row `r` of a tile. -/
def readTile (s : State) (x : OreCtx) (a : Acc) (tile r : Nat) : List (BitVec 32) × Acc :=
  let (b, a) := readHub s a (x.base + tile + r * 4096 * x.d.e) (x.d.width * x.d.e)
  (logitsOf x.d b, a)

/-- SPAN_OPEN (R299): the header, the token states, and in top-K mode an empty cache. -/
def execSpanOpen (l : Fin 4) (e : Nat) (s : State) : Result :=
  runOre l e 0x01 true false (fun _ => true) s fun s c x a =>
    let d := x.d
    let a := writeHub a 0 (x.base + d.state) (SpanHeader.bytes ⟨0, d.vocab, d.tokens, d.k, d.mode, false⟩)
    let a := (List.range d.tokens).foldl (fun a r =>
      let (b, a) := readCore s c a d.dstCore (d.target + 4 * r) 4
      let y := leNat b
      let t : TokenState :=
        { mtT := none, mt1 := none, msT := none, ms1 := none, stT := .zero, st1 := .zero, ssT := .zero, ss1 := .zero,
          xf := .zero, xr := .zero, zt := 0, zs := 0, target := BitVec.ofNat 32 y, masked := decide (y = 0xFFFFFFFF),
          nonfinite := false, badTarget := decide (y ≠ 0xFFFFFFFF) && decide (d.vocab ≤ y) }
      let a := writeHub (writeHub a 0 (x.tokenAt r) t.parts.1) 0 (x.tokenAt r + 0x60) t.parts.2
      if d.top then writeHub a 0 (x.cacheAt r) (List.replicate 16 0) else a) a
    (a, [])

/-- STAGE (R298): source elements copied bit for bit into tile columns, row by row. -/
def execStage (l : Fin 4) (e : Nat) (s : State) : Result :=
  runOre l e 0x02 false true (fun _ => true) s fun s c x a =>
    let d := x.d
    let tile := if d.student then d.studentTile else d.teacher
    ((List.range d.tokens).foldl (fun a r =>
      let (b, a) := readCore s c a d.srcCore (d.src + r * d.srcStride) (d.colCount * d.e) (!d.student)
      writeHub a r (x.base + tile + (r * 4096 + d.colFirst) * d.e) b) a, [])

/-- SWEEP1 (R300): the next chunk only; NEXT_CHUNK rises when every token is done. -/
def execSweep1 (l : Fin 4) (e : Nat) (s : State) : Result :=
  runOre l e 0x03 false false (fun x => decide (x.d.chunk = x.head.next)) s fun s _ x a =>
    let d := x.d
    let a := (List.range d.tokens).foldl (fun a r =>
      let (t, a) := readToken s x a r
      if t.out then a
      else
        let (zt, a) := readTile s x a d.teacher r
        let (zs, a) := readTile s x a d.studentTile r
        let t' := sweepToken d t zt zs
        let a := writeHub a r (x.tokenAt r) t'.bytes
        if d.top && !t'.nonfinite then
          let (cb, a) := readHub s a (x.cacheAt r) d.cacheRow
          let row := CacheRow.ofBytes cb
          writeHub a r (x.cacheAt r) { row with entries := mergeTop d.k (4096 * d.chunk) row.entries zt }.bytes
        else a) a
    (writeHub a d.tokens (x.base + d.state) (leBytes 4 (x.head.next + 1)), [])

/-- FINALISE (R301, R302, R310): statistics to the student core, the cache prepared, FINAL set. -/
def execFinalise (l : Fin 4) (e : Nat) (s : State) : Result :=
  runOre l e 0x04 false false (fun x => decide (x.d.chunks ≤ x.head.next) && !x.head.final) s fun s c x a =>
    let d := x.d
    let a := (List.range d.tokens).foldl (fun a r =>
      let (t, a) := readToken s x a r
      let (res, a) := if d.top && !t.out then
          let (cb, a) := readHub s a (x.cacheAt r) d.cacheRow
          let (row, res) := finalCache d (lse2 t.mtT t.stT) (CacheRow.ofBytes cb)
          (res, writeHub a r (x.cacheAt r) row.bytes)
        else (0, a)
      writeCore s c a r d.dstCore (d.stats + 64 * r) (statRecord d t res)) a
    (writeHub a d.tokens (x.base + d.state) { x.head with final := true }.bytes, [])

/-- SWEEP2 (R305 to R307): one chunk of the gradient, one contribution. -/
def execSweep2 (l : Fin 4) (e : Nat) (s : State) : Result :=
  runOre l e 0x05 false false (fun x => x.head.final) s fun s c x a =>
    let d := x.d
    let enc : Encoding := if d.gradF32 then .f32 else .bf16
    let r := (List.range d.tokens).foldl (fun (acc : Acc × Contribution) r =>
      let (t, a) := readToken s x acc.1 r
      let (zs, a) := readTile s x a d.studentTile r
      let (zt, a) := if d.top then (([] : List (BitVec 32)), a) else readTile s x a d.teacher r
      let (cb, a) := if d.top then readHub s a (x.cacheAt r) d.cacheRow else (([] : List Byte), a)
      let row := CacheRow.ofBytes cb
      let (rec_, a) := readCore s c a d.dstCore (d.stats + 64 * r) 64
      let (wb, a) := if d.useWeight then readCore s c a d.dstCore (d.weight + 4 * r) 4 else (([] : List Byte), a)
      let w := BitVec.ofNat 32 (leNat wb)
      let wc := if d.useWeight then fmul d.wCe w else d.wCe
      let f (o : Nat) : BitVec 32 := BitVec.ofNat 32 (listLe rec_ o 4)
      let gs := (List.range d.width).map fun j =>
        if t.masked then 0#32
        else if t.nonfinite || t.badTarget || (d.useWeight && !isFinite32 w) then qnan
        else
          let v := 4096 * d.chunk + j
          gradEntry d (f 0x0C) (f 0x08) (f 0x24) wc t.target.toNat v (zs.getD j 0) (zt.getD j 0)
            (if d.top then some (cacheProb d row v) else none)
      let outs := gs.zipIdx.foldl (fun (o : List Nat × Contribution) g =>
        let y := convertNum enc ⟨false, false, false⟩ 0 (f32Num g.1)
        (y.code :: o.1, o.2.converted enc ⟨d.chunk, d.rowOrigin + r, 4096 * d.chunk + g.2⟩ y)) (([] : List Nat), acc.2)
      (writeCore s c a r d.dstCore (d.grad + r * d.gradStride) (outs.1.reverse.flatMap fun x => leBytes (elemBytes enc) x), outs.2))
      (a, Contribution.start d.tensor)
    (r.1, [r.2.count 13 1])

end Sys2Proof.Machine
end

