-- ==== Sys2Proof/Machine/Belt.lean ====
section
/-!
DEFINITION. Machine/Belt.lean: the Picking Belt: SAMPLE (R320 to R328), ROUTE (R329, R330, R230 to R234) and DETECT (R331 to
R334).
-/
namespace Sys2Proof.Machine

/-- BELT (R62). -/
def isBelt (e : Nat) : Bool := e = 0x38

/-! ### SAMPLE: descriptor and inputs -/

/-- A SAMPLE descriptor (R320). -/
structure SampleDesc where
  rows : Nat
  f32 : Bool
  countUpdate : Bool
  form : Nat
  vocab : Nat
  segs : Nat
  tokenCores : Nat
  maskCores : Nat
  segAddr : Nat
  rowAddr : Nat
  result : Nat
  token : Nat
  mask : Nat
  reservedOk : Bool
  deriving DecidableEq, Repr

/-- Fields of a SAMPLE descriptor. -/
def sampleFields : List (Nat × Nat) := [(0, 47), (48, 204)]

/-- Read a SAMPLE descriptor. -/
def SampleDesc.ofNat (d : Nat) : SampleDesc :=
  { rows := bitField d 0 17, f32 := bitAt d 17, countUpdate := bitAt d 18, form := bitField d 19 2, vocab := bitField d 21 21,
    segs := bitField d 42 5, tokenCores := bitField d 48 16, maskCores := bitField d 64 16, segAddr := bitField d 80 40,
    rowAddr := bitField d 120 40, result := bitField d 160 40, token := bitField d 200 26, mask := bitField d 226 26,
    reservedOk := reservedClear d sampleFields }

/-- A logit segment (R321). -/
structure Segment where
  core : Nat
  addr : Nat
  stride : Nat
  first : Nat
  cols : Nat
  ok : Bool
  deriving DecidableEq, Repr

/-- Read a segment. -/
def Segment.ofNat (d : Nat) : Segment :=
  { core := bitField d 0 4, addr := bitField d 4 26, stride := bitField d 30 24, first := bitField d 64 20, cols := bitField d 84 17,
    ok := reservedClear d [(0, 54), (64, 37)] && inRange (bitField d 84 17) 1 65536 }

/-- The segments cover columns 0 to V - 1 exactly once: they are disjoint, lie below V, and their columns number V. -/
def segmentsCover (v : Nat) (segs : List Segment) : Bool :=
  segs.all (fun g => g.ok && decide (g.first + g.cols ≤ v)) && decide (segs.foldl (fun n g => n + g.cols) 0 = v) &&
    segs.zipIdx.all fun a => segs.zipIdx.all fun b =>
      decide (a.2 = b.2) || decide (a.1.first + a.1.cols ≤ b.1.first) || decide (b.1.first + b.1.cols ≤ a.1.first)

/-- The rules of R320, the segments apart. -/
def SampleDesc.ok (d : SampleDesc) : Bool :=
  d.reservedOk && inRange d.rows 1 65536 && decide (d.form < 3) && inRange d.vocab 1 1048576 && inRange d.segs 1 16 &&
    decide (d.segAddr % 16 = 0) && decide (d.rowAddr % 128 = 0) && decide (d.result % 16 = 0) && decide (d.mask % 32 = 0)

/-- Rows of one mask (R320). -/
def SampleDesc.span (d : SampleDesc) : Nat := if d.form = 0 then 128 else if d.form = 1 then 256 else 32

/-- A row record (R322). -/
structure RowRecord where
  handle : Nat
  position : Nat
  key : BitVec 64
  temp : BitVec 32
  topP : BitVec 32
  topK : Nat
  state : Nat
  histLen : Nat
  rep : BitVec 32
  pres : BitVec 32
  freq : BitVec 32
  generated : Nat
  maxNew : Nat
  countAddr : Nat
  countLen : Nat
  countCap : Nat
  biasLen : Nat
  nStopTok : Nat
  nStopSeq : Nat
  biasAddr : Nat
  stopAddr : Nat
  history : Nat
  deriving DecidableEq, Repr

/-- Read a row record. -/
def RowRecord.ofBytes (b : List Byte) : RowRecord :=
  let w (o : Nat) : BitVec 32 := BitVec.ofNat 32 (listLe b o 4)
  { handle := listLe b 0 4, position := listLe b 4 4, key := BitVec.ofNat 64 (listLe b 8 8), temp := w 0x10, topP := w 0x14,
    topK := listLe b 0x18 2, state := listLe b 0x1A 1, histLen := listLe b 0x1B 1, rep := w 0x1C, pres := w 0x20,
    freq := w 0x24, generated := listLe b 0x28 4, maxNew := listLe b 0x2C 4, countAddr := listLe b 0x30 8,
    countLen := listLe b 0x38 2, countCap := listLe b 0x3A 2, biasLen := listLe b 0x3C 2, nStopTok := listLe b 0x3E 1,
    nStopSeq := listLe b 0x3F 1, biasAddr := listLe b 0x40 8, stopAddr := listLe b 0x48 8, history := listLe b 0x50 40 }

/-- STOPPED. -/
def RowRecord.stopped (q : RowRecord) : Bool := bitAt q.state 0

/-- Sampling parameters invalid under R324. -/
def badParams (temp topP rep pres freq : BitVec 32) (topK maxNew : Nat) : Bool :=
  isNan32 temp || ordLt temp 0 || !(ordLt 0 topP && ordLe topP oneF) || decide (1024 < topK) || !(ordLt 0 rep && isFinite32 rep) ||
    !isFinite32 pres || !isFinite32 freq || decide (maxNew = 0)

/-- A row's bad parameters. -/
def RowRecord.bad (q : RowRecord) : Bool := badParams q.temp q.topP q.rep q.pres q.freq q.topK q.maxNew

/-- The lists of a row (R323). -/
structure RowLists where
  /-- (token, count), ascending. -/
  counts : List (Nat × Nat)
  /-- (token, bias), ascending; an entry whose token is not above that of the entry taken before it is ignored. -/
  biases : List (Nat × BitVec 32)
  stops : List Nat
  /-- Stop sequences, oldest token first. -/
  seqs : List (List Nat)
  deriving DecidableEq, Repr

/-- Read `n` entries of `w` bytes. -/
def readEntries (s : State) (c : Cmd) (a : Acc) (addr w n : Nat) : List Nat × Acc :=
  let (bs, a) := readNear s c a addr (w * n)
  ((List.range n).map fun i => listLe bs (w * i) w, a)

/-- Keep the entries whose token rises. -/
def risingBiases (es : List Nat) : List (Nat × BitVec 32) :=
  es.foldl (fun (r : List (Nat × BitVec 32)) e =>
    let t := e % 2 ^ 20
    match r.getLast? with
    | some p => if p.1 < t then r ++ [(t, BitVec.ofNat 32 (e / 2 ^ 32))] else r
    | none => [(t, BitVec.ofNat 32 (e / 2 ^ 32))]) []

/-- Read the lists that a row record points to. -/
def readLists (s : State) (c : Cmd) (a : Acc) (q : RowRecord) : RowLists × Acc :=
  let (cs, a) := readEntries s c a q.countAddr 4 q.countLen
  let (bs, a) := readEntries s c a q.biasAddr 8 q.biasLen
  let (ts, a) := readEntries s c a q.stopAddr 4 q.nStopTok
  let (seqs, a) := (List.range q.nStopSeq).foldl (fun (r : List (List Nat) × Acc) i =>
    let (ws, a) := readEntries s c r.2 (q.stopAddr + 64 + 68 * i) 4 17
    (r.1 ++ [(ws.drop 1).take (ws.getD 0 0)], a)) ([], a)
  (⟨cs.map fun e => (e % 2 ^ 20, e / 2 ^ 20), risingBiases bs, ts, seqs⟩, a)

/-- Read the logits of row `r`, in ascending column order (R321). -/
def readLogits (s : State) (c : Cmd) (a : Acc) (d : SampleDesc) (segs : List Segment) (r : Nat) : List (BitVec 32) × Acc :=
  let e := if d.f32 then 4 else 2
  let (parts, a) := segs.foldl (fun (p : List (Nat × List Byte) × Acc) g =>
    let (bs, a) := readCore s c p.2 g.core (g.addr + r * g.stride) (g.cols * e)
    (p.1 ++ [(g.first, bs)], a)) ([], a)
  let cols := (List.range d.vocab).filterMap fun v =>
    (parts.find? fun p => decide (p.1 ≤ v) && decide (v < p.1 + p.2.length / e)).map fun p => listLe p.2 (e * (v - p.1)) e
  (cols.map fun x => if d.f32 then BitVec.ofNat 32 x else widenBf16 (BitVec.ofNat 16 x), a)

/-! ### SAMPLE: the draw (R324, R325) -/

/-- The 32 random bits of a row (R325). -/
def drawBits (seed key : BitVec 64) (position : Nat) : Nat :=
  let h := mix64 (seed ^^^ (key * 0x9E3779B97F4A7C15#64) ^^^ 0x53414D5000000000#64)
  let h := mix64 (h ^^^ (BitVec.ofNat 64 position * 0xD1B54A32D192ED03#64))
  (h >>> 32).toNat

/-- u[v] of an entry after bias, penalties and temperature. -/
def adjusted (q : RowRecord) (ls : RowLists) (s : BitVec 32) (v : Nat) (z : BitVec 32) : BitVec 32 :=
  let z := match ls.biases.find? fun b => b.1 = v with
    | some b => fadd z b.2
    | none => z
  let z := match ls.counts.find? fun b => b.1 = v with
    | some (_, n) =>
      if n = 0 then z
      else
        let z := if ordLt 0 z then fdiv z q.rep else fmul z q.rep
        fsub (fsub z q.pres) (fmul q.freq (intF32 n))
    | none => z
  fmul z s

/-- +Inf as a code. -/
def infF : BitVec 32 := 0x7F800000#32

/-- An entry is eligible (R324). -/
def eligible (u : BitVec 32) : Bool := !isNan32 u && decide (u ≠ 0xFF800000#32)

/-- What SAMPLE finds for a row. -/
structure Drawn where
  token : Option Nat
  forced : Bool
  greedy : Bool
  truncated : Bool
  logp : BitVec 32
  logpTrunc : BitVec 32
  deriving DecidableEq, Repr

/-- The draw among candidates with running sums (R324): 2^32 * cum[j] > r * cum[n - 1], on exact values. -/
def drawAmong (cum : List Num) (n r : Nat) : Nat :=
  let top := cum.getD (n - 1) .nan
  let above (x : Num) : Bool :=
    match x, top with
    | .fin xn xm xe, .fin tn tm te =>
      let q := min xe te
      decide (scaledInt tn tm te q * (r : Int) < scaledInt xn xm xe q * 2 ^ 32)
    | _, _ => false
  ((cum.take n).findIdx? above).getD (n - 1)

/-- The sampling of one row from its adjusted values (R324). -/
def sampleRow (q : RowRecord) (seed : BitVec 64) (us : List (BitVec 32)) : Drawn :=
  let (m, zsum) := us.foldl (fun (r : RefExp × A96) u =>
    if isFinite32 u then
      let (m, z, _, _) := foldSum r.1 r.2 [u]
      (m, z)
    else r) (none, .zero)
  let kc := if 0 < q.topK then q.topK else 1024
  let cand := us.zipIdx.foldl (fun cs u => if eligible u.1 then (rankInsert u cs).take kc else cs) []
  let whole := lse2 m zsum
  let logOf (tok : Nat) (l : BitVec 32) : BitVec 32 := fmul (fsub (us.getD tok 0) l) ln2F
  match us.findIdx? (fun u => u = infF), cand with
  | some v, _ => ⟨some v, true, false, false, 0, 0⟩
  | none, [] => ⟨none, false, false, false, 0, 0⟩
  | none, c0 :: rest =>
    if ordEq q.temp 0 ∨ q.topK = 1 then ⟨some c0.2, false, true, false, logOf c0.2 whole, 0⟩
    else
      let cs := c0 :: rest
      let sums := (cs.foldl (fun (r : List A96 × A96) c =>
        let x := r.2.addF32 (fexp2 (fsub c.1 (intF32 (m.getD 0))))
        (r.1 ++ [x], x)) ([], A96.zero)).1
      let total := a96F32 zsum
      let reach := if ordEq q.topP oneF then none else sums.findIdx? fun x => ordLe q.topP (fdiv (a96F32 x) total)
      let n := match reach with
        | some j => j + 1
        | none => cs.length
      let r := drawBits seed q.key q.position
      let tok := (cs.getD (drawAmong (sums.map A96.num) n r) c0).2
      let kept := lse2 m (sums.getD (n - 1) .zero)
      ⟨some tok, false, false, !ordEq q.topP oneF && reach.isNone, logOf tok whole, logOf tok kept⟩

/-! ### SAMPLE: stops and writes (R326 to R328) -/

/-- The generated tokens held in HISTORY, newest first. -/
def RowRecord.past (q : RowRecord) : List Nat := fieldsOf 20 (min q.histLen 15) q.history

/-- Stop reason of a token and the matched sequence (R327). -/
def stopReason (q : RowRecord) (ls : RowLists) (tok : Nat) : Nat × Nat :=
  let said := (tok :: q.past)
  let hit := ls.seqs.findIdx? fun g =>
    decide (1 ≤ g.length) && decide (g.length ≤ 16) && decide (g.length ≤ said.length) && g.reverse = said.take g.length
  if ls.stops.contains tok then (1, 0xFF)
  else match hit with
    | some i => (2, i)
    | none => if q.generated + 1 = q.maxNew ∨ q.position + 1 = 4194304 then (3, 0xFF) else (0, 0xFF)

/-- A token enters the count list (R328): the list, and COUNT_FULL. -/
def countToken (cap tok : Nat) : List (Nat × Nat) → Nat → List (Nat × Nat) × Bool
  | [], len => if cap ≤ len then ([], true) else ([(tok, 1)], false)
  | (t, n) :: rest, len =>
    if t = tok then ((t, min 4095 (n + 1)) :: rest, false)
    else if tok < t then (if cap ≤ len then ((t, n) :: rest, true) else ((tok, 1) :: (t, n) :: rest, false))
    else
      let (r, full) := countToken cap tok rest len
      ((t, n) :: r, full)

/-- The bytes of a result record (R326). -/
def resultRecord (tok reason rflags seq : Nat) (logp logpTrunc : Nat) : List Byte :=
  leBytes 4 tok ++ leBytes 1 reason ++ leBytes 1 rflags ++ leBytes 1 seq ++ leBytes 1 0 ++ leBytes 4 logp ++ leBytes 4 logpTrunc

/-- A row without a token: its log-probabilities are free values. -/
def noTokenRecord (step r reason rflags : Nat) : List Byte :=
  let w := (Config.noTokenLogp step r).toNat
  resultRecord 0xFFFFFFFF reason rflags 0xFF (w % 2 ^ 32) (w / 2 ^ 32)

/-- What a row leaves: writes, its token for the arrays, and STOPPED after the command. -/
structure RowDone where
  acc : Acc
  token : Nat
  stopped : Bool

/-- Work one row (R324 to R328). -/
def workRow (s : State) (c : Cmd) (d : SampleDesc) (segs : List Segment) (seed : BitVec 64) (a : Acc) (r : Nat) : RowDone :=
  let at_ := d.rowAddr + 128 * r
  let (rb, a) := readNear s c a at_ 128
  let q := RowRecord.ofBytes rb
  let res := d.result + 16 * r
  let stop (a : Acc) (reason : Nat) : RowDone :=
    ⟨writeNear s c (writeNear s c a r (at_ + 0x1A) (leBytes 1 1)) r res (noTokenRecord c.step r reason 0), 0, true⟩
  if q.stopped then ⟨writeNear s c a r res (noTokenRecord c.step r 0 0x10), 0, true⟩
  else if q.bad then stop a 5
  else
    let (ls, a) := readLists s c a q
    let (zs, a) := readLogits s c a d segs r
    let scale := if ordLt 0 q.temp then fdiv log2eF q.temp else log2eF
    let us := zs.zipIdx.map fun z => adjusted q ls scale z.2 z.1
    let w := sampleRow q seed us
    match w.token with
    | none => stop a 4
    | some tok =>
      let (reason, seq) := stopReason q ls tok
      let (counts, full) := if d.countUpdate then countToken q.countCap tok ls.counts q.countLen else (ls.counts, false)
      let a := writeNear s c a r (at_ + 4) (leBytes 4 (q.position + 1))
      let a := writeNear s c a r (at_ + 0x1A) (leBytes 1 (if reason ≠ 0 then 1 else 0) ++ leBytes 1 (min 15 (q.histLen + 1)))
      let a := writeNear s c a r (at_ + 0x28) (leBytes 4 (q.generated + 1))
      let a := writeNear s c a r (at_ + 0x50) (leBytes 40 ((q.history * 2 ^ 20 + tok % 2 ^ 20) % 2 ^ 300))
      let a := if d.countUpdate && !full then
          let a := writeNear s c a r q.countAddr (counts.flatMap fun e => leBytes 4 (e.1 + e.2 * 2 ^ 20))
          writeNear s c a r (at_ + 0x38) (leBytes 2 counts.length)
        else a
      let rflags := (if w.truncated then 1 else 0) + (if full then 2 else 0) + (if w.forced then 4 else 0) +
        (if w.greedy then 8 else 0)
      ⟨writeNear s c a r res (resultRecord tok reason rflags seq w.logp.toNat w.logpTrunc.toNat), tok, decide (reason ≠ 0)⟩

/-- Cores named by a mask of sixteen bits. -/
def coresOf (m : Nat) : List Nat := (List.range 16).filter fun n => bitAt m n

/-- 32 mask bytes from the numbers of the set bits. -/
def maskOf (set : Nat → Bool) : List Byte :=
  (List.range 32).map fun i =>
    BitVec.ofNat 8 ((List.range 8).foldl (fun acc k => if set (8 * i + k) then acc + 2 ^ k else acc) 0)

/-- The decode batches whose row records a SAMPLE works on (R340). -/
def State.batchesAt (s : State) (l : Fin 4) (rowAddr : Nat) : List Nat :=
  match (s.lvl l).job with
  | some j => (List.range j.decl.batches.length).filter fun i => listLe (j.decl.batches.getD i default).raw 0x20 8 = rowAddr
  | none => []

/-- SAMPLE (R320 to R328); its completion is its batch's step boundary (R340). -/
def execSample (l : Fin 4) (e : Nat) (s : State) : Result :=
  s.dispatch l e isBelt 0x01 fun s r c =>
    let d := SampleDesc.ofNat (r.img.descNat r.en 64)
    let (sb, a) := readNear s c .empty d.segAddr (16 * d.segs)
    let segs := (List.range d.segs).map fun i => Segment.ofNat (listLe sb (16 * i) 16)
    if d.ok && segmentsCover d.vocab segs then
      let (a, stops) := (List.range d.rows).foldl (fun (p : Acc × List Bool) i =>
        let w := workRow s c d segs r.job.seed p.1 i
        let a := (coresOf d.tokenCores).foldl (fun a n => writeCore s c a i n (d.token + 4 * i) (leBytes 4 w.token)) w.acc
        (a, p.2 ++ [w.stopped])) (a, [])
      let a := (List.range (ceilDiv d.rows d.span)).foldl (fun a g =>
        let bits := maskOf fun k => decide (k < d.span) && stops.getD (g * d.span + k) false
        (coresOf d.maskCores).foldl (fun a n =>
          writeCore s c a (min ((g + 1) * d.span) d.rows - 1) n (d.mask + 32 * g) bits) a) a
      (s.countReads a.weak).launch c a [] (match s.batchesAt l d.rowAddr with
        | [] => .none
        | bs => .boundary bs (r.step + r.job.firstStep) r.en.cycle)
    else s.invalidDesc c

/-! ### ROUTE (R329, R330, R230 to R234) -/

/-- A ROUTE descriptor. -/
structure RouteDesc where
  experts : Nat
  k : Nat
  f32 : Bool
  gate : Nat
  useBias : Bool
  useMask : Bool
  form : Nat
  tokens : Nat
  srcCore : Nat
  src : Nat
  stride : Nat
  capacity : Nat
  map : Nat
  bias : Nat
  revCore : Nat
  rev : Nat
  tmask : Nat
  scale : BitVec 32
  reservedOk : Bool
  deriving DecidableEq, Repr

/-- Fields of a ROUTE descriptor. -/
def routeFields : List (Nat × Nat) := [(0, 254), (256, 32)]

/-- Read a ROUTE descriptor. -/
def RouteDesc.ofNat (d : Nat) : RouteDesc :=
  { experts := bitField d 0 13, k := bitField d 13 4, f32 := bitAt d 17, gate := bitField d 18 2, useBias := bitAt d 20,
    useMask := bitAt d 21, form := bitField d 22 2, tokens := bitField d 24 23, srcCore := bitField d 47 4,
    src := bitField d 51 26, stride := bitField d 77 24, capacity := bitField d 101 17, map := bitField d 118 40,
    bias := bitField d 158 40, revCore := bitField d 198 4, rev := bitField d 202 26, tmask := bitField d 228 26,
    scale := BitVec.ofNat 32 (bitField d 256 32), reservedOk := reservedClear d routeFields }

/-- The rules of R329. -/
def RouteDesc.ok (d : RouteDesc) : Bool :=
  d.reservedOk && inRange d.experts 1 4096 && inRange d.k 1 8 && decide (d.k ≤ d.experts) && decide (d.gate < 3) &&
    decide (d.form < 3) && inRange d.tokens 1 4194304 && inRange d.capacity 1 65536

/-- Slots of one mask (R231). -/
def RouteDesc.span (d : RouteDesc) : Nat := if d.form = 0 then 128 else if d.form = 1 then 256 else 32

/-- lse2 of a set of logits, none where its sum has no value: an entry is +Inf, or none is finite. -/
def setLse2 (gs : List (BitVec 32)) : Option (BitVec 32) :=
  let us := gs.map fun g => fmul g log2eF
  if us.any (fun u => u = infF) || us.all (fun u => !isFinite32 u) then none
  else
    let fin := us.filter fun u => isFinite32 u
    let (m, z, _, _) := foldSum none .zero fin
    some (lse2 m z)

/-- The choices and gates of a token, by rank (R330). -/
def routeToken (d : RouteDesc) (biases : List (BitVec 32)) (gs : List (BitVec 32)) : List (Nat × BitVec 32) :=
  let ss := if d.useBias then gs.zipIdx.map fun g => fadd g.1 (biases.getD g.2 0) else gs
  let best := ss.zipIdx.foldl (fun cs x => (rankInsert x cs).take d.k) []
  let nan := (gs ++ ss).any isNan32
  let chosen := best.map fun b => gs.getD b.2 0
  let set := setLse2 (if d.gate = 0 then gs else chosen)
  best.zipIdx.map fun b =>
    let g := gs.getD b.1.2 0
    let raw := if d.gate = 2 then fdiv oneF (fadd oneF (fexp2 (fmul (fneg g) log2eF)))
      else match set with
        | some l => fexp2 (fsub (fmul g log2eF) l)
        | none => Config.openGate gs b.2
    (b.1.2, if nan then qnan else fmul raw d.scale)

/-- The slots of an expert: (token, rank, gate), and how many choices it dropped. -/
structure SlotTable where
  slots : List (Nat × Nat × BitVec 32)
  dropped : Nat
  deriving DecidableEq, Repr

/-- Fill the tables choice-major (R230): the tables by expert, and the reverse entries by token and rank. -/
def fillSlots (d : RouteDesc) (choices : List (List (Nat × BitVec 32))) : Tab SlotTable × Tab Nat :=
  let none_ : SlotTable := ⟨[], 0⟩
  (List.range d.k).foldl (fun r rank =>
    choices.zipIdx.foldl (fun (r : Tab SlotTable × Tab Nat) c =>
      match c.1[rank]? with
      | some (e, gate) =>
        let t := tabGet none_ r.1 e
        if t.slots.length < d.capacity then
          (tabPut none_ r.1 e { t with slots := t.slots ++ [(c.2, rank, gate)] },
            tabPut 0xFFFFFFFF r.2 (c.2 * d.k + rank) (e + t.slots.length * 2 ^ 16))
        else (tabPut none_ r.1 e { t with dropped := t.dropped + 1 }, r.2)
      | none => r) r) ([], [])

/-- The bytes of a slot table (R231, R232). -/
def SlotTable.bytes (t : SlotTable) (d : RouteDesc) (expert step : Nat) : List Byte :=
  leBytes 2 expert ++ leBytes 1 d.form ++ leBytes 1 0 ++ leBytes 4 d.capacity ++ leBytes 4 t.slots.length ++ leBytes 4 t.dropped ++
    leBytes 8 step ++ List.replicate 40 0 ++
    ((List.range (ceilDiv d.capacity d.span)).flatMap fun g =>
      maskOf fun k => decide (k < d.span) && decide (t.slots.length ≤ g * d.span + k)) ++
    (List.range d.capacity).flatMap fun i =>
      match t.slots[i]? with
      | some (tok, rank, gate) => leBytes 4 (tok % 2 ^ 22 + rank * 2 ^ 22 + 2 ^ 31) ++ leBytes 4 gate.toNat
      | none => List.replicate 8 0

/-- ROUTE: the fill writes every slot, mask and reverse entry once scoring has ended (R234, R319). -/
def execRoute (l : Fin 4) (e : Nat) (s : State) : Result :=
  s.dispatch l e isBelt 0x02 fun s r c =>
    let d := RouteDesc.ofNat (r.img.descNat r.en 64)
    if d.ok then
      let w := if d.f32 then 4 else 2
      let (tm, a) := if d.useMask then readCore s c .empty d.srcCore d.tmask (ceilDiv d.tokens 8) else ([], .empty)
      let (bs, a) := if d.useBias then readEntries s c a d.bias 4 d.experts else ([], a)
      let biases := bs.map (BitVec.ofNat 32)
      let (choices, a) := (List.range d.tokens).foldl (fun (p : List (List (Nat × BitVec 32)) × Acc) t =>
        if d.useMask && bitAt (tm.getD (t / 8) 0).toNat (t % 8) then (p.1 ++ [[]], p.2)
        else
          let (lb, a) := readCore s c p.2 d.srcCore (d.src + t * d.stride) (w * d.experts)
          let gs := (List.range d.experts).map fun i =>
            if d.f32 then BitVec.ofNat 32 (listLe lb (4 * i) 4) else widenBf16 (BitVec.ofNat 16 (listLe lb (2 * i) 2))
          (p.1 ++ [routeToken d biases gs], a)) ([], a)
      let (tables, rev) := fillSlots d choices
      let (map, a) := readEntries s c a d.map 8 d.experts
      let at_ := ceilDiv d.tokens 64
      let a := map.zipIdx.foldl (fun a m =>
        writeCore s c a at_ (bitField m.1 0 4) (bitField m.1 4 26) ((tabGet ⟨[], 0⟩ tables m.2).bytes d m.2 c.step)) a
      let a := writeCore s c a at_ d.revCore d.rev
        ((List.range (d.tokens * d.k)).flatMap fun i => leBytes 4 (tabGet 0xFFFFFFFF rev i))
      (s.countReads a.weak).launch c a [] .none
    else s.invalidDesc c

/-! ### DETECT (R331 to R334) -/

/-- A DETECT descriptor. -/
structure DetectDesc where
  images : Nat
  n : Nat
  classes : Nat
  f32 : Bool
  deltas : Bool
  aware : Bool
  bg : Nat
  preK : Nat
  maxOut : Nat
  scoreMin : BitVec 32
  iou : BitVec 32
  clamp : BitVec 32
  var : List (BitVec 32)
  box : Nat
  anchor : Nat
  score : Nat
  out : Nat
  reservedOk : Bool
  deriving DecidableEq, Repr

/-- Fields of a DETECT descriptor. -/
def detectFields : List (Nat × Nat) := [(0, 94), (96, 384)]

/-- Read a DETECT descriptor. -/
def DetectDesc.ofNat (d : Nat) : DetectDesc :=
  let w (o : Nat) : BitVec 32 := BitVec.ofNat 32 (bitField d o 32)
  { images := bitField d 0 13, n := bitField d 13 21, classes := bitField d 34 11, f32 := bitAt d 45, deltas := bitAt d 46,
    aware := bitAt d 47, bg := bitField d 48 16, preK := bitField d 64 17, maxOut := bitField d 81 13, scoreMin := w 96,
    iou := w 128, clamp := w 160, var := [w 192, w 224, w 256, w 288], box := bitField d 320 40, anchor := bitField d 360 40,
    score := bitField d 400 40, out := bitField d 440 40, reservedOk := reservedClear d detectFields }

/-- The rules of R331. -/
def DetectDesc.ok (d : DetectDesc) : Bool :=
  d.reservedOk && inRange d.images 1 4096 && inRange d.n 1 1048576 && inRange d.classes 1 1024 && inRange d.preK 1 65536 &&
    inRange d.maxOut 1 4096

/-- A box by its corners. -/
structure Box where
  x1 : BitVec 32
  y1 : BitVec 32
  x2 : BitVec 32
  y2 : BitVec 32
  deriving DecidableEq, Repr, Inhabited

/-- binary32 maximum and minimum (R184). -/
def fmaxB (x y : BitVec 32) : BitVec 32 := (maxCand (x, 0) (y, 1)).1

/-- binary32 minimum (R184). -/
def fminB (x y : BitVec 32) : BitVec 32 := (minCand (x, 0) (y, 1)).1

/-- One half. -/
def halfF : BitVec 32 := 0x3F000000#32

/-- Minus one half. -/
def minusHalfF : BitVec 32 := 0xBF000000#32

/-- The corners of a candidate (R332); the halving is exact, so that each corner is rounded once. -/
def DetectDesc.decodeBox (d : DetectDesc) (b anchor : List (BitVec 32)) : Box :=
  let g (xs : List (BitVec 32)) (i : Nat) : BitVec 32 := xs.getD i 0
  if d.deltas then
    let centre (i : Nat) : BitVec 32 := fadd (g anchor i) (fmul (fmul (g b i) (g d.var i)) (g anchor (i + 2)))
    let size (i : Nat) : BitVec 32 := fmul (g anchor i) (fexp2 (fmul (fminB (fmul (g b i) (g d.var i)) d.clamp) log2eF))
    let at_ (half : BitVec 32) (i : Nat) : BitVec 32 := ffma (size (i + 2)) half (centre i)
    ⟨at_ minusHalfF 0, at_ minusHalfF 1, at_ halfF 0, at_ halfF 1⟩
  else ⟨g b 0, g b 1, g b 2, g b 3⟩

/-- Every corner is finite. -/
def Box.finite (b : Box) : Bool := [b.x1, b.y1, b.x2, b.y2].all isFinite32

/-- The area of a box (R333). -/
def Box.area (b : Box) : BitVec 32 := fmul (fmaxB 0 (fsub b.x2 b.x1)) (fmaxB 0 (fsub b.y2 b.y1))

/-- Intersection over union (R333). -/
def boxIou (a b : Box) : BitVec 32 :=
  let w := fmaxB 0 (fsub (fminB a.x2 b.x2) (fmaxB a.x1 b.x1))
  let h := fmaxB 0 (fsub (fminB a.y2 b.y2) (fmaxB a.y1 b.y1))
  let inter := fmul w h
  let union := fsub (fadd a.area b.area) inter
  if ordLt 0 union then fdiv inter union else 0

/-- Pairs in order, the first PRE_K of them, suppressed (R333): kept (score, pair index). -/
def DetectDesc.keep (d : DetectDesc) (boxes : List Box) (pairs : List (BitVec 32 × Nat)) : List (BitVec 32 × Nat) :=
  pairs.foldl (fun kept p =>
    if d.maxOut ≤ kept.length then kept
    else
      let b := boxes.getD (p.2 / d.classes) default
      let clash := kept.any fun k =>
        (!d.aware || decide (k.2 % d.classes = p.2 % d.classes)) && ordLt d.iou (boxIou (boxes.getD (k.2 / d.classes) default) b)
      if clash then kept else kept ++ [p]) []

/-- The output of one image (R334). -/
def DetectDesc.output (d : DetectDesc) (boxes : List Box) (kept : List (BitVec 32 × Nat)) (above bad : Nat) : List Byte :=
  leBytes 4 kept.length ++ leBytes 4 above ++ leBytes 4 bad ++ leBytes 4 0 ++
    (List.range d.maxOut).flatMap fun j =>
      match kept[j]? with
      | some (score, p) =>
        let b := boxes.getD (p / d.classes) default
        ([b.x1, b.y1, b.x2, b.y2, score].flatMap fun x => leBytes 4 x.toNat) ++ leBytes 2 (p % d.classes) ++ leBytes 2 0 ++
          leBytes 4 (p / d.classes) ++ leBytes 4 0
      | none => List.replicate 32 0

/-- Four binary32 values of each candidate. -/
def readQuads (s : State) (c : Cmd) (a : Acc) (addr n : Nat) : List (List (BitVec 32)) × Acc :=
  let (ws, a) := readEntries s c a addr 4 (4 * n)
  (runsOf 4 n (ws.map (BitVec.ofNat 32)), a)

/-- DETECT. -/
def execDetect (l : Fin 4) (e : Nat) (s : State) : Result :=
  s.dispatch l e isBelt 0x03 fun s r c =>
    let d := DetectDesc.ofNat (r.img.descNat r.en 64)
    if d.ok then
      let (anchors, a) := if d.deltas then readQuads s c .empty d.anchor d.n else ([], .empty)
      let w := if d.f32 then 4 else 2
      let a := (List.range d.images).foldl (fun a i =>
        let (raw, a) := readQuads s c a (d.box + 16 * d.n * i) d.n
        let (ss, a) := readEntries s c a (d.score + d.n * d.classes * w * i) w (d.n * d.classes)
        let boxes := raw.zipIdx.map fun b => d.decodeBox b.1 (anchors.getD b.2 [])
        let scores := ss.map fun x => if d.f32 then BitVec.ofNat 32 x else widenBf16 (BitVec.ofNat 16 x)
        let pairs := scores.zipIdx.filter fun p =>
          decide (p.2 % d.classes ≠ d.bg) && ordLe d.scoreMin p.1 && (boxes.getD (p.2 / d.classes) default).finite
        let best := pairs.foldl (fun cs p => (rankInsert p cs).take d.preK) []
        writeNear s c a i (d.out + (16 + 32 * d.maxOut) * i)
          (d.output boxes (d.keep boxes best) pairs.length (boxes.countP fun b => !b.finite))) a
      (s.countReads a.weak).launch c a [] .none
    else s.invalidDesc c

end Sys2Proof.Machine
end

