-- ==== Sys2Proof/Machine/Copy.lean ====
section
/-!
DEFINITION. Machine/Copy.lean: the copy engines: MOVE, ZRC_PACK, ZRC_UNPACK and FILL (R402 to R404, R237 to R240) and
TAP_GATHER (R268 to R273).
-/
namespace Sys2Proof.Machine

/-- COPY_0 to COPY_31 (R62). -/
def isCopyEng (e : Nat) : Bool := 0x40 ≤ e && decide (e < 0x60)

/-! ### Copy descriptors (R403) -/

/-- A copy descriptor. -/
structure CopyDesc where
  srcKind : Nat
  dstKind : Nat
  srcCore : Nat
  dstCore : Nat
  src : Nat
  dst : Nat
  rowBytes : Nat
  srcStride : Nat
  dstStride : Nat
  rows : Nat
  fillValue : Nat
  reservedOk : Bool
  deriving DecidableEq, Repr

/-- Fields of a copy descriptor. -/
def copyFields : List (Nat × Nat) :=
  [(0, 2), (2, 2), (4, 4), (8, 4), (12, 40), (52, 40), (92, 24), (116, 24), (140, 24), (164, 20), (184, 32)]

/-- Read a copy descriptor. -/
def CopyDesc.ofNat (d : Nat) : CopyDesc :=
  { srcKind := bitField d 0 2, dstKind := bitField d 2 2, srcCore := bitField d 4 4, dstCore := bitField d 8 4,
    src := bitField d 12 40, dst := bitField d 52 40, rowBytes := bitField d 92 24, srcStride := bitField d 116 24,
    dstStride := bitField d 140 24, rows := bitField d 164 20, fillValue := bitField d 184 32,
    reservedOk := reservedClear d copyFields }

/-- Bytes of a ZRC row's reserved range (R239). -/
def zrcRange (rowBytes : Nat) : Nat := rowBytes * 136 / 128

/-- What a copy opcode does with a row. -/
inductive CopyOp where
  | move
  | pack
  | unpack
  | fill
  deriving DecidableEq, Repr

/-- The rules of R403. -/
def CopyDesc.ok (d : CopyDesc) (op : CopyOp) : Bool :=
  let zrc := decide (op = .pack) || decide (op = .unpack)
  let unit := if zrc then 64 else 8
  let packed := if op = .pack then d.dstStride else d.srcStride
  d.reservedOk && decide (d.srcKind < 2) && decide (d.dstKind < 2) && (decide (op ≠ .fill) || decide (d.srcKind = 0)) &&
    (decide (d.srcKind = 1) || decide (d.src < 2 ^ 26)) && (decide (d.dstKind = 1) || decide (d.dst < 2 ^ 26)) &&
    decide (d.rowBytes ≠ 0) && decide (d.rows ≠ 0) && [d.src, d.dst, d.srcStride, d.dstStride].all (fun x => x % unit = 0) &&
    (!zrc || (decide (d.rowBytes % 128 = 0) && decide (zrcRange d.rowBytes ≤ packed)))

/-! ### Rows -/

/-- A copy in progress: the memories with the command's earlier writes made, so that a later read finds them where source
and destination overlap (R404), and what has been done. -/
structure Copying where
  mem : State
  acc : Acc
  /-- Source row addresses whose ZRC form is wrong (R240). -/
  badRows : List Nat

/-- Read source bytes. -/
def Copying.read (k : Copying) (c : Cmd) (d : CopyDesc) (addr n : Nat) : List Byte × Copying :=
  let (bs, a) := readLocal k.mem c k.acc (d.srcKind = 1) d.srcCore addr n
  (bs, { k with acc := a })

/-- Write destination bytes of row `i`. -/
def Copying.write (k : Copying) (c : Cmd) (d : CopyDesc) (i addr : Nat) (bs : List Byte) : Copying :=
  let a := writeLocal k.mem c { k.acc with writes := [] } i (d.dstKind = 1) d.dstCore addr bs
  { k with mem := k.mem.applyWrites a.writes.reverse, acc := { a with writes := a.writes ++ k.acc.writes } }

/-- The pieces of 256 bytes of a row: offset and length (R404). -/
def rowPieces (n : Nat) : List (Nat × Nat) := (List.range (ceilDiv n 256)).map fun k => (256 * k, min 256 (n - 256 * k))

/-- One ZRC segment of 64 elements (R237). -/
def zrcSegment (bs : List Byte) : List Byte :=
  let codes := (List.range 64).map fun i => listLe bs (2 * i) 2
  let bits := codes.zipIdx.foldl (fun acc p => if p.1 = 0 then acc else acc + 2 ^ p.2) 0
  let body := (codes.filter fun x => x ≠ 0).flatMap (leBytes 2)
  leBytes 8 bits ++ body ++ List.replicate ((8 - body.length % 8) % 8) 0

/-- Row `i` of a MOVE. -/
def moveRow (c : Cmd) (d : CopyDesc) (k : Copying) (i : Nat) : Copying :=
  (rowPieces d.rowBytes).foldl (fun k p =>
    let (bs, k) := k.read c d (d.src + i * d.srcStride + p.1) p.2
    k.write c d i (d.dst + i * d.dstStride + p.1) bs) k

/-- Row `i` of a FILL: the pattern starts anew in each row. -/
def fillRow (c : Cmd) (d : CopyDesc) (k : Copying) (i : Nat) : Copying :=
  let pat := leBytes 4 d.fillValue
  (rowPieces d.rowBytes).foldl (fun k p =>
    k.write c d i (d.dst + i * d.dstStride + p.1) ((List.range p.2).map fun j => pat.getD (j % 4) 0)) k

/-- Row `i` of a ZRC_PACK: only the encoded bytes are written (R404). -/
def packRow (c : Cmd) (d : CopyDesc) (k : Copying) (i : Nat) : Copying :=
  ((rowPieces d.rowBytes).foldl (fun (r : Copying × Nat) p =>
    let (bs, k) := r.1.read c d (d.src + i * d.srcStride + p.1) p.2
    let enc := (List.range (p.2 / 128)).flatMap fun g => zrcSegment (listSlice bs (128 * g) 128)
    (k.write c d i (d.dst + i * d.dstStride + r.2) enc, r.2 + enc.length)) (k, 0)).1

/-- Put the present codes of a segment back in place (R238). -/
def zrcExpand (bits : Nat) (codes : List Byte) : List Byte :=
  ((List.range 64).foldl (fun (r : List Byte × List Byte) i =>
    if bitAt bits i then (r.1 ++ [r.2.getD 0 0, r.2.getD 1 0], r.2.drop 2) else (r.1 ++ [0, 0], r.2)) ([], codes)).1

/-- Row `i` of a ZRC_UNPACK: a row with non-zero padding is not written (R240). A segment takes at most 136 bytes, so the
segments of a row never overrun its reserved range. -/
def unpackRow (c : Cmd) (d : CopyDesc) (k : Copying) (i : Nat) : Copying :=
  let base := d.src + i * d.srcStride
  let (k, out, _, good) := (List.range (d.rowBytes / 128)).foldl
    (fun (r : Copying × List Byte × Nat × Bool) _ =>
      let (k, out, off, good) := r
      let (pw, k) := k.read c d (base + off) 8
      let bits := leNat pw
      let n := 2 * (List.range 64).countP fun j => bitAt bits j
      let padded := ceilDiv n 8 * 8
      let (body, k) := k.read c d (base + off + 8) padded
      (k, out ++ zrcExpand bits (body.take n), off + 8 + padded, good && allZero (body.drop n)))
    (k, [], 0, true)
  if good then k.write c d i (d.dst + i * d.dstStride) out
  else { k with badRows := k.badRows ++ [base] }

/-- One row of a copy. -/
def copyRow (op : CopyOp) : Cmd → CopyDesc → Copying → Nat → Copying :=
  match op with
  | .move => moveRow
  | .pack => packRow
  | .unpack => unpackRow
  | .fill => fillRow

/-- Dispatch a copy command: rows in ascending order (R404); reads of near memory that the devices report as corrected are counted
(R400). -/
def runCopy (l : Fin 4) (e opcode : Nat) (op : CopyOp) (s : State) : Result :=
  s.dispatch l e isCopyEng opcode fun s r c =>
    let d := CopyDesc.ofNat (r.img.descNat r.en 64)
    if d.ok op then
      let k := (List.range d.rows).foldl (copyRow op c d) ⟨s, .empty, []⟩
      let s := (s.countReads k.acc.weak).launch c k.acc [] .none
      k.badRows.foldl (fun (s : State) row => (s.raise 0x3005 (some l) c.eng 0 c.entry row).contain l) s
    else s.invalidDesc c

/-- MOVE (R402). -/
def execMove (l : Fin 4) (e : Nat) (s : State) : Result := runCopy l e 0x01 .move s

/-- ZRC_PACK (R237, R402). -/
def execZrcPack (l : Fin 4) (e : Nat) (s : State) : Result := runCopy l e 0x02 .pack s

/-- ZRC_UNPACK (R238, R240, R402). -/
def execZrcUnpack (l : Fin 4) (e : Nat) (s : State) : Result := runCopy l e 0x03 .unpack s

/-- FILL (R402). -/
def execFill (l : Fin 4) (e : Nat) (s : State) : Result := runCopy l e 0x04 .fill s

/-! ### Tap gathering (R268 to R273) -/

/-- A gather descriptor (R269). -/
structure GatherDesc where
  srcKind : Nat
  wide : Bool
  enc : Nat
  half : Bool
  transposed : Bool
  inScale : Nat
  f : Nat
  useInMask : Bool
  writeOutMask : Bool
  srcCore : Nat
  dstCore : Nat
  kh : Nat
  kw : Nat
  sy : Nat
  sx : Nat
  dy : Nat
  dx : Nat
  padT : Nat
  padL : Nat
  inH : Nat
  inW : Nat
  inC : Nat
  groups : Nat
  group : Nat
  oh : Nat
  ow : Nat
  oy0 : Nat
  ox0 : Nat
  count : Nat
  tapFirst : Nat
  tapCount : Nat
  src : Nat
  srcScale : Nat
  dst : Nat
  dstScale : Nat
  rowStride : Nat
  inMask : Nat
  outMask : Nat
  reservedOk : Bool
  deriving DecidableEq, Repr

/-- Fields of a gather descriptor: bits [19:17] and [511:472] are reserved. -/
def gatherFields : List (Nat × Nat) := [(0, 17), (20, 452)]

/-- Read a gather descriptor. -/
def GatherDesc.ofNat (d : Nat) : GatherDesc :=
  { srcKind := bitField d 0 2, wide := bitAt d 2, enc := bitField d 3 3, half := bitAt d 6, transposed := bitAt d 7,
    inScale := bitField d 8 2, f := bitField d 10 5, useInMask := bitAt d 15, writeOutMask := bitAt d 16,
    srcCore := bitField d 20 4, dstCore := bitField d 24 4, kh := bitField d 28 5, kw := bitField d 33 5, sy := bitField d 38 8,
    sx := bitField d 46 8, dy := bitField d 54 8, dx := bitField d 62 8, padT := bitField d 70 10, padL := bitField d 80 10,
    inH := bitField d 90 15, inW := bitField d 105 15, inC := bitField d 120 16, groups := bitField d 136 16,
    group := bitField d 152 16, oh := bitField d 168 15, ow := bitField d 183 15, oy0 := bitField d 198 15,
    ox0 := bitField d 213 15, count := bitField d 228 16, tapFirst := bitField d 244 10, tapCount := bitField d 254 10,
    src := bitField d 264 40, srcScale := bitField d 304 40, dst := bitField d 344 26, dstScale := bitField d 370 26,
    rowStride := bitField d 396 24, inMask := bitField d 420 26, outMask := bitField d 446 26,
    reservedOk := reservedClear d gatherFields }

/-- The channel block B (R268). -/
def GatherDesc.block (d : GatherDesc) : Nat := if d.wide then 32 else 16

/-- Channels of a group, Cg. -/
def GatherDesc.cg (d : GatherDesc) : Nat := d.inC / d.groups

/-- Cg rounded up to the block, Cp. -/
def GatherDesc.cp (d : GatherDesc) : Nat := ceilDiv d.cg d.block * d.block

/-- Elements of a tap row, K. -/
def GatherDesc.k (d : GatherDesc) : Nat := d.tapCount * d.cp

/-- The first pixel number (R270). -/
def GatherDesc.firstPixel (d : GatherDesc) : Nat := d.oy0 * d.ow + d.ox0

/-- The element encoding. -/
def GatherDesc.encoding (d : GatherDesc) : Encoding := (formatEncoding d.enc).getD .bf16

/-- The rules of R269 and R273. A core-store source address uses 26 bits (R269). -/
def GatherDesc.ok (d : GatherDesc) : Bool :=
  let mx := decide (d.enc ≠ 0)
  d.reservedOk && decide (d.srcKind < 2) && decide (d.enc ≤ 5) && decide (d.inScale < 3) && inRange d.f 1 16 &&
    inRange d.kh 1 31 && inRange d.kw 1 31 && decide (d.sy ≠ 0) && decide (d.sx ≠ 0) && decide (d.dy ≠ 0) && decide (d.dx ≠ 0) &&
    inRange d.inH 1 16384 && inRange d.inW 1 16384 && decide (d.inC ≠ 0) && decide (d.groups ≠ 0) &&
    decide (d.inC % d.groups = 0) && decide (d.group < d.groups) && inRange d.oh 1 16384 && inRange d.ow 1 16384 &&
    decide (d.count ≠ 0) && decide (d.tapFirst < d.kh * d.kw) && inRange d.tapCount 1 (d.kh * d.kw - d.tapFirst) &&
    (if mx then d.half == !d.wide else !d.half) &&
    !(d.transposed && (mx || decide (d.count % 8 ≠ 0))) && !(decide (1 < d.groups) && decide (d.cg % d.block ≠ 0)) &&
    decide (d.k ≤ 65536) && decide (d.firstPixel + d.count ≤ d.oh * d.ow)

/-- The source row or column of a virtual position, none where it reads as zero (R270). -/
def sourceIndex (inScale f extent : Nat) (v : Int) : Option Nat :=
  if v < 0 then none
  else
    let n := v.toNat
    if inScale = 0 then (if n < extent then some n else none)
    else if f * extent ≤ n then none
    else if inScale = 1 then some (n / f)
    else if n % f = 0 then some (n / f) else none

/-- Bit `row` of a row mask in the layout of R263: 32 bytes for each 128 rows. -/
def rowMasked (mask : List Byte) (row : Nat) : Bool :=
  bitAt ((mask.getD (row / 128 * 32 + row % 128 / 8) 0).toNat) (row % 8)

/-- Bytes of a row mask of `h` rows (R263). -/
def rowMaskBytes (h : Nat) : Nat := ceilDiv h 128 * 32

/-- Source of tap `t` of pixel `m`: row and column, none for a zero segment. -/
def GatherDesc.source (d : GatherDesc) (mask : List Byte) (m t : Nat) : Option (Nat × Nat) :=
  let q := d.firstPixel + m
  let vy : Int := ((q / d.ow * d.sy + t / d.kw * d.dy : Nat) : Int) - d.padT
  let vx : Int := ((q % d.ow * d.sx + t % d.kw * d.dx : Nat) : Int) - d.padL
  match sourceIndex d.inScale d.f d.inH vy, sourceIndex d.inScale d.f d.inW vx with
  | some iy, some ix => if d.useInMask && rowMasked mask iy then none else some (iy, ix)
  | _, _ => none

/-- The scale codes and element codes of one tap row, reading each piece that is not zero; the last component says that every
element is zero for a reason of R270. -/
def gatherRow (s : State) (c : Cmd) (d : GatherDesc) (mask : List Byte) (a : Acc) (m : Nat) :
    List Nat × List Nat × Bool × Acc :=
  let b := d.block
  let p := b * encWidth d.encoding / 8
  let c0 := d.group * d.cg
  (List.range (d.tapCount * (d.cp / b))).foldl (fun (r : List Nat × List Nat × Bool × Acc) j =>
    let (scales, codes, zero, a) := r
    let ch := j % (d.cp / b) * b
    let live := if d.cg ≤ ch then none else d.source mask m (d.tapFirst + j / (d.cp / b))
    match live with
    | none => (scales ++ [0x7F], codes ++ List.replicate b 0, zero, a)
    | some (iy, ix) =>
      let piece := ((c0 + ch) / b * d.inH + iy) * d.inW + ix
      let (bs, a) := readLocal s c a (d.srcKind = 1) d.srcCore (d.src + piece * p) p
      let (sc, a) := if d.enc = 0 then ([], a)
        else readLocal s c a (d.srcKind = 1) d.srcCore (d.srcScale + piece) 1
      let es := (unpackCodes d.encoding bs).zipIdx.map fun x => if d.cg ≤ ch + x.2 then 0 else x.1
      (scales ++ [leNat sc], codes ++ es, false, a)) ([], [], true, a)

/-- Write one bit per pixel (R271): the bits of the last byte beyond COUNT keep their values. -/
def outMaskBytes (old : List Byte) (bits : List Bool) : List Byte :=
  old.zipIdx.map fun o =>
    BitVec.ofNat 8 ((List.range 8).foldl (fun acc i =>
      let b : Bool := (bits[8 * o.2 + i]?).getD (bitAt o.1.toNat i)
      if b = true then acc + 2 ^ i else acc) 0)

/-- TAP_GATHER (R269 to R273). -/
def execTapGather (l : Fin 4) (e : Nat) (s : State) : Result :=
  s.dispatch l e isCopyEng 0x30 fun s r c =>
    let d := GatherDesc.ofNat (r.img.descNat r.en 64)
    if d.ok then
      let (mask, a) := if d.useInMask then readCore s c .empty d.dstCore d.inMask (rowMaskBytes d.inH) else ([], .empty)
      let (a, bits) := (List.range d.count).foldl (fun (r : Acc × List Bool) m =>
        let (scales, codes, zero, a) := gatherRow s c d mask r.1 m
        let a := if d.transposed then
            codes.zipIdx.foldl (fun a x =>
              writeCore s c a m d.dstCore (d.dst + x.2 * d.rowStride + 2 * m) (leBytes 2 x.1)) a
          else
            let a := writeCore s c a m d.dstCore (d.dst + m * d.rowStride) (packCodes d.encoding codes)
            if d.enc = 0 then a
            else writeCore s c a m d.dstCore (d.dstScale + m * (d.k / d.block)) (scales.map (BitVec.ofNat 8))
        (a, r.2 ++ [zero])) (a, [])
      let a := if d.writeOutMask then
          (List.range d.count).foldl (fun a m =>
            let at_ := d.outMask + m / 8
            let (old, met) := readCore s c a d.dstCore at_ 1
            writeCore s c { met with refused := a.refused } m d.dstCore at_ (outMaskBytes old ((bits.drop (m / 8 * 8)).take (m % 8 + 1)))) a
        else a
      (s.countReads a.weak).launch c a [] .none
    else s.invalidDesc c

end Sys2Proof.Machine
end

