-- ==== Sys2Proof/WellFormed.lean ====
section
/-!
DEFINITION. WellFormed.lean: which commands are well formed. The operands of most commands are bounded by their types;
what the types do not bound is checked here: engine codes of R62, entry indices of R58, sizes of host writes, far-memory
keys, lists of a fixed length. The machine gives every command an outcome all the same.
-/
namespace Sys2Proof

/-- The engine codes of R62. -/
def engineCodeOk (e : Nat) : Bool :=
  decide (e < 0x24) || (decide (0x28 ≤ e) && decide (e < 0x32)) || (decide (0x34 ≤ e) && decide (e < 0x39)) ||
    (decide (0x40 ≤ e) && decide (e < 0x61)) || decide (e = 0xF0)

/-- An entry index (R58: at most 1,048,576 entries). -/
def entryIndexOk (e : Nat) : Bool := decide (e < 1048576)

/-- A host write of 1, 2, 4 or 8 bytes; R474 says what becomes of those that are not 32 or 64 bits at an aligned offset. -/
def hostSizeOk (size : Nat) : Bool := decide (size = 1) || decide (size = 2) || decide (size = 4) || decide (size = 8)

/-- What other agents have written lies behind one of the sixteen link halves. -/
def farEnvOk (env : FarEnv) : Bool :=
  (env.cells.all fun c => decide (c.1 < 16 * 2 ^ 64)) && (env.poison.all fun p => decide (p.1 + p.2 ≤ 16 * 2 ^ 64)) &&
    env.corrected.all fun a => decide (a < 2 ^ 38)

/-- The engines that Levels share by slot windows: IMAGE_DEC and AUDIO_DEC (R424). -/
def slotEngineOk (e : Nat) : Bool := decide (e = 0x30) || decide (e = 0x31)

/-- The engines of the Crusher that deliver outputs (R265). -/
def crusherEngineOk (e : Nat) : Bool := decide (0x28 ≤ e) && decide (e < 0x32)

/-- The stem engines (R277). -/
def stemEngineOk (e : Nat) : Bool := decide (0x34 ≤ e) && decide (e < 0x38)

/-- What bring-up finds has 32 devices and sixteen link halves. -/
def bringUpOk (b : BringUp) : Bool :=
  decide (b.rates.length = 32) && decide (b.densities.length = 32) && decide (b.links.length = 16) &&
    b.densities.all (fun d => d = 32 || d = 64) && b.rates.all (fun r => r = 0 || r = 28 || r = 32 || r = 36 || r = 40)

/-- The opcode table's commands with operands inside what the spec admits. -/
def Instr.wf : Instr → Bool
  | .powerUp => true
  | .railOutOfTolerance _ => true
  | .resetLLow => true
  | .resetLRise _ => true
  | .pePerstLRise => true
  | .pcieLinkDown => true
  | .functionLevelResetPf => true
  | .functionLevelResetVf _ => true
  | .firmwareWindowWrite _ _ size _ => hostSizeOk size
  | .commit _ _ => true
  | .bringupComplete found => bringUpOk found
  | .ideKeyRefresh _ => true
  | .debugUnlockToken _ => true
  | .referenceEdge => true
  | .cycleWord _ _ _ _ => true
  | .flywheelEdge => true
  | .holdoverBoundary => true
  | .evHoldoverExpired _ => true
  | .jobBegin _ env => farEnvOk env
  | .jobStop _ => true
  | .jobStopped _ => true
  | .stallLimit _ eng _ => engineCodeOk eng.toNat
  | .sliceEnd _ eng _ => engineCodeOk eng.toNat
  | .contextSwitch _ eng slice => engineCodeOk eng.toNat && decide (slice < 4096)
  | .switchComplete _ eng => engineCodeOk eng.toNat
  | .slotWindowEnd _ eng _ => slotEngineOk eng.toNat
  | .commandComplete _ eng => engineCodeOk eng.toNat
  | .ledgerRecordClose _ _ => true
  | .fillLevelStep _ => true
  | .nop _ e => entryIndexOk e
  | .tallyInit _ e => entryIndexOk e
  | .tallySignal _ e => entryIndexOk e
  | .timerStart _ e => entryIndexOk e
  | .timerStop _ e => entryIndexOk e
  | .timerClear _ e => entryIndexOk e
  | .timerBind _ e => entryIndexOk e
  | .fillSet _ e => entryIndexOk e
  | .passFull _ e => entryIndexOk e
  | .passFullT _ e => entryIndexOk e
  | .passPacked _ e => entryIndexOk e
  | .passPackedT _ e => entryIndexOk e
  | .passWide _ e => entryIndexOk e
  | .program _ e => entryIndexOk e
  | .cvtBf16F32 _ e => entryIndexOk e
  | .cvtF32Bf16 _ e => entryIndexOk e
  | .cvtA96F32 _ e => entryIndexOk e
  | .cvtA96Bf16 _ e => entryIndexOk e
  | .cvtMxF32 _ e => entryIndexOk e
  | .cvtMxBf16 _ e => entryIndexOk e
  | .cvtF32Mx _ e => entryIndexOk e
  | .cvtBf16Mx _ e => entryIndexOk e
  | .cvtF32Split _ e => entryIndexOk e
  | .accCombine _ e => entryIndexOk e
  | .vadd _ _ => true
  | .vsub _ _ => true
  | .vmul _ _ => true
  | .vfma _ _ => true
  | .vmin _ _ => true
  | .vmax _ _ => true
  | .vabs _ _ => true
  | .vneg _ _ => true
  | .vdiv _ _ => true
  | .vsqrt _ _ => true
  | .vrsqrt _ _ => true
  | .vrcp _ _ => true
  | .vexp2 _ _ => true
  | .vlog2 _ _ => true
  | .vcmpEq _ _ => true
  | .vcmpLt _ _ => true
  | .vcmpLe _ _ => true
  | .vcmpUn _ _ => true
  | .vsel _ _ => true
  | .vmovi _ _ => true
  | .viadd _ _ => true
  | .visub _ _ => true
  | .vimul _ _ => true
  | .vand _ _ => true
  | .vor _ _ => true
  | .vxor _ _ => true
  | .vshl _ _ => true
  | .vshr _ _ => true
  | .vcvtW _ _ => true
  | .vcvtN _ _ => true
  | .vtag _ _ => true
  | .vperm _ _ => true
  | .vbcast _ _ => true
  | .vredAdd _ _ => true
  | .vredAddx _ _ => true
  | .vredMax _ _ => true
  | .vredMin _ _ => true
  | .vld _ _ => true
  | .vst _ _ => true
  | .vlds _ _ => true
  | .vsts _ _ => true
  | .vgather _ _ => true
  | .vscatter _ _ => true
  | .pset _ _ => true
  | .padd _ _ => true
  | .loop _ _ => true
  | .endloop _ _ => true
  | .fence _ _ => true
  | .endProgram _ _ => true
  | .spanOpen _ e => entryIndexOk e
  | .stage _ e => entryIndexOk e
  | .sweep1 _ e => entryIndexOk e
  | .finalise _ e => entryIndexOk e
  | .sweep2 _ e => entryIndexOk e
  | .clip _ e env => entryIndexOk e && farEnvOk env
  | .imageBatch _ e env => entryIndexOk e && farEnvOk env
  | .audioBatch _ e env => entryIndexOk e && farEnvOk env
  | .crusherOutputDelivery _ eng => crusherEngineOk eng.toNat
  | .stemConv _ e => entryIndexOk e
  | .stemItemDelivery _ eng => stemEngineOk eng.toNat
  | .sample _ e => entryIndexOk e
  | .route _ e => entryIndexOk e
  | .detect _ e => entryIndexOk e
  | .move _ e => entryIndexOk e
  | .zrcPack _ e => entryIndexOk e
  | .zrcUnpack _ e => entryIndexOk e
  | .fill _ e => entryIndexOk e
  | .tapGather _ e => entryIndexOk e
  | .contribute _ e => entryIndexOk e
  | .reduce _ e env => entryIndexOk e && farEnvOk env
  | .gather _ e env => entryIndexOk e && farEnvOk env
  | .rosterSync _ e env => entryIndexOk e && farEnvOk env
  | .journalRead _ e env _ => entryIndexOk e && farEnvOk env
  | .farRead _ e env => entryIndexOk e && farEnvOk env
  | .farWrite _ e => entryIndexOk e
  | .snapWrite _ e env => entryIndexOk e && farEnvOk env
  | .exchangeClose _ => true
  | .stampReread _ env => farEnvOk env
  | .admission _ _ env => farEnvOk env
  | .batchBoundary _ _ => true
  | .slotOwnerWrite _ _ size _ => hostSizeOk size
  | .slotScan _ => true
  | .noticePost _ => true
  | .msixVectorUnmask _ _ => true
  | .wcycleLoRead _ => true
  | .lstepLoRead _ _ => true
  | .timerLoRead _ _ _ => true
  | .registerWrite _ _ size _ => hostSizeOk size
  | .hello _ _ => true
  | .levelSet _ _ => true
  | .jobOpen _ _ _ env => farEnvOk env
  | .jobStart _ _ => true
  | .jobClose _ _ => true
  | .schedLoad _ _ _ => true
  | .reqSubmit _ _ => true
  | .reqCancel _ _ => true
  | .reqStreamRead _ _ => true
  | .reqStreamSetNotify _ _ => true
  | .reqPages _ _ => true
  | .snapTake _ _ => true
  | .snapRestore _ _ env => farEnvOk env
  | .snapFill _ _ env _ => farEnvOk env
  | .rosterJoin _ _ => true
  | .rosterLeave _ _ => true
  | .ledgerRead _ _ => true
  | .assayReadNew _ _ => true
  | .assayReadBySeq _ _ => true
  | .assayReadLog _ _ => true
  | .assayReadCert _ _ => true
  | .attestQuote _ _ => true
  | .logExport _ _ => true
  | .tallyLogEntry _ => true
  | .replayStart _ _ _ => true
  | .uncorrectableErrorDetected _ _ _ => true
  | .dieLinkFailure _ => true
  | .patrolScrub _ addr _ => decide (addr < 2 ^ 33)
  | .deviceAdded _ _ => true
  | .deviceRemoved _ => true
  | .loadForecastFrame _ e => decide (e < 2 * 1048576)
  | .currentSample r => decide (r.amps.length = 10) && decide (r.temps.length = 10) && decide (r.status.length = 10) && decide (r.volts.length = 4)
  | .limitEvaluation r => decide (r.temps.length = 4)
  | .binChange _ => true
  | .adaptiveVoltageAdjust _ _ => true
  | .avsbusFailure _ _ => true
  | .droopDetect _ => true
  | .assayFrame => true
  | .frameMissing => true
  | .missingCycleTick => true
  | .railSample volts amps => decide (volts.length = 10) && decide (amps.length = 10)
  | .mramCommit => true
  | .recordSigned => true
  | .vasyLost => true
  | .vasyRestored => true
  | .undefinedLinkFrame _ => true
  | .newRecord _ => true
  | .loadRecord _ => true
  | .loadLog => true
  | .loadCert => true
  | .calibration _ => true
  | .asyLoRead _ => true
  | .i3cRegisterWrite _ _ => true
  | .entdaa _ => true
  | .setdasa _ => true
  | .rstdaa => true
  | .getpid => true
  | .getbcr => true
  | .getdcr => true
  | .getstatus => true
  | .replyPosted _ _ env => farEnvOk env
  | .slotWindowStart _ eng => slotEngineOk eng.toNat
  | .cxlLinkDown _ _ => true
  | .droopRecovery _ => true

end Sys2Proof
end

