-- ==== Sys2Proof/Machine/Load.lean ====
section
/-!
DEFINITION. Machine/Load.lean: SCHED.LOAD: reading an image, translating it to major 4 and checking it (R57 to R65, R72, R249,
R423, R486, R491).
-/
namespace Sys2Proof.Machine

/-! ### Engines, opcodes and slots -/

/-- The quadrant an engine code belongs to. -/
def engineQuad (e : Nat) : Option Nat :=
  if e < 0x10 then some (e / 4)
  else if e < 0x20 then some ((e - 0x10) / 4)
  else if e < 0x24 then some (e - 0x20)
  else if 0x40 ≤ e ∧ e < 0x60 then some ((e - 0x40) / 8)
  else none

/-- An engine code is defined, is not of another Level's quadrant, and exists at the image's major (R59, R62). -/
def engineOk (ls : LevelState) (major e : Nat) : Bool :=
  engineCodeOk e && (match engineQuad e with
    | some q => ls.ownsQuad q
    | none => true) && !(decide (major = 3) && inRange e 0x28 0x37)

/-- The Level owns at least one slot on a shared hub engine (R423). -/
def ownsSlot (r : LevelRecord) (e : Nat) : Bool :=
  if inRange e 0x28 0x2F then bitAt r.pipes.toNat (e - 0x28)
  else if slotShared e then decide (r.slots e ≠ 0)
  else if inRange e 0x34 0x37 then bitAt r.stems.toNat (e - 0x34)
  else if e = 0x38 then decide (r.beltUnits ≠ 0)
  else true

/-- An entry at an angle falls inside the Level's slots for its engine (R423). -/
def slotOk (r : LevelRecord) (e angle : Nat) : Bool :=
  if slotShared e then bitAt (r.slots e).toNat (angle / 0x1000) else ownsSlot r e

/-- The opcodes of an engine, at a major (R63, R107, R114, R205, R247, R277, R292, R317, R367, R402, R410, R449). -/
def opcodeOk (major e op : Nat) : Bool :=
  if e < 0x10 then decide (op = 1) || inRange op 0x10 0x14
  else if e < 0x20 then decide (op = 1) || inRange op 0x20 0x29
  else if e < 0x24 then inRange op 1 5
  else if e < 0x38 then decide (op = 1)
  else if e = 0x38 then inRange op 1 3
  else if e < 0x60 then inRange op 1 4 || decide (op = 0x30)
  else if e = 0x60 then inRange op 1 5 || decide (op = 0x10) || decide (op = 0x11) || decide (op = 0x20)
  else decide (op < 7) && !(decide (major = 3) && decide (op = 6))

/-- The cores of a Level, ascending. -/
def LevelState.coreList (ls : LevelState) : List Nat := (List.range 16).filter ls.ownsCore

/-- A Brell engine code translated: core n becomes the n-th core of the Level; none where the image must be refused (R59).
DESIGN CHOICE (notes/assumptions/79.md): an image names more Brell cores than the Level owns where it names one whose number is
not below the Level's number of cores, however few it names. -/
def brellEngine (ls : LevelState) (e : Nat) : Option Nat :=
  if e < 8 then ls.coreList[e]?
  else if inRange e 0x08 0x0F || inRange e 0x18 0x1F then none
  else if inRange e 0x10 0x17 then (ls.coreList[e - 0x10]?).map fun n => n + 0x10
  else some e

/-! ### Reading the tables -/

/-- The header fields (R58). -/
structure ImageHead where
  major : Nat
  flags : Nat
  period : Nat
  loop : Nat
  entries : Nat
  slices : Nat
  contexts : Nat
  tallies : Nat
  sliceOff : Nat
  entryOff : Nat
  descOff : Nat
  descSize : Nat
  size : Nat
  deriving DecidableEq, Repr

/-- Read the header. -/
def ImageHead.ofBytes (b : List Byte) : ImageHead :=
  { major := listLe b 4 2, flags := listLe b 8 4, period := listLe b 0x0C 4, loop := listLe b 0x10 4, entries := listLe b 0x14 4,
    slices := listLe b 0x18 2, contexts := listLe b 0x1A 1, tallies := listLe b 0x1C 2, sliceOff := listLe b 0x20 8,
    entryOff := listLe b 0x28 8, descOff := listLe b 0x30 8, descSize := listLe b 0x38 8, size := listLe b 0x40 8 }

/-- The header values lie in their ranges, the tables inside the image, and the reserved bytes are zero. -/
def ImageHead.ok (h : ImageHead) (b : List Byte) : Bool :=
  decide (h.flags < 4) && inRange h.period 50000 1000000000 && inRange h.loop 1 65536 && inRange h.entries 1 1048576 &&
    decide (h.slices ≤ 4096) && (decide (h.major ≠ 2) || decide (h.slices = 0)) && inRange h.contexts 1 8 &&
    allZero (listSlice b 0x1B 1) && allZero (listSlice b 0x1E 2) && allZero (listSlice b 0x58 32) &&
    decide (h.entryOff % 32 = 0) && decide (h.descOff % 64 = 0) && decide (h.sliceOff + 64 * h.slices ≤ h.size) &&
    decide (h.entryOff + 32 * h.entries ≤ h.size) && decide (h.descOff + h.descSize ≤ h.size)

/-- Read an entry (R60). -/
def Entry.ofNat (v : Nat) : Entry :=
  { cycle := bitField v 0 16, angle := bitField v 16 16, engine := bitField v 32 8, opcode := bitField v 40 8, nonpreempt := bitAt v 48,
    waitTally := bitAt v 49, signalTally := bitAt v 50, tally := bitField v 56 13, budget := bitField v 80 16,
    desc := bitField v 96 48 }

/-- Every reserved bit of an entry is zero; at major 2 bit 68 as well (R59, R60). -/
def entryReserved (major v : Nat) : Bool := reservedClear v [(0, 51), (56, if major = 2 then 12 else 13), (80, 64)]

/-- An entry's translation: its engine, and the engine a TIMER_BIND names. -/
def Entry.brell (ls : LevelState) (en : Entry) : Option Entry :=
  (brellEngine ls en.engine).bind fun e =>
    if en.engine = 0xF0 ∧ en.opcode = 6 then
      (brellEngine ls (bitField en.desc 6 8)).map fun b => { en with desc := bitField en.desc 0 6 + b * 2 ^ 6 + bitField en.desc 14 34 * 2 ^ 14 }
    else some { en with engine := e }

/-- Read a slice (R72); its end is a count within the step. -/
def Slice.ofNat (loop v : Nat) : Slice :=
  let e := bitField v 32 16 * 65536 + bitField v 48 16
  { start := bitField v 0 16 * 65536 + bitField v 16 16, stop := if e = 0 then loop * 65536 else e, context := bitField v 64 3,
    budget := bitField v 80 16, grace := bitField v 96 16, mask := BitVec.ofNat 256 (v / 2 ^ 256) }

/-! ### The checks -/

/-- Entries stand in order (R64). -/
def entriesOrdered : List Entry → Bool
  | a :: b :: rest => decide (a.due ≤ b.due) && entriesOrdered (b :: rest)
  | _ => true

/-- An entry's operand or descriptor offset is as its opcode has it (R63, R65, R108). -/
def Entry.descOk (en : Entry) (size : Nat) : Bool :=
  if en.engine = 0xF0 then
    if en.opcode = 1 then decide (en.desc < 2 ^ 33)
    else if inRange en.opcode 3 5 then decide (en.desc < 2 ^ 6)
    else if en.opcode = 6 then decide (en.desc < 2 ^ 16)
    else decide (en.desc = 0)
  else if en.engine < 0x10 ∧ en.opcode = 1 then reservedClear en.desc [(0, 3), (8, 8)]
  else decide (en.desc % 64 = 0) && decide (en.desc < size)

/-- The opcodes that name a Tally without a flag (R61). -/
def Entry.namesTally (en : Entry) : Bool :=
  en.waitTally || en.signalTally || (decide (en.engine = 0xF0) && (decide (en.opcode = 1) || decide (en.opcode = 2)))

/-- Every row of R65 about one translated entry. -/
def Entry.ok (en : Entry) (ls : LevelState) (major loop descSize : Nat) : Bool :=
  decide (en.cycle < loop) && engineOk ls major en.engine && slotOk ls.record en.engine en.angle &&
    (if en.namesTally then decide (en.tally < 256 * ls.record.tallyBlocks) else decide (en.tally = 0)) && en.descOk descSize &&
    (decide (en.engine ≠ 0xF0) || decide (en.opcode ≠ 6) ||
      (engineOk ls major (bitField en.desc 6 8) && ownsSlot ls.record (bitField en.desc 6 8))) &&
    !(en.waitTally && en.signalTally) && !(en.signalTally && decide (en.engine = 0xF0) && decide (en.opcode = 2)) &&
    opcodeOk major en.engine en.opcode

/-- One slice keeps R72; `v` are its bits. -/
def sliceOk (loop contexts v : Nat) : Bool :=
  let sl := Slice.ofNat loop v
  reservedClear v [(0, 67), (80, 32), (256, 256)] && decide (bitField v 0 16 < loop) &&
    (decide (bitField v 32 32 = 0) || decide (bitField v 32 16 < loop)) && decide (sl.start < sl.stop) && decide (sl.context < contexts)

/-- Two slices may stand in one image: never one engine at one time, never two contexts on one Crusher engine (R65, R249). -/
def slicesAgree (a b : Slice) : Bool :=
  let both := a.mask &&& b.mask
  (decide (both = 0) || decide (a.stop ≤ b.start) || decide (b.stop ≤ a.start)) &&
    (decide (a.context = b.context) || (List.range 10).all fun i => !both.getLsbD (0x28 + i))

/-- Every pair of a list agrees. -/
def pairwise {α : Type} (f : α → α → Bool) : List α → Bool
  | [] => true
  | x :: xs => xs.all (f x) && pairwise f xs

/-- All of a list, or none. -/
def allSome {α : Type} : List (Option α) → Option (List α)
  | [] => some []
  | none :: _ => none
  | some x :: xs => (allSome xs).map fun r => x :: r

/-- The rows of R65 below VERSION: the image as loaded, or none. A major-2 image is one slice of context 0 without an end. -/
def readImage (ls : LevelState) (near : Nat) (b : List Byte) : Option Image :=
  let h := ImageHead.ofBytes b
  if listLe b 0x78 8 ≠ crc64 (b.take 0x78 ++ List.replicate 8 0 ++ b.drop 0x80) then none
  else if h.ok b = false ∨ 256 * ls.record.tallyBlocks < h.tallies ∨ (h.major = 2 ∧ bitAt h.flags 1 = false) then none
  else
    let raw := (List.range h.entries).map fun i => listLe b (h.entryOff + 32 * i) 32
    let slRaw := (List.range h.slices).map fun i => listLe b (h.sliceOff + 64 * i) 64
    let ens := raw.map fun v => if h.major = 2 then (Entry.ofNat v).brell ls else some (Entry.ofNat v)
    match allSome ens with
    | none => none
    | some es =>
      let sls := slRaw.map (Slice.ofNat h.loop)
      if raw.all (entryReserved h.major) && entriesOrdered es && es.all (fun en => en.ok ls h.major h.loop h.descSize) &&
          slRaw.all (sliceOk h.loop h.contexts) && pairwise slicesAgree sls then
        some { major := h.major, minor := listLe b 6 2, usesExchange := bitAt h.flags 0, spill := bitAt h.flags 1, periodNs := h.period,
               loop := h.loop, contexts := h.contexts, tallies := h.tallies, build := BitVec.ofNat 128 (listLe b 0x48 16),
               crc := BitVec.ofNat 64 (listLe b 0x78 8), nearAddr := near, size := h.size, entries := es,
               slices := if h.major = 2 then [⟨0, h.loop * 65536, 0, 0xFFFF, 0, BitVec.allOnes 256⟩] else sls,
               descs := listSlice b h.descOff h.descSize }
      else none

/-- The feature bit that a major needs was agreed (R486). -/
def Fn.majorAgreed (f : Fn) (major : Nat) : Bool :=
  decide (major = 2) || (decide (major = 3) && f.features.getLsbD 1) || (decide (major = 4) && f.features.getLsbD 2)

/-- Two ranges of bytes overlap. -/
def overlaps (a n b m : Nat) : Bool := decide (0 < n) && decide (0 < m) && decide (a < b + m) && decide (b < a + n)

/-- EV_PCIE_READ, after the REFUSED reply (R471, R560, R567). -/
def State.pcieFailed (s : State) (fn : Fin 5) (msg addr : Nat) : State :=
  s.raise 0x5002 (if fn.val = 0 then none else some (Fin.ofNat 4 (fn.val - 1))) 0 msg 0 addr

/-- The bytes a DMA read of `n` bytes gives. -/
def dmaBytes (n : Nat) (bs : List Byte) : List Byte := bs.take n ++ List.replicate (n - (bs.take n).length) 0

/-- SCHED_LOAD: `image` is what the read from host memory gives, none where it fails. -/
def execSchedLoad (fn : Fin 5) (slot : Fin 16) (image : Option (List Byte)) (s : State) : Result :=
  s.onMessage fn.val slot.val 0x23 fun s t l =>
    let ls := s.lvl l
    let size := t.le 8 8
    let near := t.le 0x10 8
    let refused := s.reply fn.val slot.val stRefused
    if ls.job.isSome then s.reply fn.val slot.val stBusy
    else if t.le 0 8 % 4096 ≠ 0 ∨ inRange size 128 (2 ^ 30) = false ∨ near % 65536 ≠ 0 ∨ s.nearRangeOk l near size = false ∨
        overlaps near size (s.pitBase l) (2 ^ 30) = true then refused
    else match image with
      | none => refused.pcieFailed fn 0x23 (t.le 0 8)
      | some bs =>
        let b := dmaBytes size bs
        let major := listLe b 4 2
        if listLe b 0 4 ≠ 0x53484457 ∨ (s.fn fn.val).majorAgreed major = false then s.reply fn.val slot.val stVersion
        else if listLe b 0x40 8 ≠ size then refused
        else match readImage ls near b with
          | none => refused
          | some img =>
            let s := (piecesOf near b).foldl (fun s p => s.applyWrite ⟨0, .near, p.1, p.2⟩) s
            let s := s.updLvl l fun ls => { ls with image := some img }
            let c := s.cad
            let s := if c.everMeasured || c.frozen then s
              else { s with cad := { c with holdPeriod := ⟨2 * img.periodNs, 1⟩ } }
            s.reply fn.val slot.val stOk

end Sys2Proof.Machine
end

