-- ==== Sys2Proof/Machine/Requests.lean ====
section
/-!
DEFINITION. Machine/Requests.lean: the Lamp Room (15_requests.md): requests, their records, admission and step boundaries.
-/
namespace Sys2Proof.Machine

/-! ### Requests and handles (R336 to R338) -/

/-- A free context: its handle is 0, which no issued handle is. -/
def Request.free : Request := ⟨0, 0, 0, 0, none, [], 0, 0, 0, [], 0, [], []⟩

/-- Context `i` of the Level's block. -/
def LevelState.request (ls : LevelState) (i : Nat) : Request := tabGet .free ls.requests i

/-- Set context `i`. -/
def State.setRequest (s : State) (l : Fin 4) (i : Nat) (q : Request) : State :=
  s.updLvl l fun ls => { ls with requests := tabPut .free ls.requests i q }

/-- Contexts of a Level's block (R336, R419). -/
def LevelState.contexts (ls : LevelState) : Nat := ls.record.reqBlocks * 65536

/-- The lowest free index: the first gap among the listed ones. -/
def lowestFree (t : Tab Request) : Nat := t.foldl (fun n e => if e.1 = n then n + 1 else n) 0

/-- The index a live handle names (R338). -/
def LevelState.live? (ls : LevelState) (handle : Nat) : Option Nat :=
  let i := handle % 2 ^ 20
  if handle ≠ 0 ∧ i < ls.contexts ∧ (ls.request i).handle.toNat = handle then some i else none

/-- Batch `b` of a Level. -/
def LevelState.batch (ls : LevelState) (b : Nat) : Batch := tabGet .fresh ls.batches b

/-- Change batch `b`. -/
def State.updBatch (s : State) (l : Fin 4) (b : Nat) (f : Batch → Batch) : State :=
  s.updLvl l fun ls => { ls with batches := tabPut .fresh ls.batches b (f (ls.batch b)) }

/-- The declarations of the open job's batches. -/
def LevelState.batchDecl (ls : LevelState) (b : Nat) : Option BatchDecl :=
  match ls.job with
  | some j => if j.phase = .opening then none else j.decl.batches[b]?
  | none => none

/-- A field of a batch declaration (R339). -/
def BatchDecl.le (d : BatchDecl) (o n : Nat) : Nat := listLe d.raw o n

/-- Row record, list area, prompt area and PLEN word of a row (R339). -/
def BatchDecl.rowAt (d : BatchDecl) (r : Nat) : Nat := d.le 0x20 8 + 128 * r

/-- List area of a row. -/
def BatchDecl.listAt (d : BatchDecl) (r : Nat) : Nat := d.le 0x30 8 + 12288 * r

/-- A field of a request's submission (R342). -/
def Request.le (q : Request) (o n : Nat) : Nat := listLe q.payload o n

/-- A request has ended (R345). -/
def Request.ended (q : Request) : Bool := decide (2 ≤ q.state)

/-- Write near memory as the firmware does. -/
def State.fwNear (s : State) (a : Nat) (bs : List Byte) : State :=
  (piecesOf a bs).foldl (fun s p => s.applyWrite ⟨0, .near, p.1, p.2⟩) s

/-- Read near memory as the firmware does: corrected reads are counted (R400); a failed block gives zeros, and its event (R415,
R568). -/
def State.fwRead (s : State) (l : Fin 4) (a n : Nat) : List Byte × State :=
  let c := headframeCmd l
  let (bs, acc) := readNear s c .empty a n
  (bs, (s.countReads acc.weak).reportFailures c acc)

/-- Bytes moved through the Adit for the Level's function (R442). -/
def State.pcie (s : State) (l : Fin 4) (n : Nat) : State :=
  s.updLvl l fun ls => { ls with acct := { ls.acct with pcieBytes := ls.acct.pcieBytes + n } }

/-! ### The submission payload (R342 to R344) -/

/-- Offset of the bias list, the count list and the inline prompt in the payload (R343). -/
def Request.biasOff (q : Request) : Nat := if q.le 1 1 = 0 ∧ q.le 2 1 = 0 then 0x180 else 0x180 + 608

/-- Offset of the count list. -/
def Request.countOff (q : Request) : Nat := q.biasOff + 8 * q.le 4 2

/-- Offset of the inline prompt. -/
def Request.promptOff (q : Request) : Nat := q.countOff + 4 * q.le 6 2

/-- The end of the tail. -/
def Request.tailEnd (q : Request) : Nat := q.promptOff + (if q.le 3 1 = 0 then 4 * q.le 8 4 else 0)

/-- Counts of the submitted count list. -/
def Request.counts (q : Request) : List Nat := (List.range (q.le 6 2)).map fun i => q.le (q.countOff + 4 * i) 4

/-- Tokens of an inline prompt. -/
def Request.inline (q : Request) : List Nat := (List.range (q.le 8 4)).map fun i => q.le (q.promptOff + 4 * i) 4

/-- Page addresses of the submission. -/
def Request.firstPages (q : Request) : List Nat := (List.range (q.le 0x25 1)).map fun i => q.le (0x80 + 8 * i) 8

/-- Numbers rise strictly. -/
def rising : List Nat → Bool
  | a :: b :: rest => decide (a < b) && rising (b :: rest)
  | _ => true

/-- The conditions of R344 on the fields. -/
def Request.fieldsOk (q : Request) (d : BatchDecl) : Bool :=
  let w (o : Nat) : BitVec 32 := BitVec.ofNat 32 (q.le o 4)
  let plen := q.le 8 4
  let maxNew := q.le 0xC 4
  decide (q.le 1 1 ≤ 16) && decide (q.le 2 1 ≤ 8) && decide (q.le 3 1 ≤ 1) && decide (q.le 4 2 ≤ 256) &&
    decide (q.le 6 2 ≤ q.le 0x26 2) && decide (q.le 0x26 2 ≤ 2048) && inRange plen 1 (d.le 8 4) &&
    inRange maxNew 1 (d.le 4 4 - plen) && decide (q.le 0x24 1 < 64) && inRange (q.le 0x25 1) 1 32 &&
    !badParams (w 0x18) (w 0x1C) (w 0x28) (w 0x2C) (w 0x30) (q.le 0x20 2) maxNew && decide (q.le 0x34 4 = 0) &&
    decide (q.le 0x40 8 % 4 = 0) && decide (q.le 0x40 8 < 2 ^ 46) && allZero (listSlice q.payload 0x48 56) &&
    q.firstPages.all (fun p => p % 4096 = 0) && decide (q.tailEnd ≤ 0xFC0) && rising (q.counts.map fun c => c % 2 ^ 20) &&
    q.counts.all (fun c => c / 2 ^ 20 ≠ 0) && (decide (q.le 3 1 ≠ 0) || q.inline.all fun t => t < d.le 0x10 4)

/-- Zero the STAMP words of a page (R349). -/
def State.zeroPage (s : State) (p : Nat) : State :=
  { s with hostMem := (List.range 128).foldl (fun m i => memWrite m (p + 32 * i + 28) (leBytes 4 0)) s.hostMem }

/-- Supply pages to a request: every STAMP word is zeroed first (R349). In a replay no host page is written (R466). -/
def State.supply (s : State) (l : Fin 4) (i : Nat) (ps : List Nat) : State :=
  let q := (s.lvl l).request i
  let s := s.setRequest l i { q with pages := q.pages ++ ps }
  if s.replaying l then s else (ps.foldl State.zeroPage s).pcie l (512 * ps.length)

/-- The effect of a REQ.SUBMIT (R337, R344): status and reply. An inline prompt has come through the Adit (R442). -/
def State.submit (s : State) (l : Fin 4) (fn : Nat) (payload : List Byte) : State × Nat × List Byte :=
  let ls := s.lvl l
  let b := listLe payload 0 1
  match ls.batchDecl b with
  | none => (s, stNotFound, [])
  | some d =>
    let i := lowestFree ls.requests
    let q : Request :=
      { Request.free with fn := fn, batch := b, payload := payload, notifyEvery := listLe payload 0x22 2,
                          notifyVector := listLe payload 0x24 1, deadline := BitVec.ofNat 64 (listLe payload 0x38 8) }
    if ls.contexts ≤ i ∨ d.le 0x18 4 ≤ (ls.batch b).queue.length then (s, stBusy, [])
    else if q.fieldsOk d = false then (s, stRefused, [])
    else
      let gen := tabGet 0 ls.generations i % 4095 + 1
      let handle := i + gen * 2 ^ 20
      let ahead := (ls.batch b).queue.length
      let s := s.updLvl l fun ls => { ls with generations := tabPut 0 ls.generations i gen }
      let s := s.setRequest l i { q with handle := BitVec.ofNat 32 handle }
      let s := s.updBatch l b fun x => { x with queue := x.queue ++ [i] }
      let s := if s.replaying l || decide (q.le 3 1 ≠ 0) then s else s.pcie l (4 * q.le 8 4)
      (s.supply l i q.firstPages, stOk, leBytes 4 handle ++ leBytes 4 ahead)

/-- REQ_SUBMIT. -/
def execReqSubmit (fn : Fin 5) (slot : Fin 16) (s : State) : Result :=
  s.onMessage fn.val slot.val 0x30 fun s t l =>
    let (s, st, reply) := s.submit l fn.val t.payload
    s.reply fn.val slot.val st reply

/-! ### Result records (R348 to R352) -/

/-- A record to be written. -/
structure Rec where
  token : Nat
  position : Nat
  logp : Nat
  logpTrunc : Nat
  state : Nat
  reason : Nat
  flags : Nat
  step : Nat
  deriving DecidableEq, Repr

/-- The 32 bytes of record `n`. -/
def Rec.bytes (r : Rec) (n : Nat) (handle : BitVec 32) : List Byte :=
  leBytes 4 n ++ leBytes 4 r.token ++ leBytes 4 r.position ++ leBytes 4 r.logp ++ leBytes 4 r.logpTrunc ++ leBytes 1 r.state ++
    leBytes 1 r.reason ++ leBytes 2 r.flags ++ leBytes 4 r.step ++ leBytes 4 handle.toNat

/-- Put one record into its host page, and raise the vector where R352 has it. -/
def State.putRecordBytes (s : State) (l : Fin 4) (q : Request) (n page : Nat) (bs : List Byte) : State :=
  let s := ({ s with hostMem := memWrite s.hostMem (page + 32 * (n % 128)) bs }).pcie l 32
  let final := bitAt (listLe bs 0x16 2) 0
  if (q.notifyEvery ≠ 0 ∧ (n + 1) % q.notifyEvery = 0) ∨ final then s.raiseVector q.fn q.notifyVector else s

/-- Write the waiting records for which pages are held, oldest first; `fuel` bounds them (R350). -/
def State.flushRecords (s : State) (l : Fin 4) (i : Nat) : Nat → State
  | 0 => s
  | fuel + 1 =>
    let q := (s.lvl l).request i
    let n := q.records - q.backlog.length
    match q.backlog, q.pages[n / 128]? with
    | bs :: rest, some page =>
      let s := s.setRequest l i { q with backlog := rest }
      (s.putRecordBytes l q n page bs).flushRecords l i fuel
    | _, _ => s

/-- No record is written now: in a replay (R466), or while the Level is contained (R416). -/
def State.holdsRecords (s : State) (l : Fin 4) : Bool := s.replaying l || s.isContained l

/-- Form the next record of a request and write it, or keep it until a page is held (R349, R350), or the containment ends. -/
def State.addRecord (s : State) (l : Fin 4) (i : Nat) (r : Rec) : State :=
  let q := (s.lvl l).request i
  let bs := r.bytes q.records q.handle
  let s := s.setRequest l i { q with records := q.records + 1, backlog := q.backlog ++ [bs], state := r.state }
  if s.holdsRecords l then s else s.flushRecords l i (q.backlog.length + 1)

/-- A final record without a token: the fields that speak of a token are free values. -/
def State.finalRecord (s : State) (l : Fin 4) (i state flags step : Nat) : State :=
  let (w, s) := s.free64
  let (p, s) := s.free64
  s.addRecord l i ⟨0xFFFFFFFF, p.toNat % 2 ^ 32, w.toNat % 2 ^ 32, w.toNat / 2 ^ 32, state, 0, flags, step⟩

/-- Release an index (R347). -/
def State.releaseIndex (s : State) (l : Fin 4) (i : Nat) : State := s.setRequest l i .free

/-- A queued request ends: its final record, and its index is released; while the Level is contained the record waits for the stop
(R416). -/
def State.endQueued (s : State) (l : Fin 4) (i state : Nat) : State :=
  let q := (s.lvl l).request i
  let s := s.updBatch l q.batch fun b => { b with queue := b.queue.filter fun k => k ≠ i }
  let s := s.finalRecord l i state 1 0
  if s.isContained l then s else s.releaseIndex l i

/-! ### Messages on one request (R351, R353, R354) -/

/-- Pages supplied and not yet written into. -/
def Request.unwritten (q : Request) : Nat := q.pages.length - ceilDiv (q.records - q.backlog.length) 128

/-- The effect of REQ.PAGES (R351). -/
def State.givePages (s : State) (l : Fin 4) (payload : List Byte) : State × Nat :=
  match (s.lvl l).live? (listLe payload 0 4) with
  | none => (s, stNotFound)
  | some i =>
    let q := (s.lvl l).request i
    let n := listLe payload 4 2
    let ps := (List.range n).map fun k => listLe payload (8 + 8 * k) 8
    if q.ended = true ∨ inRange n 1 500 = false ∨ ps.all (fun p => p % 4096 = 0) = false ∨ 1024 < q.unwritten + n then
      (s, stRefused)
    else
      let s := s.supply l i ps
      (if s.holdsRecords l then s else s.flushRecords l i q.backlog.length, stOk)

/-- REQ_PAGES. -/
def execReqPages (fn : Fin 5) (slot : Fin 16) (s : State) : Result :=
  s.onMessage fn.val slot.val 0x33 fun s t l =>
    let (s, st) := s.givePages l t.payload
    s.reply fn.val slot.val st

/-- POSITION and GENERATED of a request: of its row record where it has a row (R353). -/
def State.progressOf (s : State) (l : Fin 4) (q : Request) : (Nat × Nat) × State :=
  match q.row, (s.lvl l).batchDecl q.batch with
  | some r, some d =>
    let (bs, s) := s.fwRead l (d.rowAt r) 128
    let rec_ := RowRecord.ofBytes bs
    ((rec_.position, rec_.generated), s)
  | _, _ => ((q.le 8 4, 0), s)

/-- REQ_STREAM_READ: REQ.STREAM with ACTION 0; a reserved ACTION is refused (R353). -/
def execReqStreamRead (fn : Fin 5) (slot : Fin 16) (s : State) : Result :=
  s.onMessage fn.val slot.val 0x32 fun s t l =>
    if t.le 4 1 = 1 then s
    else match (s.lvl l).live? (t.le 0 4) with
      | none => s.reply fn.val slot.val stNotFound
      | some i =>
        let q := (s.lvl l).request i
        if t.le 4 1 ≠ 0 then s.reply fn.val slot.val stRefused
        else
          let ((pos, gen), s) := s.progressOf l q
          s.reply fn.val slot.val stOk
          (leBytes 4 q.state ++ leBytes 4 (q.records - q.backlog.length) ++ leBytes 4 q.backlog.length ++
            leBytes 4 q.unwritten ++ leBytes 4 pos ++ leBytes 4 gen ++ leBytes 4 (q.row.getD 0xFFFFFFFF))

/-- The effect of REQ.STREAM with ACTION 1. -/
def State.setNotify (s : State) (l : Fin 4) (payload : List Byte) : State × Nat :=
  match (s.lvl l).live? (listLe payload 0 4) with
  | none => (s, stNotFound)
  | some i =>
    if 63 < listLe payload 8 1 then (s, stRefused)
    else
      (s.setRequest l i { (s.lvl l).request i with notifyEvery := listLe payload 6 2, notifyVector := listLe payload 8 1 },
        stOk)

/-- REQ_STREAM_SET_NOTIFY: REQ.STREAM with ACTION 1 (R353). -/
def execReqStreamSetNotify (fn : Fin 5) (slot : Fin 16) (s : State) : Result :=
  s.onMessage fn.val slot.val 0x32 fun s t l =>
    if t.le 4 1 = 1 then
      let (s, st) := s.setNotify l t.payload
      s.reply fn.val slot.val st
    else s

/-- The effect of REQ.CANCEL (R354): the status of a reply posted at once, or none while its boundary decides. -/
def State.cancel (s : State) (l : Fin 4) (fn slot handle : Nat) : State × Option Nat :=
  match (s.lvl l).live? handle with
  | none => (s, some stNotFound)
  | some i =>
    let q := (s.lvl l).request i
    if q.state = 0 then (s.endQueued l i 3, some stOk)
    else if q.state = 1 then (s.setRequest l i { q with cancels := q.cancels ++ [(fn, slot)] }, none)
    else (s, some (if q.state = 3 then stOk else stCancelLate))

/-- REQ_CANCEL. -/
def execReqCancel (fn : Fin 5) (slot : Fin 16) (s : State) : Result :=
  s.onMessage fn.val slot.val 0x31 fun s t l =>
    match s.cancel l fn.val slot.val (t.le 0 4) with
    | (s, some st) => s.reply fn.val slot.val st
    | (s, none) => s.work fn.val slot.val

/-! ### Replay of recorded messages (R466) -/

/-- The effect of one recorded message on the requests; one that R488 turned away has none. -/
def State.replayMessage (s : State) (l : Fin 4) (e : LogEntry) : State :=
  let msg := listLe e.body 0 2
  let fn := listLe e.body 2 1
  let payload := e.body.drop 24
  if listLe e.body 6 2 = 0 then s
  else if msg = 0x30 then (s.submit l fn payload).1
  else if msg = 0x31 then (s.cancel l 5 0 (listLe payload 0 4)).1
  else if msg = 0x32 ∧ listLe payload 4 1 = 1 then (s.setNotify l payload).1
  else if msg = 0x33 then (s.givePages l payload).1
  else s

/-- In a replay, take the recorded messages that stand before the entry of a kind whose body begins with given bytes; that
entry, if there is one. -/
def State.replayUpTo (s : State) (l : Fin 4) (kind : Nat) (head : List Byte) : State × Option LogEntry :=
  match (s.lvl l).job with
  | some j =>
    match j.replay with
    | some r =>
      match (r.log.drop r.pos).findIdx? fun e => e.kind = kind && e.body.take head.length = head with
      | some n =>
        let ms := ((r.log.drop r.pos).take n).filter fun e => e.kind = 4
        let s := ms.foldl (fun s e => s.replayMessage l e) s
        (s.updJob l fun j => { j with replay := some { r with pos := r.pos + n + 1 } }, r.log[r.pos + n]?)
      | none => (s, none)
    | none => (s, none)
  | none => (s, none)

/-! ### Admission (R345) -/

/-- Row `r` of a batch is free (R345, R347). -/
def State.rowFree (s : State) (l : Fin 4) (b : Nat) (d : BatchDecl) (r : Nat) : Bool × State :=
  match tabGet 0 ((s.lvl l).batch b).rows r with
  | 0 => (true, s)
  | i + 1 =>
    if ((s.lvl l).request i).ended then
      let (bs, s) := s.fwRead l (d.rowAt r) 128
      ((RowRecord.ofBytes bs).stopped, s)
    else (false, s)

/-- The free rows of a batch, ascending. -/
def State.freeRowsOf (s : State) (l : Fin 4) (b : Nat) (d : BatchDecl) : List Nat × State :=
  (List.range d.rows).foldl (fun (x : List Nat × State) r =>
    let (f, s) := x.2.rowFree l b d r
    (if f then x.1 ++ [r] else x.1, s)) ([], s)

/-- Free the rows whose requests have ended, and release their indices. -/
def State.freeRows (s : State) (l : Fin 4) (b : Nat) (rows : List Nat) : State :=
  rows.foldl (fun s r =>
    match tabGet 0 ((s.lvl l).batch b).rows r with
    | 0 => s
    | i + 1 => (s.updBatch l b fun x => { x with rows := tabPut 0 x.rows r 0 }).releaseIndex l i) s

/-- End the queued requests whose deadline has passed by a cycle. -/
def State.expireQueue (s : State) (l : Fin 4) (b : Nat) (cycle : BitVec 64) : State :=
  ((s.lvl l).batch b).queue.foldl (fun s i =>
    let q := (s.lvl l).request i
    if q.deadline ≠ 0 ∧ q.deadline ≤ cycle then s.endQueued l i 4 else s) s

/-- The row record of an admitted request. -/
def admittedRecord (q : Request) (d : BatchDecl) (r : Nat) : List Byte :=
  let area := d.listAt r
  leBytes 4 q.handle.toNat ++ leBytes 4 (q.le 8 4) ++ leBytes 8 (q.le 0x10 8) ++ leBytes 4 (q.le 0x18 4) ++
    leBytes 4 (q.le 0x1C 4) ++ leBytes 2 (q.le 0x20 2) ++ leBytes 1 0 ++ leBytes 1 0 ++ leBytes 4 (q.le 0x28 4) ++
    leBytes 4 (q.le 0x2C 4) ++ leBytes 4 (q.le 0x30 4) ++ leBytes 4 0 ++ leBytes 4 (q.le 0xC 4) ++
    leBytes 8 (area + 0x1000) ++ leBytes 2 (q.le 6 2) ++ leBytes 2 (q.le 0x26 2) ++ leBytes 2 (q.le 4 2) ++
    leBytes 1 (q.le 1 1) ++ leBytes 1 (q.le 2 1) ++ leBytes 8 (area + 0x400) ++ leBytes 8 area ++ List.replicate 48 0

/-- The row record of a row without a request. -/
def emptyRecord : List Byte := List.replicate 26 0 ++ [1] ++ List.replicate 101 0

/-- A row left without a request. -/
def State.emptyRow (s : State) (d : BatchDecl) (r : Nat) : State :=
  (s.fwNear (d.rowAt r) emptyRecord).fwNear (d.le 0x40 8 + 4 * r) (leBytes 4 0)

/-- The prompt tokens of an admitted request; a far-memory prompt is read through the Level's windows and recorded. -/
def State.promptOf (s : State) (l : Fin 4) (q : Request) (env : FarEnv) : State × List Nat × Bool :=
  if q.le 3 1 = 0 then (s, q.inline, false)
  else
    let addr := q.le 0x40 8
    let n := 4 * q.le 8 4
    let s := s.withEnv env
    let c := headframeCmd l
    let (bs, a) := readFar s c .empty addr n
    let s := s.updLvl l fun ls => { ls with acct := { ls.acct with farBytes := ls.acct.farBytes + n } }
    let s := (s.reportFailures c a).reportRefused c a
    if a.failedFar ≠ [] then (s, [], true)
    else
      let body := leBytes 8 q.handle.toNat ++ leBytes 8 (crc64 bs)
      let s := s.log l 6 body
      let s := match s.replayLog l with
        | some es => if es.any fun e => e.kind = 6 && e.body = body then s else s.replayInput l (s.lvl l).lstep.toNat 6
        | none => s
      (s, (List.range (q.le 8 4)).map fun i => listLe bs (4 * i) 4, false)

/-- Give row `r` to request `i`: the row's areas are written, or the request ends REFUSED on a bad far-memory prompt. -/
def State.admitRow (s : State) (l : Fin 4) (b : Nat) (d : BatchDecl) (env : FarEnv) (r i : Nat) : State × Bool :=
  let q := (s.lvl l).request i
  let s := s.updBatch l b fun x =>
    { x with queue := x.queue.filter fun k => k ≠ i, rows := tabPut 0 x.rows r (i + 1) }
  let s := s.setRequest l i { q with row := some r, state := 1 }
  let (s, toks, failed) := s.promptOf l q env
  if failed then (s.emptyRow d r, false)
  else if q.le 3 1 = 1 ∧ toks.any (fun t => decide (d.le 0x10 4 ≤ t)) then ((s.emptyRow d r).finalRecord l i 5 1 0, false)
  else
    let extent := d.le 8 4
    let s := s.fwNear (d.le 0x38 8 + 4 * extent * r) ((List.range extent).flatMap fun k => leBytes 4 (toks.getD k 0))
    let s := s.fwNear (d.le 0x40 8 + 4 * r) (leBytes 4 (q.le 8 4))
    let s := if q.biasOff = 0x180 then s else s.fwNear (d.listAt r) (padTo 608 (listSlice q.payload 0x180 608))
    let s := s.fwNear (d.listAt r + 0x400) (padTo (8 * q.le 4 2) (listSlice q.payload q.biasOff (8 * q.le 4 2)))
    let s := s.fwNear (d.listAt r + 0x1000) (padTo (4 * q.le 6 2) (listSlice q.payload q.countOff (4 * q.le 6 2)))
    (s.fwNear (d.rowAt r) (admittedRecord q d r), true)

/-- Rows that one ADMISSION entry holds: 129 units less its head, the batch and the step (R462, R463). -/
def admissionRows : Nat := 1026

/-- The bodies of the ADMISSION entries of an admission: as many as the bound of R462 asks for, at least one. DESIGN CHOICE
(notes/assumptions/110.md): each repeats the batch and the step. -/
def admissionBodies (b step : Nat) (admitted : List (List Byte)) : List (List Byte) :=
  (List.range (max 1 (ceilDiv admitted.length admissionRows))).map fun i =>
    leBytes 8 b ++ leBytes 8 step ++ ((admitted.drop (admissionRows * i)).take admissionRows).flatten

/-- An admission: rows in ascending order take the queue's requests, oldest first. -/
def State.admitAll (s : State) (l : Fin 4) (b : Nat) (d : BatchDecl) (env : FarEnv) (cycle : BitVec 64) : State :=
  let s := s.expireQueue l b cycle
  let (free, s) := s.freeRowsOf l b d
  let s := s.freeRows l b free
  let (s, admitted) := free.foldl (fun (p : State × List (List Byte)) r =>
    match ((p.1.lvl l).batch b).queue with
    | i :: _ =>
      let h := ((p.1.lvl l).request i).handle
      ((p.1.admitRow l b d env r i).1, p.2 ++ [leBytes 4 r ++ leBytes 4 h.toNat])
    | [] => (p.1.emptyRow d r, p.2)) (s, [])
  let step := (s.lvl l).lstep.toNat
  let s := s.updBatch l b fun x => { x with admitted := step }
  (admissionBodies b step admitted).foldl (fun (s : State) body => s.log l 5 body) s

/-- Signal a batch's LAMP_TALLY (R340). -/
def State.lampTally (s : State) (l : Fin 4) (d : BatchDecl) : State := s.signalTally l (d.le 0x1C 2) 0xFFFFFFFF

/-- ADMISSION: at cycle offset ADMIT_OFFSET of each step of a running job (R345), once every message taken before it has been acted
on (R340). In a replay the cycle is the recorded one (R466). -/
def execAdmission (l : Fin 4) (batch : Fin 64) (env : FarEnv) (s : State) : Result :=
  let ls := s.lvl l
  match ls.job, ls.batchDecl batch.val with
  | some j, some d =>
    if j.phase = .running ∧ j.stopDue = false ∧ ls.offset = d.le 0x1E 2 ∧ (ls.batch batch.val).admitted < ls.lstep.toNat ∧
        s.requestsTaken l = [] then
      let (s, _) := s.replayUpTo l 5 (leBytes 8 batch.val ++ leBytes 8 ls.lstep.toNat)
      let cycle := ls.replayCycle.getD s.cad.number
      .next ((s.admitAll l batch.val d env cycle).lampTally l d)
    else .next s
  | _, _ => .next s

/-! ### Step boundaries (R346) -/

/-- What a boundary decides for one row, whose Belt result record is given; a row record that cannot be read contains the Level,
and nothing is written for it (R416). -/
def State.boundaryRow (s : State) (l : Fin 4) (b step cs : Nat) (d : BatchDecl) (r : Nat) (res : List Byte) : State :=
  if s.isContained l then s else
  match tabGet 0 ((s.lvl l).batch b).rows r with
  | 0 => s
  | i + 1 =>
    let q := (s.lvl l).request i
    if q.state ≠ 1 then s
    else
      let (rowBytes, s) := s.fwRead l (d.rowAt r) 128
      if s.isContained l then s
      else
      let row := RowRecord.ofBytes rowBytes
      let tok := listLe res 0 4
      let reason := listLe res 4 1
      let last := decide (reason ≠ 0)
      let rf := listLe res 5 1
      let flags := (if bitAt rf 0 then 4 else 0) + (if bitAt rf 2 then 8 else 0) + (if bitAt rf 3 then 16 else 0) +
        (if bitAt rf 1 then 32 else 0)
      let pos := if tok = 0xFFFFFFFF then row.position else row.position - 1
      let token (s : State) (state extra : Nat) : State :=
        s.addRecord l i ⟨tok, pos, listLe res 8 4, listLe res 12 4, state, reason, flags + extra, step⟩
      let answer (s : State) (st : Nat) : State :=
        q.cancels.foldl (fun s c => s.reply c.1 c.2 st) (s.setRequest l i { (s.lvl l).request i with cancels := [] })
      if q.cancels.isEmpty = false then
        if last then answer (token s 2 1) stCancelLate else answer (s.finalRecord l i 3 1 step) stOk
      else if q.deadline ≠ 0 ∧ q.deadline.toNat ≤ cs then
        if last then token s 2 3
        else
          let s := (token s 1 2).finalRecord l i 4 1 step
          s.fwNear (d.rowAt r + 0x1A) (leBytes 1 (row.state ||| 1))
      else if last then token s 2 1 else token s 1 0

/-- The cycle a job's step 1 began in, as its deadlines count it: in a replay that of the recorded run (R346, R466). -/
def LevelState.deadlineStart (ls : LevelState) : Nat :=
  match ls.job with
  | some j => match j.replay with
    | some r => match r.log.find? fun e => e.kind = 2 with
      | some e => listLe e.body 0 8
      | none => j.startCycle.toNat
    | none => j.startCycle.toNat
  | none => 0

/-- Body of a TOKENS entry (R463). -/
def tokensBody (b step crc : Nat) : List Byte := leBytes 8 b ++ leBytes 8 step ++ leBytes 8 crc

/-- BATCH_BOUNDARY: the Lamp Room works the oldest completed SAMPLE of the batch (R346), once every message taken before it has
been acted on (R340); while the Level is contained it writes no record (R416). -/
def execBatchBoundary (l : Fin 4) (batch : Fin 64) (s : State) : Result :=
  let ls := s.lvl l
  let b := batch.val
  match ls.batchDecl b, (ls.batch b).due, ls.image with
  | some d, (step, off) :: rest, some img =>
    if s.requestsTaken l ≠ [] then .next s
    else
    let s := s.updBatch l b fun x => { x with due := rest, boundary := step }
    let (s, e) := s.replayUpTo l 0xC (leBytes 8 b ++ leBytes 8 step)
    let (results, s) := s.fwRead l (d.le 0x28 8) (16 * d.rows)
    let body := tokensBody b step (crc64 results)
    let s := s.log l 0xC body
    let s := if s.replaying l then
        (match e with
          | some x => if x.body = body then s else s.replayDiverged l step 0xC b
          | none => s.replayDiverged l step 0xC b)
      else s
    let cs := (ls.deadlineStart + (step - 1) * img.loop + off) % 2 ^ 64
    let s := (List.range d.rows).foldl (fun (s : State) r => s.boundaryRow l b step cs d r (listSlice results (16 * r) 16)) s
    .next ((s.lampTally l d).replayDone l)
  | _, _, _ => .next s

/-! ### The end of a job (R358) -/

/-- Every request that has not ended receives a final record with CANCELLED and JOB_ENDED, and pending cancels receive OK; the final
records that waited for the end of a containment are written (R358, R416). -/
def State.endRequests (s : State) (l : Fin 4) : State :=
  (s.lvl l).requests.foldl (fun s e =>
    let i := e.1
    let q := (s.lvl l).request i
    if q.ended then
      let s := if s.holdsRecords l then s else s.flushRecords l i q.backlog.length
      if q.row.isNone then s.releaseIndex l i else s
    else
      let step := if q.state = 0 then 0 else ((s.lvl l).batch q.batch).boundary
      let s := s.updBatch l q.batch fun b => { b with queue := b.queue.filter fun k => k ≠ i }
      let s := s.finalRecord l i 3 0x41 step
      let s := q.cancels.foldl (fun s c => s.reply c.1 c.2 stOk) s
      let s := s.setRequest l i { (s.lvl l).request i with cancels := [] }
      if q.row.isNone then s.releaseIndex l i else s) s

end Sys2Proof.Machine
end

