-- ==== Sys2Proof/Machine/Exchange.lean ====
section
/-!
DEFINITION. Machine/Exchange.lean: the exchange engine (16_training.md): stamps and closes, CONTRIBUTE, REDUCE, GATHER,
JOURNAL_READ, ROSTER_SYNC, the roster messages, and the far-memory moves of R410.
-/
namespace Sys2Proof.Machine

/-- EXCHANGE (R62). -/
def isExchange (e : Nat) : Bool := e = 0x60

/-! ### Regions, steps and stamps (R360 to R363) -/

/-- The job's roster index (R362). -/
def Job.ownIndex (j : Job) : Nat := (j.decl.exchange.map ExchangeDecl.index).getD 0xFFFF

/-- BASE_STEP; 1 for a job without the exchange (R450). -/
def Job.baseStep (j : Job) : Nat := (j.decl.exchange.map ExchangeDecl.baseStep).getD 1

/-- The pool step of an LSTEP (R362). -/
def Job.poolStep (j : Job) (lstep : Nat) : Nat := j.baseStep + lstep - 1

/-- Bytes of an element of CONTRIB_FORMAT. -/
def Region.c (g : Region) : Nat := if g.contribF32 then 4 else 2

/-- Bytes of an element of REDUCED_FORMAT. -/
def Region.r (g : Region) : Nat := if g.reducedBf16 then 2 else 4

/-- E_S, the elements of a shard. -/
def Region.shardElems (g : Region) : Nat := g.elements / g.shards

/-- Far address of roster entry `i` (R361). -/
def Region.rosterAt (g : Region) (i : Nat) : Nat := g.base + g.rosterOff + 64 * i

/-- Far address of the contribution of index `i` for a step (R361). -/
def Region.slotAt (g : Region) (step i : Nat) : Nat := g.base + g.slotOff + (step % 2 * g.capacity + i) * g.slotSize

/-- Far address of a journal entry (R361). -/
def Region.entryAt (g : Region) (step : Nat) : Nat := g.base + g.journalOff + step % g.journal * g.entrySize

/-- Far address of the header of copy `cp` of shard `k` (R361). -/
def Region.shardAt (g : Region) (step cp k : Nat) : Nat := g.entryAt step + (cp * g.shards + k) * 8192

/-- Far address of the payload of copy `cp` of shard `k` (R361). -/
def Region.payloadAt (g : Region) (step cp k : Nat) : Nat :=
  g.entryAt step + g.copies * g.shards * 8192 + (cp * g.shards + k) * (g.shardElems * g.r)

/-- A stamp (R363). -/
def stampOf (step kind copy number : Nat) : Nat := step % 2 ^ 40 + kind * 2 ^ 40 + copy * 2 ^ 44 + number % 2 ^ 16 * 2 ^ 48

/-- The active set in force at a pool step (R372, R383). -/
def Exchange.activeAt (x : Exchange) (step : Nat) : List Nat := if step ≤ x.activeStep then x.active else x.next

/-- Read far memory for a command, without keeping what the access does: a check of stamps. -/
def State.peekFar (s : State) (l : Fin 4) (addr n : Nat) : List Byte := (readFarIn (s.windows l) s.far .empty addr n).1

/-- The stamp at a far address. -/
def State.stampAtFar (s : State) (l : Fin 4) (addr : Nat) : Nat := leNat (s.peekFar l addr 8)

/-! ### Descriptors and closes (R364, R368) -/

/-- An exchange descriptor. -/
structure ExchDesc where
  close : Nat
  src : Nat
  amax : Nat
  dst : Nat
  result : Nat
  coreMask : Nat
  coreAddr : Nat
  replayStep : Nat
  reservedOk : Bool
  deriving DecidableEq, Repr

/-- Read an exchange descriptor; `close` is a count within the step. -/
def ExchDesc.ofNat (d : Nat) : ExchDesc :=
  { close := bitField d 0 16 * 65536 + bitField d 16 16, src := bitField d 40 40, amax := bitField d 80 40,
    dst := bitField d 120 40, result := bitField d 160 40, coreMask := bitField d 200 16, coreAddr := bitField d 216 26,
    replayStep := bitField d 256 40, reservedOk := reservedClear d [(0, 32), (40, 202), (256, 40)] }

/-- The rules of R368 for the fields that a command uses. -/
def ExchDesc.ok (d : ExchDesc) (s : State) (l : Fin 4) (g : Region) (opcode : Nat) : Bool :=
  d.reservedOk &&
    (decide (opcode ≠ 1) || (decide (d.src % 64 = 0) && s.nearRangeOk l d.src (g.elements * g.c) &&
      s.nearRangeOk l d.amax (4 * g.amax))) &&
    (!(decide (opcode = 3) || decide (opcode = 5)) || (s.nearRangeOk l d.dst (g.elements * g.r) &&
      decide (d.result % 8192 = 0) && s.nearRangeOk l d.result 8192 && decide (d.coreAddr % 64 = 0)))

/-- The close that the image gives the entry of an exchange opcode (R364, R369), within the step. -/
def Image.closeOf (img : Image) (opcode : Nat) : Nat :=
  match img.entries.find? fun en => isExchange en.engine && decide (en.opcode = opcode) with
  | some en => (ExchDesc.ofNat (img.descNat en 128)).close
  | none => 0

/-- A close of the step of a command, as a count of the job. -/
def Job.closeCount (j : Job) (img : Image) (lstep close : Nat) : Nat := (lstep - j.firstStep) * img.loop * 65536 + close

/-- The close has passed: a stamp issued now would come after it (R364). -/
def State.pastClose (s : State) (j : Job) (close : Nat) : Bool := decide (close < s.countNow j)

/-- A stamp read now is issued at or after a close plus GUARD_NS (R365). -/
def State.pastGuard (s : State) (j : Job) (close guardNs : Nat) : Bool :=
  let p := s.cad.dividing
  let inCycle := min (s.cad.elapsed s.now * 65536 * p.n) (65536 * p.sum * clockParts)
  decide ((close * p.sum + 2 * guardNs * 65536 * p.n) * clockParts ≤
    (s.cad.ordinal - j.beginOrdinal) * 65536 * p.sum * clockParts + inCycle)

/-- EV_EXCHANGE_LATE (R364). -/
def State.exchangeLate (s : State) (l : Fin 4) (entry step : Nat) : State := s.raise 0x4001 (some l) 0x60 0 entry step

/-- What an exchange command of a job works on. -/
structure ExchCtx where
  img : Image
  job : Job
  exch : Exchange
  d : ExchDesc
  /-- Pool step that its entry is scheduled in. -/
  step : Nat

/-- The exchange of an entry's job. -/
def exchCtx (s : State) (l : Fin 4) (entry lstep : Nat) : Option ExchCtx :=
  let ls := s.lvl l
  match ls.image, ls.job with
  | some img, some j => match j.exchange with
    | some x =>
      some ⟨img, j, x, ExchDesc.ofNat (img.descNat (img.entries.getD entry default) 128), j.poolStep lstep⟩
    | none => none
  | _, _ => none

/-- An exchange command of an entry. It works on the step the entry is scheduled in, so that slip past the end of that step alters no
value (R24, R364). -/
def Ready.exchCmd (r : Ready) (l : Fin 4) (e : Nat) : Cmd := { r.cmd l e with step := r.step + r.job.firstStep }

/-- Dispatch an exchange command, whose reads of far memory meet what `meets` puts there: an invalid descriptor, or a job without
the exchange, is not executed (R362, R368). -/
def runExchange (l : Fin 4) (e opcode : Nat) (meets : State → State) (s : State) (go : State → Cmd → ExchCtx → State) : Result :=
  s.dispatch l e isExchange opcode fun s r _ =>
    let c := r.exchCmd l e
    match exchCtx s l e c.step with
    | some x => if x.d.ok s l x.exch.region opcode then go (meets s) c x else s.invalidDesc c
    | none => s.invalidDesc c

/-- A command that has nothing to do completes without a far access. -/
def State.launchIdle (s : State) (c : Cmd) : State := s.launch c .empty [] .none

/-! ### CONTRIBUTE (R370, R371, R393) -/

/-- The DIGEST of the result block read for the step before one; 0 where the Level holds none (R370). -/
def LevelState.digestOf (ls : LevelState) (step : Nat) : Nat :=
  match ls.results.find? fun r => r.step + 1 = step with
  | some r => r.digest.toNat
  | none => 0

/-- A contribution header. -/
def contribHeader (step index elements crc prev amax : Nat) : List Byte :=
  leBytes 8 (stampOf step 1 0 index) ++ leBytes 8 step ++ leBytes 2 index ++ List.replicate 6 0 ++ leBytes 8 elements ++
    leBytes 8 crc ++ leBytes 8 prev ++ leBytes 2 amax ++ List.replicate 4046 0

/-- CONTRIBUTE: the amax block, the gradient, the header and last the stamp; nothing where the own index is not active
(R383). In a replay far memory is left alone (R466). -/
def execContribute (l : Fin 4) (e : Nat) (s : State) : Result :=
  runExchange l e 0x01 id s fun s c x =>
    let g := x.exch.region
    let own := x.job.ownIndex
    if x.job.replay.isSome || !(x.exch.activeAt x.step).contains own then s.launchIdle c
    else
      let (grad, a) := readNear s c .empty x.d.src (g.elements * g.c)
      let (am, a) := readNear s c a x.d.amax (4 * g.amax)
      let body := am ++ List.replicate (4096 - am.length) 0 ++ grad
      let prev := if g.layout = 1 then 0 else (s.lvl l).digestOf x.step
      let head := contribHeader x.step own g.elements (crc64 body) prev g.amax
      let slot := g.slotAt x.step own
      let a := writeFar s c a 0 (slot + 0x1000) body
      let a := writeFar s c a 1 (slot + 8) (head.drop 8)
      let a := writeFar s c a stampAt slot (head.take 8)
      (s.countReads a.weak).launch c a [] .none

/-! ### REDUCE (R372 to R375, R391) -/

/-- A contribution as its reader finds it. -/
structure Contrib where
  index : Nat
  present : Bool
  crcOk : Bool
  prev : Nat
  /-- AMAX block and gradient. -/
  body : List Byte
  deriving DecidableEq, Repr

/-- Read one contribution whose presence is decided. -/
def readContrib (s : State) (c : Cmd) (g : Region) (step : Nat) (a : Acc) (i : Nat) : Contrib × Acc :=
  let slot := g.slotAt step i
  let (st, a) := readFar s c a slot 8
  if leNat st = stampOf step 1 0 i then
    let (head, a) := readFar s c a slot 4096
    let (body, a) := readFar s c a (slot + 0x1000) (4096 + g.elements * g.c)
    (⟨i, true, decide (crc64 body = listLe head 0x20 8), listLe head 0x28 8, body⟩, a)
  else (⟨i, false, false, 0, []⟩, a)

/-- The reference digest: carried by the most contributions read; a tie goes to the lower value (R373). -/
def referenceDigest (cs : List Contrib) : Nat :=
  let ds := (cs.filter fun c => c.present).map Contrib.prev
  let n (d : Nat) : Nat := ds.countP fun x => x = d
  ds.foldl (fun best d => if n best < n d ∨ (n d = n best ∧ d < best) then d else best) (ds.headD 0)

/-- Missing for its digest alone (R373, R393). -/
def Contrib.diverged (c : Contrib) (g : Region) (ref : Nat) : Bool :=
  c.present && c.crcOk && decide (g.layout ≠ 1) && decide (c.prev ≠ ref)

/-- Missing (R373). -/
def Contrib.missing (c : Contrib) (g : Region) (ref : Nat) : Bool := !c.present || !c.crcOk || c.diverged g ref

/-- Element `e` of a contribution as a group result (R169), and whether it is not finite. -/
def Contrib.element (c : Contrib) (g : Region) (e : Nat) : GroupSum × Bool :=
  let x := listLe c.body (4096 + e * g.c) g.c
  match decodeCode (if g.contribF32 then .f32 else .bf16) x with
  | .nan => (⟨0, 0, true, false, false, false, .zero⟩, true)
  | .inf neg => (⟨0, 0, false, !neg, neg, false, .zero⟩, true)
  | .fin neg m u => (⟨if neg then -(m : Int) else m, u, false, false, false, false, .zero⟩, false)

/-- One round of the tree of R174. -/
def combinePairs : List A96 → List A96
  | x :: y :: rest => x.combine y :: combinePairs rest
  | xs => xs

/-- The tree of R174; `fuel` bounds its rounds. -/
def combineRounds : Nat → List A96 → A96
  | 0, xs => xs.headD .zero
  | n + 1, xs => match xs with
    | [] => .zero
    | [x] => x
    | xs => combineRounds n (combinePairs xs)

/-- combine_tree (R174). -/
def combineTree (xs : List A96) : A96 := combineRounds xs.length xs

/-- An A96 word divided by a whole number and rounded once (R374, R176). -/
def convertDiv (enc : Encoding) (x : A96) (d : Nat) : Nat :=
  match x.num with
  | .fin neg mag exp =>
    let m := mag * 2 ^ 160
    let c := roundNE enc (m / d) (exp - 160) (decide (m % d ≠ 0))
    signed enc neg (min c (encTop enc))
  | v => (convertNum enc ⟨false, false, false⟩ 0 v).code

/-- y * y as a group result. -/
def squareOf (enc : Encoding) (y : Nat) : Option GroupSum :=
  match decodeCode enc y with
  | .fin _ m u => some ⟨(m * m : Nat), 2 * u, false, false, false, false, .zero⟩
  | _ => none

/-- What a shard's reduction gathers. -/
structure Shard where
  payload : List Byte
  nonfinite : Nat
  loss : Nat
  q : A96
  /-- Indices that contributed a non-finite element. -/
  bad : List Nat
  deriving DecidableEq, Repr

/-- reduce_element (R374): `cs` are the contributions in ascending position. DESIGN CHOICE (notes/assumptions/105.md): Q_PART grows
beyond SIG as the sums of R300 do, by the shift of R173. -/
def reduceElement (g : Region) (cs : List (Contrib × Bool)) (sh : Shard) (e : Nat) : Shard :=
  let lanes := runsOf 64 (ceilDiv cs.length 64) cs
  let (accs, sh) := lanes.foldl (fun (r : List A96 × Shard) lane =>
    let (a, sh) := lane.foldl (fun (r : A96 × Shard) c =>
      if c.2 then r
      else
        let (x, nf) := c.1.element g e
        let sh := if nf then { r.2 with nonfinite := r.2.nonfinite + 1, bad := addNew c.1.index r.2.bad } else r.2
        (r.1.addGroup x, sh)) (A96.zero, r.2)
    (r.1 ++ [a], sh)) ([], sh)
  let t := combineTree accs
  let enc : Encoding := if g.reducedBf16 then .bf16 else .f32
  let y := convertDiv enc t (if g.mean then cs.length else 1)
  let nf := t.finite && (match decodeCode enc y with
    | .inf _ => true
    | _ => false)
  let q := match squareOf enc y with
    | some x => (sh.q.addGroup x).carried
    | none => sh.q
  { sh with payload := sh.payload ++ leBytes g.r y, nonfinite := sh.nonfinite + bitNat nf, q := q,
            loss := sh.loss + bitNat t.loss }

/-- A bitmap of 512 bytes over roster indices (R375). -/
def indexMap (xs : List Nat) : List Byte :=
  (List.range 512).map fun b => BitVec.ofNat 8 ((List.range 8).foldl (fun acc i => acc + if xs.contains (8 * b + i) then 2 ^ i else 0) 0)

/-- The pool amax (R391): the element-wise maximum over the contributions that are not missing. -/
def poolAmax (g : Region) (step : Nat) (cs : List (Contrib × Bool)) : List Byte :=
  let here := cs.filter fun c => !c.2
  (List.range 1024).flatMap fun i =>
    if g.amax ≤ i then List.replicate 4 0
    else match here.zipIdx.map fun c => (BitVec.ofNat 32 (listLe c.1.1.body (4 * i) 4), c.2) with
      | [] => (List.range 4).map fun b => Config.openAmax step (4 * i + b)
      | x :: xs => leBytes 4 (maxOf x xs).toNat

/-- A shard header (R375). -/
def shardHeader (step cp k owner d : Nat) (sh : Shard) (missing diverged : List Nat) (amax : List Byte) : List Byte :=
  leBytes 8 (stampOf step 2 cp k) ++ leBytes 8 step ++ leBytes 4 k ++ leBytes 2 owner ++ leBytes 1 cp ++
    leBytes 1 (bitNat (!missing.isEmpty)) ++ leBytes 4 d ++ leBytes 4 missing.length ++ leBytes 8 sh.nonfinite ++
    leBytes 8 sh.loss ++ leBytes 16 sh.q.bits ++ leBytes 8 (crc64 sh.payload) ++ List.replicate 184 0 ++ indexMap sh.bad ++
    indexMap missing ++ indexMap diverged ++ List.replicate 2304 0 ++
    (if k = 0 then amax else List.replicate 4096 0)

/-- The copies of shard `k` that an index owns (R372). -/
def ownedCopies (g : Region) (active : List Nat) (own k : Nat) : List Nat :=
  (List.range g.copies).filter fun cp => active.getD ((k + cp) % active.length) 0x10000 = own

/-- A contribution read waits: its stamp has not matched and its absence is not decided (R365). -/
def contribWaits (s : State) (l : Fin 4) (g : Region) (step i : Nat) : Bool :=
  s.stampAtFar l (g.slotAt step i) ≠ stampOf step 1 0 i

/-- The work of REDUCE once every contribution is present or absent. -/
def reduceWork (s : State) (c : Cmd) (x : ExchCtx) (active : List Nat) : Acc :=
  let g := x.exch.region
  let (cs, a) := active.foldl (fun (r : List Contrib × Acc) i =>
    let (k, a) := readContrib s c g x.step r.2 i
    (r.1 ++ [k], a)) ([], .empty)
  let ref := referenceDigest cs
  let marked := cs.map fun k => (k, k.missing g ref)
  let missing := (marked.filter fun k => k.2).map fun k => k.1.index
  let diverged := (cs.filter fun k => k.diverged g ref).map Contrib.index
  let amax := poolAmax g x.step marked
  let own := x.job.ownIndex
  (List.range g.shards).foldl (fun a k =>
    match ownedCopies g active own k with
    | [] => a
    | copies =>
      let sh := (List.range g.shardElems).foldl (fun sh e => reduceElement g marked sh (k * g.shardElems + e)) ⟨[], 0, 0, .zero, []⟩
      copies.foldl (fun a cp =>
        let head := shardHeader x.step cp k own active.length sh missing diverged amax
        let at_ := g.shardAt x.step cp k
        let a := writeFar s c a k (g.payloadAt x.step cp k) sh.payload
        let a := writeFar s c a k (at_ + 8) (head.drop 8)
        writeFar s c a stampAt at_ (head.take 8)) a) a

/-! ### GATHER and JOURNAL_READ (R376 to R378, R380) -/

/-- A used copy of a shard: header and payload. -/
structure UsedShard where
  head : List Byte
  payload : List Byte
  deriving DecidableEq, Repr

/-- One copy of a shard, if its stamp matches and its PAYLOAD_CRC is right. -/
def readCopy (s : State) (c : Cmd) (g : Region) (step k cp : Nat) (a : Acc) : Option UsedShard × Acc :=
  let at_ := g.shardAt step cp k
  let (st, a) := readFar s c a at_ 8
  if leNat st = stampOf step 2 cp k then
    let (head, a) := readFar s c a at_ 8192
    let (pay, a) := readFar s c a (g.payloadAt step cp k) (g.shardElems * g.r)
    (if crc64 pay = listLe head 0x40 8 then some ⟨head, pay⟩ else none, a)
  else (none, a)

/-- The copy that is used of a shard: copy 0, otherwise copy 1 (R376). -/
def readShard (s : State) (c : Cmd) (g : Region) (step k : Nat) (a : Acc) : Option UsedShard × Acc :=
  match readCopy s c g step k 0 a with
  | (some u, a) => (some u, a)
  | (none, a) => if g.copies = 2 then readCopy s c g step k 1 a else (none, a)

/-- The indices set in a bitmap. -/
def mapIndices (bs : List Byte) : List Nat := (List.range 4096).filter fun i => bitAt (bs.getD (i / 8) 0).toNat (i % 8)

/-- The result block (R376, R377): `us` are the shards in ascending k. -/
def resultBlock (step d : Nat) (us : List (Option UsedShard)) : List Byte :=
  let used := us.filterMap id
  let sum (o : Nat) : Nat := used.foldl (fun n u => n + listLe u.head o 8) 0
  let maps (o : Nat) : List Byte := (List.range 512).map fun b => used.foldl (fun acc u => acc ||| u.head.getD (o + b) 0) 0
  let absent := us.countP fun u => u.isNone
  let incomplete := decide (0 < absent) || used.any fun u => bitAt (listLe u.head 0x17 1) 0
  let q := combineTree (used.map fun u => A96.ofBits (listLe u.head 0x30 16))
  let qf := (convertNum .f32 ⟨false, false, false⟩ 0 q.num).code
  let nonfinite := if incomplete then 2 ^ 64 - 1 else sum 0x20 + (if qf = 0x7F800000 then 1 else 0)
  let missing := maps 0x300
  let digest := crc64 (us.flatMap fun u => match u with
    | some u => listSlice u.head 0x40 8
    | none => List.replicate 8 0xFF)
  let amaxOk := match us with
    | some u :: _ => !bitAt (listLe u.head 0x17 1) 0
    | _ => false
  let amax := match us with
    | some u :: _ => listSlice u.head 0x1000 4096
    | _ => (List.range 4096).map fun b => Config.openAmax step b
  leBytes 8 step ++ leBytes 4 d ++
    leBytes 4 (bitNat (decide (nonfinite ≠ 0)) + 2 * bitNat incomplete + 4 * bitNat amaxOk) ++ leBytes 8 nonfinite ++
    leBytes 4 (mapIndices missing).length ++ leBytes 4 absent ++ leBytes 4 qf ++ List.replicate 12 0 ++ leBytes 16 q.bits ++
    leBytes 8 (sum 0x28) ++ leBytes 8 digest ++ List.replicate 176 0 ++ maps 0x100 ++ missing ++ maps 0x500 ++
    List.replicate 2304 0 ++ amax

/-- A shard read waits (R365, R376). -/
def shardWaits (s : State) (l : Fin 4) (c : Cmd) (g : Region) (step k : Nat) : Bool :=
  let here (cp : Nat) : Bool := s.stampAtFar l (g.shardAt step cp k) = stampOf step 2 cp k
  !here 0 || ((readCopy s c g step k 0 .empty).1.isNone && decide (g.copies = 2) && !here 1)

/-- The work of GATHER and JOURNAL_READ: payloads, result block, and its copies in the cores. -/
def gatherWork (s : State) (c : Cmd) (x : ExchCtx) (step d : Nat) (journal : Bool) : Acc × List Byte :=
  let g := x.exch.region
  let (us, a) := (List.range g.shards).foldl (fun (r : List (Option UsedShard) × Acc) k =>
    let (u, a) := readShard s c g step k r.2
    (r.1 ++ [u], a)) ([], Acc.empty)
  let d := if journal then ((us.filterMap id).head?.map fun u => listLe u.head 0x18 4).getD
      (listLe (s.peekFar c.lvl (g.shardAt step 0 0) 32) 0x18 4) else d
  let a := us.zipIdx.foldl (fun a p => match p.1 with
    | some u => writeNear s c a p.2 (x.d.dst + p.2 * (g.shardElems * g.r)) u.payload
    | none => a) a
  let block := resultBlock step d us
  let a := writeNear s c a g.shards x.d.result block
  let a := ((List.range 16).filter fun n => bitAt x.d.coreMask n).foldl
    (fun a n => writeCore s c a (g.shards + 1) n x.d.coreAddr block) a
  (a, block)

/-- JOURNAL_READ reads an entry once; a stamp of another step in every copy, or one that changed, is a gap (R380). -/
def journalGap (s : State) (l : Fin 4) (g : Region) (step : Nat) (changed : Bool) : Bool :=
  changed || (List.range g.shards).any fun k =>
    (List.range g.copies).all fun cp => s.stampAtFar l (g.shardAt step cp k) % 2 ^ 40 ≠ step % 2 ^ 40

/-- Stamps of the shard copies of a step. -/
def Region.shardStamps (g : Region) (step : Nat) : List Nat :=
  (List.range g.shards).flatMap fun k => (List.range g.copies).map fun cp => g.shardAt step cp k

/-- Read stamps, for what their reads meet. -/
def State.readStamps (s : State) (c : Cmd) (addrs : List Nat) : Acc := addrs.foldl (fun a x => (readFar s c a x 8).2) .empty

/-- A command one of whose reads has failed: it writes nothing, and containment follows (R394, R417). -/
def State.launchFailed (s : State) (c : Cmd) (a : Acc) : State := s.launch c { a with writes := [] } [] .none

/-- The reading of a journal entry; a failed read is no gap (R417). -/
def journalWork (s : State) (c : Cmd) (x : ExchCtx) (step : Nat) (changed journal : Bool) : State :=
  let g := x.exch.region
  let stamps := s.readStamps c (g.shardStamps step)
  let (a, block) := gatherWork s c x step 0 true
  if stamps.failedFar ≠ [] then s.launchFailed c stamps
  else if a.failedFar ≠ [] then s.launchFailed c a
  else if journalGap s c.lvl g step changed then
    ((s.launchIdle c).raise 0x4005 (some c.lvl) 0 0 0 step).stopJob c.lvl
  else s.launch c a [] (.result block journal)

/-- JOURNAL_READ (R380). -/
def execJournalRead (l : Fin 4) (e : Nat) (env : FarEnv) (changed : Bool) (s : State) : Result :=
  runExchange l e 0x05 (·.withEnv env) s fun s c x => journalWork s c x x.d.replayStep changed true

/-! ### ROSTER_SYNC (R382 to R386) -/

/-- A roster entry as read. -/
structure RosterEntry where
  stamp : Nat
  join : Nat
  leave : Nat
  identity : List Byte
  deriving DecidableEq, Repr

/-- Read roster entry `i`. -/
def State.rosterEntry (s : State) (l : Fin 4) (g : Region) (i : Nat) : RosterEntry :=
  let b := s.peekFar l (g.rosterAt i) 64
  ⟨listLe b 0 8, listLe b 8 8, listLe b 16 8, listSlice b 24 16⟩

/-- An index is active at a step by its entry (R363, R382). -/
def RosterEntry.active (r : RosterEntry) (i step : Nat) : Bool :=
  decide (bitField r.stamp 40 4 = 3) && decide (bitField r.stamp 48 16 = i) && decide (r.join ≤ step) && decide (step < r.leave)

/-- An index that left under AUTO_LEAVE returns only through a later JOIN (R386). -/
def autoGone (left : List (Nat × Nat)) (r : RosterEntry) (i step : Nat) : Bool :=
  left.any fun p => p.1 = i && decide (p.2 ≤ step) && decide (r.join < p.2)

/-- The indices that leave under AUTO_LEAVE at a step: set in MISSING_PARTS of the result blocks of the m steps before it
(R386). -/
def LevelState.autoLeavers (ls : LevelState) (g : Region) (step : Nat) : List Nat :=
  if g.autoLeave = 0 then []
  else (List.range g.capacity).filter fun i =>
    (List.range g.autoLeave).all fun k => (match ls.results.find? fun r => r.step + k + 1 = step with
      | some r => r.missing.contains i
      | none => false)

/-- The active set of a step, and the indices that have left under AUTO_LEAVE by then (R383, R386). -/
def State.rosterSet (s : State) (l : Fin 4) (g : Region) (step : Nat) (left : List (Nat × Nat)) : List Nat × List (Nat × Nat) :=
  let new := ((s.lvl l).autoLeavers g step).map fun i => (i, step)
  let left := new ++ left
  ((List.range g.capacity).filter fun i =>
    let r := s.rosterEntry l g i
    r.active i step && !autoGone left r i step, left)

/-- The bytes of a roster entry that a ROSTER message writes, its stamp first (R382, R384). -/
def PendingRoster.bytes (p : PendingRoster) (old : RosterEntry) (step own : Nat) : List Byte :=
  leBytes 8 (stampOf step 3 0 p.index) ++ leBytes 8 (if p.join then p.effective else old.join) ++
    leBytes 8 (if p.join then 2 ^ 64 - 1 else p.effective) ++ (if p.join then p.identity else old.identity) ++
    leBytes 2 own ++ List.replicate 22 0

/-- The decision on a pending ROSTER message at the ROSTER_SYNC of a step (R384, rows 3 to 5). -/
def PendingRoster.decide (p : PendingRoster) (old : RosterEntry) (left : List (Nat × Nat)) (step : Nat) : Nat :=
  let active := old.active p.index p.effective && !autoGone left old p.index p.effective
  if active = p.join ∨ p.effective ≤ step then stRefused else stOk

/-- The pending entry is written first, at the dispatch (R383): where the close has passed, the Level is contained, or reading the old
entry fails (R394), nothing is written and the message stays pending. -/
def rosterWrite (s : State) (c : Cmd) (x : ExchCtx) : State × Acc :=
  match s.rosterMsg with
  | some p =>
    if p.level ≠ c.lvl.val then (s, .empty)
    else
      let g := x.exch.region
      let met := (readFar s c .empty (g.rosterAt p.index) 64).2
      let old := s.rosterEntry c.lvl g p.index
      let st := p.decide old x.exch.autoLeft x.step
      if met.failedFar ≠ [] then (s, met)
      else if st ≠ stOk then ({ s with rosterMsg := some { p with status := some st } }, met)
      else if s.pastClose x.job (x.job.closeCount x.img c.step x.d.close) then (s.exchangeLate c.lvl c.entry x.step, met)
      else if s.isContained c.lvl then (s, met)
      else
        let a := writeFar s c met 0 (g.rosterAt p.index) (p.bytes old x.step x.job.ownIndex)
        let s := s.applyWrites a.writes.reverse
        ({ s with rosterMsg := some { p with status := some stOk } }, { a with writes := [] })
  | none => (s, .empty)

/-- The reading of the roster, after the close plus GUARD_NS: the set of the next step, and the LEAVE_STEP that the part at
position 0 writes, its own index as WRITER and the stamp behind it (R27, R382, R383, R386; DESIGN CHOICE, notes/assumptions/104.md:
R364's close, which is past then, does not forbid this stamp). -/
def rosterWork (s : State) (c : Cmd) (x : ExchCtx) : Acc × After :=
  let g := x.exch.region
  let (next, left) := s.rosterSet c.lvl g (x.step + 1) x.exch.autoLeft
  let new := left.take (left.length - x.exch.autoLeft.length)
  let (_, a) := readFar s c .empty (g.rosterAt 0) (64 * g.capacity)
  let a := if (x.exch.activeAt x.step).head? = some x.job.ownIndex then
      new.foldl (fun a p =>
        let r := s.rosterEntry c.lvl g p.1
        if r.active p.1 x.step && decide (p.2 < r.leave) then
          let a := writeFar s c a stampAt (g.rosterAt p.1 + 0x10) (leBytes 8 p.2)
          let a := writeFar s c a stampAt (g.rosterAt p.1 + 0x28) (leBytes 2 x.job.ownIndex)
          writeFar s c a stampAt (g.rosterAt p.1) (leBytes 8 (stampOf x.step 3 0 p.1))
        else a) a
    else a
  (a, .roster next (new.map Prod.fst))

/-- Body of a ROSTER entry (R463): the step whose set it is, D, and the CRC-64 of the indices. -/
def rosterBody (step : Nat) (active : List Nat) : List Byte :=
  leBytes 8 step ++ leBytes 8 active.length ++ leBytes 8 (crc64 (active.flatMap (leBytes 2)))

/-- The body of the ROSTER entry that a log holds for the set of a step. -/
def recordedRoster (log : List LogEntry) (step : Nat) : Option (List Byte) :=
  (log.find? fun e => e.kind = 0x0A && decide (listLe e.body 0 8 = step)).map LogEntry.body

/-- In a replay the active set is that of the ROSTER entry of the step (R466). DESIGN CHOICE (notes/assumptions/36.md): the entry holds
no indices, so the set is the first of `sets` that it fits, else the lowest D indices. -/
def replayRoster (log : List LogEntry) (step : Nat) (sets : List (List Nat)) : List Nat :=
  match recordedRoster log step with
  | some b => (sets.find? fun t => rosterBody step t = b).getD (List.range (listLe b 8 8))
  | none => []

/-- The body of the ROSTER entry that a job enters for the set of a step: in a replay the recorded one. -/
def Job.rosterBody (j : Job) (step : Nat) (active : List Nat) : List Byte :=
  (j.replay.bind fun r => recordedRoster r.log step).getD (Sys2Proof.Machine.rosterBody step active)

/-! ### Waiting (R365) -/

/-- How many items a waiting exchange command still waits for: of each it reads one stamp again. -/
def exchangeWaits (s : State) (c : Cmd) (x : ExchCtx) (opcode : Nat) : Nat :=
  let g := x.exch.region
  if opcode = 2 then (x.exch.activeAt x.step).countP fun i => contribWaits s c.lvl g x.step i
  else if opcode = 3 then (List.range g.shards).countP fun k => shardWaits s c.lvl c g x.step k
  else 0

/-- The work of a waiting exchange command, if it need wait no longer: what it writes and what follows. -/
def exchangeTry (s : State) (c : Cmd) (x : ExchCtx) (opcode : Nat) : Option (Acc × After) :=
  let g := x.exch.region
  let active := x.exch.activeAt x.step
  let close (op : Nat) : Nat := x.job.closeCount x.img c.step (x.img.closeOf op)
  let past (op : Nat) : Bool := s.pastGuard x.job (close op) g.guardNs
  if opcode = 2 then
    if past 1 || decide (exchangeWaits s c x 2 = 0) then some (reduceWork s c x active, .none) else none
  else if opcode = 3 then
    if past 2 || decide (exchangeWaits s c x 3 = 0) then
      let (a, block) := gatherWork s c x x.step active.length false
      some (a, .result block false)
    else none
  else if s.pastGuard x.job (x.job.closeCount x.img c.step x.d.close) g.guardNs then some (rosterWork s c x)
  else none

/-- What the reads of a waiting exchange command meet: REDUCE reads the stamps, GATHER of each shard what it takes (R365, R376). -/
def exchangeLook (s : State) (c : Cmd) (x : ExchCtx) (opcode : Nat) : Acc :=
  let g := x.exch.region
  if opcode = 2 then s.readStamps c ((x.exch.activeAt x.step).map (g.slotAt x.step))
  else if opcode = 3 then (List.range g.shards).foldl (fun a k => (readShard s c g x.step k a).2) .empty
  else .empty

/-- What an exchange command that reads under R365 comes to now. -/
inductive Exchanged where
  /-- A read has failed: it is not taken as absent (R394). -/
  | failed (a : Acc)
  | done (a : Acc) (after : After)
  /-- It waits, and has read that many bytes of stamps in vain. -/
  | waits (bytes : Nat)
  deriving DecidableEq, Repr

/-- Read the stamps, and do the work where nothing is left to wait for. -/
def exchangeRead (s : State) (c : Cmd) (x : ExchCtx) (opcode : Nat) : Exchanged :=
  let looked := exchangeLook s c x opcode
  if looked.failedFar ≠ [] then .failed looked
  else match exchangeTry s c x opcode with
    | some (a, after) => if a.failedFar ≠ [] then .failed a else .done a after
    | none => .waits (8 * exchangeWaits s c x opcode)

/-- Dispatch of a command that reads under R365; `a0` is what it has done before. -/
def exchangeStart (s : State) (c : Cmd) (x : ExchCtx) (opcode : Nat) (a0 : Acc) : State :=
  match exchangeRead s c x opcode with
  | .failed a => s.launchFailed c { a with farBad := a0.farBad <|> a.farBad, farBytes := a0.farBytes + a.farBytes }
  | .done a after => s.launch c { a with farBad := a0.farBad <|> a.farBad, farBytes := a0.farBytes + a.farBytes } [] after
  | .waits n => s.launch c { a0 with farBytes := a0.farBytes + n } [] .waiting

/-- REDUCE (R373 to R375). In a replay far memory is left alone (R466). -/
def execReduce (l : Fin 4) (e : Nat) (env : FarEnv) (s : State) : Result :=
  runExchange l e 0x02 (·.withEnv env) s fun s c x =>
    if x.job.replay.isSome then s.launchIdle c else exchangeStart s c x 2 .empty

/-- GATHER (R376 to R378); in a replay it acts as JOURNAL_READ of its pool step (R466). -/
def execGather (l : Fin 4) (e : Nat) (env : FarEnv) (s : State) : Result :=
  runExchange l e 0x03 (·.withEnv env) s fun s c x =>
    if x.job.replay.isSome then journalWork s c x x.step false false else exchangeStart s c x 3 .empty

/-- ROSTER_SYNC (R383). -/
def execRosterSync (l : Fin 4) (e : Nat) (env : FarEnv) (s : State) : Result :=
  runExchange l e 0x04 (·.withEnv env) s fun s c x =>
    match x.job.replay with
    | some r =>
      let now_ := x.exch.activeAt x.step
      let auto := (s.lvl l).autoLeavers x.exch.region (x.step + 1)
      s.launch c .empty [] (.roster (replayRoster r.log (x.step + 1) [now_, now_.filter fun i => !auto.contains i]) [])
    | none =>
      let (s, a) := rosterWrite s c x
      if a.failedFar ≠ [] then s.launchFailed c a else exchangeStart s c x 4 a

/-- The exchange command that runs on a Level, with its context and opcode. -/
def State.exchangeRunning (s : State) (l : Fin 4) : Option (Running × Cmd × ExchCtx × Nat) :=
  match ((s.lvl l).eng 0x60).running with
  | r :: _ => match exchCtx s l r.entry r.step with
    | some x => some (r, ⟨l, 0x60, r.ctx, r.entry, r.step⟩, x, (x.img.entries.getD r.entry default).opcode)
    | none => none
  | [] => none

/-- Replace the command that runs on an engine first. -/
def State.setHead (s : State) (l : Fin 4) (eng : Nat) (r : Running) : State :=
  s.updEng l eng fun st => { st with running := r :: st.running.drop 1 }

/-- STAMP_REREAD: a waiting exchange command reads its stamps again (R365). -/
def execStampReread (l : Fin 4) (env : FarEnv) (s : State) : Result :=
  match s.exchangeRunning l with
  | some (r, c, x, op) =>
    if r.after ≠ .waiting then .next s
    else
      let s := s.withEnv env
      let put (a : Acc) (after : After) : State :=
        let s := s.setHead l 0x60 { r with
          writes := a.writes.reverse, refused := a.refused, after := after, nearBytes := r.nearBytes + a.nearBytes,
          farBytes := r.farBytes + a.farBytes }
        (s.reportFailures c a).reportRefused c a
      match exchangeRead s c x op with
      | .failed a => .next (put { a with writes := [] } .none)
      | .done a after => .next (put a after)
      | .waits n => .next (s.setHead l 0x60 { r with farBytes := r.farBytes + n })
  | none => .next s

/-- A running exchange command still has a stamp to write (R364). -/
def Running.stamps (r : Running) : Bool := !r.noStamp && r.writes.any fun w => decide (w.at_ = stampAt)

/-- The close of the writing command that runs has passed: it writes no stamp, and EV_EXCHANGE_LATE is raised (R364). -/
def State.closePassed (s : State) (l : Fin 4) : State :=
  match s.exchangeRunning l with
  | some (r, c, x, op) =>
    if (op = 1 ∨ op = 2) ∧ (r.stamps || (decide (r.after = .waiting) && !r.noStamp)) ∧
        s.pastClose x.job (x.job.closeCount x.img c.step x.d.close) then
      (s.setHead l 0x60 { r with noStamp := true }).exchangeLate l r.entry x.step
    else s
  | none => s

/-- EXCHANGE_CLOSE (R364). -/
def execExchangeClose (l : Fin 4) (s : State) : Result := .next (s.closePassed l)

/-! ### What exchange commands do at their completion -/

/-- The EXCHANGE, skip and divergence part of a completed GATHER (R378, R387, R463, R466). -/
def State.gatherDone (s : State) (l : Fin 4) (j : Job) (block : List Byte) : State :=
  let step := listLe block 0 8
  let s := s.log l 0x09 block
  let s := match j.replay with
    | some r =>
      if r.log.any fun e => e.kind = 0x09 && e.body = block then s else s.replayInput l (s.lvl l).lstep.toNat 0x09
    | none => s
  let low (o : Nat) : Nat := (mapIndices (listSlice block o 512)).headD 0xFFFF
  let s := if bitAt (listLe block 0x0C 4) 0 then
      s.raise 0x4002 (some l) (low 0x300) (low 0x100) 0 step (listLe block 0x10 8)
        (listLe block 0x18 4 + listLe block 0x1C 4 * 2 ^ 32)
    else s
  if (mapIndices (listSlice block 0x500 512)).contains j.ownIndex then (s.raise 0x4004 (some l) 0 0 0 step).stopJob l else s

/-- A result block has been read: the Level keeps its digest and its missing parts, in place of an earlier one of its step; after a
GATHER, of that step and the 255 before it (R386). -/
def State.resultDone (s : State) (l : Fin 4) (block : List Byte) (journal : Bool) : State :=
  let r : StepResult := ⟨listLe block 0 8, BitVec.ofNat 64 (listLe block 0x48 8), mapIndices (listSlice block 0x300 512)⟩
  let keeps (x : StepResult) : Bool :=
    decide (x.step ≠ r.step) && (journal || (decide (x.step < r.step) && decide (r.step < x.step + 256)))
  let s := s.updLvl l fun ls => { ls with results := r :: ls.results.filter keeps }
  match (s.lvl l).job with
  | some j => if journal then s else s.gatherDone l j block
  | none => s

/-- A ROSTER_SYNC has completed: the set of the next step is fixed, and a decided message is answered (R383, R384). -/
def State.rosterDone (s : State) (l : Fin 4) (lstep : Nat) (next auto : List Nat) : State :=
  match (s.lvl l).job with
  | some j => match j.exchange with
    | some x =>
      let step := j.poolStep lstep
      let now_ := x.activeAt step
      let x' := { x with active := now_, next := next, activeStep := step, autoLeft := auto.map (fun i => (i, step + 1)) ++ x.autoLeft }
      let s := s.updJob l fun j => { j with exchange := some x' }
      let s := s.log l 0x0A (j.rosterBody (step + 1) next)
      let s := if next = now_ then s else s.raise 0x4003 (some l) 0 0 0 step next.length
      match s.rosterMsg with
      | some p => match p.status with
        | some st =>
          if p.level = l.val then
            ({ s with rosterMsg := none }).reply p.fn p.slot st (leBytes 8 step)
          else s
        | none => s
      | none => s
    | none => s
  | none => s

/-- The set of BASE_STEP, read at the start cycle (R383). -/
def State.rosterBegin (s : State) (l : Fin 4) : State :=
  match (s.lvl l).job with
  | some j => match j.exchange with
    | some x =>
      let base := j.poolStep j.firstStep
      let (set, left) := match j.replay with
        | some r => (replayRoster r.log base [[j.ownIndex]], [])
        | none => s.rosterSet l x.region base []
      let s := s.updJob l fun j =>
        { j with exchange := some { x with active := set, next := set, activeStep := base, autoLeft := left } }
      s.log l 0x0A (j.rosterBody base set)
    | none => s
  | none => s

/-! ### ROSTER.JOIN and ROSTER.LEAVE (R384) -/

/-- Both messages: the first two rows decide at once, the others at a ROSTER_SYNC. A reserved field that is not zero is
refused. -/
def rosterMessage (fn : Fin 5) (slot : Fin 16) (msg : Nat) (join : Bool) (s : State) : Result :=
  s.onMessage fn.val slot.val msg fun s t l =>
    let index := t.le 0 2
    match ((s.lvl l).job.filter fun j => j.phase ≠ .opening).bind Job.exchange with
    | some x =>
      if x.region.capacity ≤ index then s.reply fn.val slot.val stNotFound
      else if s.rosterMsg.isSome then s.reply fn.val slot.val stBusy
      else if t.zero 2 6 = false ∨ (join = false ∧ t.zero 0x10 16 = false) then s.reply fn.val slot.val stRefused
      else
        let id := listSlice t.payload 0x10 16
        ({ s with rosterMsg := some ⟨l.val, fn.val, slot.val, join, index, t.le 8 8,
            id ++ List.replicate (16 - id.length) 0, none⟩ }).work fn.val slot.val
    | none => s.reply fn.val slot.val stNotFound

/-- ROSTER_JOIN. -/
def execRosterJoin (fn : Fin 5) (slot : Fin 16) (s : State) : Result := rosterMessage fn slot 0x50 true s

/-- ROSTER_LEAVE. -/
def execRosterLeave (fn : Fin 5) (slot : Fin 16) (s : State) : Result := rosterMessage fn slot 0x51 false s

/-- The job of a Level ends with a ROSTER message still pending: no exchange job is open on it any more (R384). -/
def State.dropRoster (s : State) (l : Fin 4) : State :=
  match s.rosterMsg with
  | some p => if p.level = l.val then ({ s with rosterMsg := none }).reply p.fn p.slot stNotFound else s
  | none => s

/-! ### FAR_READ and FAR_WRITE (R410) -/

/-- A descriptor of a far-memory move. -/
structure MoveDesc where
  far : Nat
  kind : Nat
  core : Nat
  local_ : Nat
  rowBytes : Nat
  farStride : Nat
  localStride : Nat
  rows : Nat
  stamp : Bool
  stampValue : Nat
  stampAddr : Nat
  reservedOk : Bool
  deriving DecidableEq, Repr

/-- Read a move descriptor. -/
def MoveDesc.ofNat (d : Nat) : MoveDesc :=
  { far := bitField d 0 64, kind := bitField d 64 2, core := bitField d 66 4, local_ := bitField d 70 40,
    rowBytes := bitField d 110 24, farStride := bitField d 134 24, localStride := bitField d 158 24, rows := bitField d 182 20,
    stamp := bitAt d 202, stampValue := bitField d 256 64, stampAddr := bitField d 320 64,
    reservedOk := reservedClear d [(0, 203), (256, 128)] }

/-- The rules of R410; `ws` are the windows of the job. -/
def MoveDesc.ok (d : MoveDesc) (ws : List FarWindow) (write : Bool) : Bool :=
  let shared (f : Nat) : Bool := match windowOf ws f with
    | some w => w.shared
    | none => false
  d.reservedOk && decide (d.kind < 2) && inRange d.rowBytes 64 16777152 && decide (d.rowBytes % 64 = 0) &&
    decide (d.farStride % 64 = 0) && decide (d.localStride % 64 = 0) && decide (d.rows ≠ 0) && decide (d.far < 2 ^ 46) &&
    decide (d.stampAddr < 2 ^ 46) && decide (d.stampAddr % 8 = 0) &&
    (!write || d.stamp || !((List.range d.rows).any fun i =>
      shared (d.far + i * d.farStride) || shared (d.far + i * d.farStride + d.rowBytes - 1)))

/-- Body of a FAR_READ entry (R463). -/
def farReadBody (entry crc : Nat) : List Byte := leBytes 8 entry ++ leBytes 8 crc

/-- FAR_READ: rows in ascending order; the CRC-64 of the bytes read is logged, and compared in a replay (R463, R466). -/
def execFarRead (l : Fin 4) (e : Nat) (env : FarEnv) (s : State) : Result :=
  s.dispatch l e isExchange 0x10 fun s r c =>
    let d := MoveDesc.ofNat (r.img.descNat r.en 128)
    if d.ok (s.windows l) false then
      let s := s.withEnv env
      let (a, crc) := (List.range d.rows).foldl (fun (p : Acc × Nat) i =>
        let (bs, a) := readFar s c p.1 (d.far + i * d.farStride) d.rowBytes
        (writeLocal s c a i (d.kind = 1) d.core (d.local_ + i * d.localStride) bs, crc64From p.2 bs)) (.empty, 0)
      let s := s.launch c a [] .none
      let s := s.log l 0x10 (farReadBody c.entry crc)
      match s.replayLog l with
      | some es =>
        if es.any fun x => x.kind = 0x10 && decide (x.step.toNat = c.step) && x.body = farReadBody c.entry crc then s
        else s.replayInput l c.step 0x10
      | none => s
    else s.invalidDesc c

/-- FAR_WRITE: rows in ascending order, and the stamp after every data byte. -/
def execFarWrite (l : Fin 4) (e : Nat) (s : State) : Result :=
  s.dispatch l e isExchange 0x11 fun s r c =>
    let d := MoveDesc.ofNat (r.img.descNat r.en 128)
    if d.ok (s.windows l) true then
      let a := (List.range d.rows).foldl (fun a i =>
        let (bs, a) := readLocal s c a (d.kind = 1) d.core (d.local_ + i * d.localStride) d.rowBytes
        writeFar s c a i (d.far + i * d.farStride) bs) .empty
      let a := if d.stamp then writeFar s c a stampAt d.stampAddr (leBytes 8 d.stampValue) else a
      (s.countReads a.weak).launch c a [] .none
    else s.invalidDesc c

end Sys2Proof.Machine
end

