-- ==== Sys2Proof/Machine/Snap.lean ====
section
/-!
DEFINITION. Machine/Snap.lean: far windows (R407), snapshot stores and generations, SNAP_WRITE, SNAP.TAKE, SNAP.RESTORE and
SNAP.FILL (19_snapshots.md).
-/
namespace Sys2Proof.Machine

/-! ### Far windows (R407) -/

/-- 1 GiB. -/
def gib : Nat := 2 ^ 30

/-- Read a window entry. -/
def FarWindow.ofBytes (b : List Byte) : FarWindow :=
  { base := listLe b 0 8, size := listLe b 8 8, links := BitVec.ofNat 16 (listLe b 16 2), granule4k := listLe b 18 1 = 1,
    shared := bitAt (listLe b 19 1) 0, persistent := bitAt (listLe b 19 1) 1, readOnly := bitAt (listLe b 19 1) 2,
    ide := bitAt (listLe b 19 1) 3, target := listLe b 24 8 }

/-- The link half carries a device that a window can name (R405, R407, R504). -/
def LinkHalf.usable (h : LinkHalf) : Bool := h.up && h.type3 && h.carries

/-- A window entry keeps the rules of R407, other windows apart. -/
def State.windowOk (s : State) (l : Fin 4) (b : List Byte) : Bool :=
  let w := FarWindow.ofBytes b
  let halves := linkBits w.links
  let n := halves.length
  decide (w.base % gib = 0) && decide (w.size % gib = 0) && [1, 2, 4, 8, 16].contains n && decide (listLe b 18 1 < 2) &&
    decide (listLe b 19 1 < 16) && allZero (listSlice b 20 4) && decide (w.base + w.size ≤ 2 ^ 46) &&
    halves.all fun h =>
      let k := s.link h
      (s.lvl l).ownsQuad (h / 4) && k.usable && decide (w.target + w.size / n ≤ k.capacity) && (!w.ide || k.ide)

/-- Windows do not overlap. -/
def windowsApart : List FarWindow → Bool
  | [] => true
  | w :: ws => ws.all (fun v => decide (w.base + w.size ≤ v.base) || decide (v.base + v.size ≤ w.base)) && windowsApart ws

/-! ### Stores and generations (R444 to R447) -/

/-- 64 MiB. -/
def chunkBytes : Nat := 2 ^ 26

/-- A store header. -/
structure Store where
  base : Nat
  format : Nat
  slots : Nat
  slotSize : Nat
  slotOffset : Nat
  deriving DecidableEq, Repr

/-- Read a store header; none where MAGIC, HEADER_CRC or a field other than FORMAT is wrong. -/
def Store.ofBytes (base : Nat) (b : List Byte) : Option Store :=
  let st : Store := ⟨base, listLe b 4 2, listLe b 6 2, listLe b 8 8, listLe b 16 8⟩
  if listLe b 0 4 = 0x534E4150 ∧ listLe b 0xFF8 8 = crc64 (b.take 0xFF8) ∧ inRange st.slots 2 16 = true ∧
      st.slotSize % chunkBytes = 0 ∧ st.slotOffset % chunkBytes = 0 ∧ allZero (listSlice b 0x18 4064) = true then some st else none

/-- Far address of slot `i` (R445). -/
def Store.slotAt (st : Store) (i : Nat) : Nat := st.base + st.slotOffset + i * st.slotSize

/-- Bytes of far memory through some windows. -/
def peekIn (ws : List FarWindow) (v : FarView) (addr n : Nat) : List Byte := (readFarIn ws v .empty addr n).1

/-- A generation as its header tells it. -/
structure Generation where
  slot : Nat
  number : Nat
  format : Nat
  sections : Nat
  chunks : Nat
  seed : Nat
  head : List Byte
  deriving DecidableEq, Repr

/-- TABLE_DIGEST of a generation. -/
def Generation.table (g : Generation) : List Byte := listSlice g.head 0x28 48

/-- The complete generation in slot `i`, if there is one (R447). -/
def Store.generation (st : Store) (ws : List FarWindow) (v : FarView) (i : Nat) : Option Generation :=
  let h := peekIn ws v (st.slotAt i) 4096
  let stamp := listLe h 0 8
  if bitField stamp 40 4 = 4 ∧ bitField stamp 0 40 = listLe h 8 8 % 2 ^ 40 ∧ bitField stamp 48 16 = i ∧
      listSlice h 0xFC8 48 = shaBytes (sha384 (listSlice h 8 0xFC0)) then
    some ⟨i, listLe h 8 8, listLe h 0x10 2, listLe h 0x12 2, listLe h 0x14 4, listLe h 0x18 8, h⟩
  else none

/-- The complete generations of a store, by slot. -/
def Store.generations (st : Store) (ws : List FarWindow) (v : FarView) : List Generation :=
  (List.range st.slots).filterMap (st.generation ws v)

/-- What the reads of a store's generation headers meet. -/
def Store.scan (st : Store) (ws : List FarWindow) (v : FarView) (a : Acc) : Acc :=
  (List.range st.slots).foldl (fun a i => (readFarIn ws v a (st.slotAt i) 4096).2) a

/-- The slot a new generation goes into (R451): the lowest incomplete one, otherwise that of the smallest generation. -/
def Store.chooseSlot (st : Store) (ws : List FarWindow) (v : FarView) : Nat :=
  match (List.range st.slots).find? fun i => (st.generation ws v i).isNone with
  | some i => i
  | none => match st.generations ws v with
    | [] => 0
    | g :: gs => (gs.foldl (fun b x => if x.number < b.number then x else b) g).slot

/-- The newest of some generations; among equal numbers the lower slot (R468). -/
def newestOf (gs : List Generation) : Option Generation :=
  gs.foldl (fun b g => match b with
    | some x => if x.number < g.number then some g else b
    | none => some g) none

/-- A section entry (R446). -/
structure Section where
  id : Nat
  far : Bool
  cls : Nat
  addr : Nat
  size : Nat
  first : Nat
  raw : List Byte
  deriving DecidableEq, Repr

/-- Read a section entry. -/
def Section.ofBytes (b : List Byte) : Section :=
  ⟨listLe b 0 4, listLe b 4 1 = 1, listLe b 5 1, listLe b 8 8, listLe b 16 8, listLe b 24 4, b⟩

/-- A plan entry keeps R446. -/
def Section.planOk (x : Section) : Bool :=
  decide (x.id ≠ 0) && decide (listLe x.raw 4 1 < 2) && decide (x.cls < 4) && allZero (listSlice x.raw 6 2) &&
    decide (x.size ≠ 0) && decide (x.size % 64 = 0) && (decide (x.cls ≠ 2) || decide (x.size % 320 = 0)) && decide (x.first = 0) &&
    allZero (listSlice x.raw 28 4)

/-- The plan of some entries at an offset of the descriptor area; none where it breaks R446 or leaves the area. -/
def Image.plan (img : Image) (off n : Nat) : Option (List Section) :=
  let xs := (List.range n).map fun i => Section.ofBytes (listSlice img.descs (off + 32 * i) 32)
  if off % 64 = 0 ∧ off + 32 * n ≤ img.descs.length ∧ xs.all Section.planOk = true ∧
      xs.all (fun x => xs.countP (fun y => y.id = x.id) = 1) = true then some xs else none

/-- Chunks of a section. -/
def Section.chunks (x : Section) : Nat := ceilDiv x.size chunkBytes

/-- The identity key's private scalar, from the device secret alone (R502). -/
def identityScalar : Nat := scalarOf (hmac384 (shaBytes Config.deviceSecret) Config.identityLabel).toNat

/-- The part's IDENTITY (R502). -/
def partIdentity : List Byte := (shaBytes (sha384 (publicKey identityScalar))).take 16

/-- A generation header, its STAMP first (R447). -/
def generationHeader (slot gen sections chunks seed crc : Nat) (table : List Byte) (writer : Nat) : List Byte :=
  let body := leBytes 8 gen ++ leBytes 2 3 ++ leBytes 2 sections ++ leBytes 4 chunks ++ leBytes 8 seed ++ leBytes 8 crc ++
    table ++ partIdentity ++ leBytes 2 writer ++ List.replicate 3934 0
  leBytes 8 (stampOf gen 4 0 slot) ++ body ++ shaBytes (sha384 body) ++ List.replicate 8 0

/-! ### SNAP_WRITE (R449 to R452) -/

/-- A history record as a snapshot holds it: one with SOURCE 0 is emptied (R452). -/
def historyOut (r : List Byte) : List Byte :=
  if r.getD 4 0 = 0 then
    r.take 2 ++ [0, 0] ++ listSlice r 4 4 ++ List.replicate 4 0 ++ listSlice r 12 4 ++ List.replicate 8 0 ++ listSlice r 24 40 ++
      List.replicate 256 0
  else r

/-- The bytes of a section as they are written. -/
def sectionOut (x : Section) (bs : List Byte) : List Byte :=
  if x.cls = 2 then (List.range (x.size / 320)).flatMap fun i => historyOut (listSlice bs (320 * i) 320) else bs

/-- Chunk `i` of some data, padded with zeros (R445). -/
def chunkOf (data : List Byte) (i : Nat) : List Byte := padTo chunkBytes (listSlice data (chunkBytes * i) chunkBytes)

/-- Read one section of the job's memory. -/
def readSection (s : State) (c : Cmd) (x : Section) (a : Acc) : List Byte × Acc :=
  if x.far then readFar s c a x.addr x.size else readNear s c a x.addr x.size

/-- A SNAP_WRITE descriptor: store base, INTERVAL, SECTIONS, PLAN; none where it is invalid (R449). -/
def snapDesc (s : State) (l : Fin 4) (img : Image) (en : Entry) : Option (Nat × Nat × List Section) :=
  let d := img.descNat en 128
  let base := bitField d 0 64
  let persistent := match windowOf (s.windows l) base with
    | some w => w.persistent
    | none => false
  if reservedClear d [(0, 87), (104, 48)] = true ∧ bitField d 64 16 ≠ 0 ∧ inRange (bitField d 80 7) 1 64 = true ∧
      persistent = true then
    (img.plan (bitField d 104 48) (bitField d 80 7)).map fun p => (base, bitField d 64 16, p)
  else none

/-- Answer the SNAP.TAKE that waits. -/
def State.answerTake (s : State) (l : Fin 4) (st : Nat) (payload : List Byte) : State :=
  match (s.lvl l).job.bind Job.snapTake with
  | some (fn, slot) => (s.updJob l fun j => { j with snapTake := none }).reply fn slot st payload
  | none => s

/-- The windows of a Level that hold a far address: those whose links a Global Persistent Flush for it takes. -/
def State.windowsAt (s : State) (l : Fin 4) (base : Nat) : List FarWindow := (windowOf (s.windows l) base).toList

/-- The chunks of a generation's sections, in order. -/
def snapChunks (parts : List (Section × List Byte)) : List (List Byte) :=
  parts.flatMap fun p => (List.range p.1.chunks).map (chunkOf p.2)

/-- The section table of a generation: each section with the number of its first chunk. -/
def snapTable (parts : List (Section × List Byte)) : List Byte :=
  padTo 2048 (parts.foldl (fun (r : List Byte × Nat) p =>
    (r.1 ++ p.1.raw.take 24 ++ leBytes 4 r.2 ++ leBytes 4 0, r.2 + p.1.chunks)) ([], 0)).1

/-- The writing of a generation into a slot. The slot's STAMP is zeroed and flushed at the dispatch (R451), unless the Level is
contained (R416). DEDUCED (notes/assumptions/91.md): where one of its writes is refused, which R408 discards and stops the job for, no
STAMP follows, so that no half-written slot becomes complete. -/
def snapWork (s : State) (c : Cmd) (img : Image) (j : Job) (st : Store) (plan : List Section) (gen : Nat) (a : Acc) : State :=
  let slot := st.chooseSlot (s.windows c.lvl) s.far
  let at_ := st.slotAt slot
  let z := if s.isContained c.lvl then .empty else writeFar s c .empty 0 at_ (List.replicate 8 0)
  let s := (s.applyWrites z.writes.reverse).flushFar (s.windowsAt c.lvl st.base)
  let (a, parts) := plan.foldl (fun (r : Acc × List (Section × List Byte)) x =>
    let (bs, a) := readSection s c x r.1
    (a, r.2 ++ [(x, sectionOut x bs)])) (a, [])
  let chunks := snapChunks parts
  let n := chunks.length
  let digests := chunks.flatMap fun ck => shaBytes (sha384 ck)
  let table := snapTable parts
  let digest := shaBytes (sha384 (table ++ digests))
  let writer := (j.decl.exchange.map ExchangeDecl.index).getD 0xFFFF
  let head := generationHeader slot gen plan.length n j.seed.toNat img.crc.toNat digest writer
  let b := chunks.zipIdx.foldl (fun a p => writeFar s c a p.2 (at_ + chunkBytes + p.2 * chunkBytes) p.1) .empty
  let b := writeFar s c b n (at_ + 0x1000) table
  let b := writeFar s c b n (at_ + 0x2000) digests
  let b := writeFar s c b n (at_ + 8) (head.drop 8)
  let whole := b.farBad.isNone && z.farBad.isNone
  let b := if whole then writeFar s c b stampAt at_ (head.take 8) else b
  let met := { a with writes := b.writes, farBytes := a.farBytes + z.farBytes + b.farBytes, farBad := z.farBad <|> a.farBad <|> b.farBad }
  let s := (s.countReads a.weak).launch c met [] (.snapshot gen slot st.base digest j.snapTake)
  if whole then s else s.updEng c.lvl c.eng fun en => { en with running := en.running.map fun r => { r with noStamp := true } }

/-- SNAP_WRITE: due at every INTERVAL-th step or where a SNAP.TAKE waits; an unusable store is reported (R450, R451). Where a read
of the store fails it writes nothing (R416, notes/assumptions/91.md). In a replay it writes nothing (R466). -/
def execSnapWrite (l : Fin 4) (e : Nat) (env : FarEnv) (s : State) : Result :=
  s.dispatch l e isExchange 0x20 fun s r c =>
    match snapDesc s l r.img r.en with
    | none => s.invalidDesc c
    | some (base, interval, plan) =>
      let p := r.job.poolStep c.step
      if r.job.replay.isSome || !(decide ((p - 1) % interval = 0) || r.job.snapTake.isSome) then s.launchIdle c
      else
        let s := s.withEnv env
        let (h, a) := readFar s c .empty base 4096
        if a.failedFar ≠ [] then s.launchFailed c a
        else match Store.ofBytes base h with
          | some st =>
            if st.format = 3 then
              let b := st.scan (s.windows l) s.far a
              if b.failedFar ≠ [] then s.launchFailed c b else snapWork s c r.img r.job st plan (p - 1) a
            else
              let cause := if st.format = 1 ∨ st.format = 2 then 1 else 0
              ((s.launch c a [] .none).raise 0x9007 (some l) 0 cause 0 (p - 1)).answerTake l stRefused []
          | none => ((s.launch c a [] .none).raise 0x9007 (some l) 0 0 0 (p - 1)).answerTake l stRefused []

/-- Body of a SNAPSHOT entry (R463). -/
def snapshotBody (gen slot base : Nat) (digest : List Byte) : List Byte := leBytes 8 gen ++ leBytes 8 slot ++ leBytes 8 base ++ digest

/-- A SNAP_WRITE has completed: its links are flushed after the header, and again after the stamp (R451); with the stamp written
it is logged, and the SNAP.TAKE that waited at its dispatch is answered (R454). -/
def State.snapDone (s : State) (l : Fin 4) (gen slot base : Nat) (digest : List Byte) (take_ : Option (Nat × Nat))
    (stamped : Bool) : State :=
  let s := s.flushFar (s.windowsAt l base)
  if stamped then
    let s := (s.flushFar (s.windowsAt l base)).log l 0x0E (snapshotBody gen slot base digest)
    if take_.isSome then s.answerTake l stOk (leBytes 8 gen) else s
  else s

/-- SNAP_TAKE (R454). -/
def execSnapTake (fn : Fin 5) (slot : Fin 16) (s : State) : Result :=
  s.onMessage fn.val slot.val 0x40 fun s t l =>
    match (s.lvl l).job, (s.lvl l).image with
    | some j, some img =>
      if (j.phase ≠ .running ∧ j.phase ≠ .draining) ∨
          (img.entries.any fun en => isExchange en.engine && decide (en.opcode = 0x20)) = false then
        s.reply fn.val slot.val stNotFound
      else if j.snapTake.isSome then s.reply fn.val slot.val stBusy
      else if t.zero 0 8 = false then s.reply fn.val slot.val stRefused
      else (s.updJob l fun j => { j with snapTake := some (fn.val, slot.val) }).work fn.val slot.val
    | _, _ => s.reply fn.val slot.val stNotFound

/-! ### SNAP.RESTORE (R455, R456) -/

/-- Write bytes of the part's own state, as the Headframe does: near memory, or far memory through the job's windows. -/
def State.putSection (s : State) (l : Fin 4) (far : Bool) (addr : Nat) (bs : List Byte) : State :=
  if far then
    let a := writeFarIn (s.windows l) .empty 0 addr bs
    (s.applyWrites a.writes.reverse).updLvl l fun ls => { ls with acct := { ls.acct with farBytes := ls.acct.farBytes + a.farBytes } }
  else
    ((piecesOf addr bs).foldl (fun s p => s.applyWrite ⟨0, .near, p.1, p.2⟩) s)

/-- A range overlaps a frozen range. -/
def overlapsFrozen (fs : List Frozen) (a n : Nat) : Bool :=
  fs.any fun f => decide (a < f.near + f.size) && decide (f.near < a + n)

/-- A far range lies in windows that may be written; `fuel` bounds the windows it may run through. -/
def farTargetIn (ws : List FarWindow) : Nat → Nat → Nat → Bool
  | 0, _, n => decide (n = 0)
  | fuel + 1, a, n => match windowOf ws a with
    | some w =>
      let here := w.base + w.size - a
      !w.readOnly && (decide (n ≤ here) || farTargetIn ws fuel (a + here) (n - here))
    | none => decide (n = 0)

/-- A far range lies in windows of the job that may be written. -/
def farTargetOk (ws : List FarWindow) (a n : Nat) : Bool := farTargetIn ws ws.length a n

/-- Snapshot sections and plan entries pair one to one; a CLASS 2 entry needs no partner in formats 1 and 2 (R455, R456). -/
def sectionsPair (format : Nat) (snap plan : List Section) : Bool :=
  snap.all (fun x => plan.countP (fun y => y.id = x.id ∧ y.far = x.far ∧ y.size = x.size) = 1) &&
    plan.all fun y => decide (snap.countP (fun x => x.id = y.id) = 1) ||
      (decide (y.cls = 2) && decide (format < 3) && decide (snap.countP (fun x => x.id = y.id) = 0))

/-- A history record with no partner in an old snapshot is emptied: COUNT, NEXT, REJECTED and LAST_STEP (R456). -/
def historyCleared (r : List Byte) : List Byte :=
  r.take 2 ++ [0, 0] ++ listSlice r 4 4 ++ List.replicate 4 0 ++ listSlice r 12 4 ++ List.replicate 8 0 ++ r.drop 24

/-- What a restore has come to. -/
structure Restoring where
  state : State
  /-- What its reads have met. -/
  acc : Acc
  /-- Chunk whose digest fails. -/
  failed : Option Nat
  wrote : Bool

/-- No read has returned an uncorrectable error. -/
def Acc.readsOk (a : Acc) : Bool := a.failedFar.isEmpty && a.failedNear.isEmpty

/-- Restore the chunks of one section, in order, until one fails. DESIGN CHOICE (notes/assumptions/90.md): a chunk whose read
fails is reported by the error's event alone, not as a failed digest. -/
def restoreSection (l : Fin 4) (st : Store) (g : Generation) (plan : List Section) (r : Restoring) (x : Section) : Restoring :=
  match plan.find? fun y => y.id = x.id with
  | none => r
  | some y =>
    (List.range x.chunks).foldl (fun (r : Restoring) i =>
      if r.failed.isSome || !r.acc.readsOk then r
      else
        let n := x.first + i
        let c := headframeCmd l
        let (ck, a) := readFar r.state c r.acc (st.slotAt g.slot + chunkBytes + n * chunkBytes) chunkBytes
        let (want, a) := if g.format = 1 then ([], a) else readFar r.state c a (st.slotAt g.slot + 0x2000 + 48 * n) 48
        if !a.readsOk then { r with acc := a }
        else if g.format ≠ 1 ∧ shaBytes (sha384 ck) ≠ want then { r with acc := a, failed := some n }
        else
          let bs := ck.take (x.size - chunkBytes * i)
          { r with state := r.state.putSection l y.far (y.addr + chunkBytes * i) bs, acc := a, wrote := true }) r

/-- The chunk that EV_SNAP_DIGEST names where the data of a format-1 snapshot fail as a whole. -/
def wholeData : Nat := 2 ^ 64 - 1

/-- The restore proper: chunks, the whole digest of format 1, and the CLASS 2 entries without a partner. -/
def restoreWork (s : State) (l : Fin 4) (st : Store) (g : Generation) (snap plan : List Section) (a : Acc) : Restoring :=
  let r := snap.foldl (restoreSection l st g plan) ⟨s, a, none, false⟩
  if r.failed.isSome || !r.acc.readsOk then r
  else
    let data := s.peekFar l (st.slotAt g.slot + chunkBytes) (g.chunks * chunkBytes)
    if g.format = 1 ∧ shaBytes (sha384 data) ≠ g.table then { r with failed := some wholeData }
    else
      let alone := plan.filter fun y => !snap.any fun x => x.id = y.id
      let clear (r : Restoring) (y : Section) : Restoring :=
        let (bs, a) := readSection r.state (headframeCmd l) y r.acc
        if !a.readsOk then { r with acc := a }
        else
          let out := (List.range (y.size / 320)).flatMap fun i => historyCleared (listSlice bs (320 * i) 320)
          { r with state := r.state.putSection l y.far y.addr out, acc := a, wrote := true }
      alone.foldl clear r

/-- SNAP_RESTORE (R455): the first row that applies decides. What its reads meet is reported, and an uncorrectable error ends it
under containment (R416). Its far bytes and corrected reads are counted (R400, R442). -/
def execSnapRestore (fn : Fin 5) (slot : Fin 16) (env : FarEnv) (s : State) : Result :=
  s.onMessage fn.val slot.val 0x41 fun s t l =>
    match (s.lvl l).job, (s.lvl l).image with
    | some j, some img =>
      if j.phase = .opening then s.reply fn.val slot.val stNotFound
      else if j.phase ≠ .opened then s.reply fn.val slot.val stBusy
      else
        let s := s.withEnv env
        let ws := s.windows l
        let base := t.le 0 8
        let wanted := t.le 8 8
        let c := headframeCmd l
        let (head, a) := readFar s c .empty base 4096
        let answer (a : Acc) (st : Nat) : State := ((s.chargeFar l a.farBytes).reportFailures c a).reply fn.val slot.val st
        match windowOf ws base, Store.ofBytes base head, img.plan (t.le 0x10 8) (t.le 0x18 2) with
        | some _, some st, some plan =>
          if inRange (t.le 0x18 2) 1 64 = false ∨ t.zero 0x1A 6 = false then answer a stRefused
          else if inRange st.format 1 3 = false then answer a stVersion
          else
            let a := st.scan ws s.far a
            let gs := st.generations ws s.far
            match (if wanted = 2 ^ 64 - 1 then newestOf gs else gs.find? fun g => g.number = wanted) with
            | none => answer a stNoSnapshot
            | some g =>
              let (table, a) := readFar s c a (st.slotAt g.slot + 0x1000) (32 * g.sections)
              let snap := (List.range g.sections).map fun i => Section.ofBytes (listSlice table (32 * i) 32)
              let frozen := plan.any fun y => !y.far && overlapsFrozen j.decl.frozen y.addr y.size
              let placed := plan.all fun y => if y.far then farTargetOk ws y.addr y.size else s.nearRangeOk l y.addr y.size
              if frozen then answer a stFrozen
              else if sectionsPair g.format snap plan = false ∨ g.seed ≠ j.seed.toNat ∨ placed = false then answer a stRefused
              else
                let r := restoreWork s l st g snap plan a
                let after := (r.state.countReads r.acc.weak).chargeFar l r.acc.farBytes
                let dirty (s : State) : State := s.updJob l fun j => { j with restoreDirty := j.restoreDirty || r.wrote }
                if !r.acc.readsOk then ((dirty after).reportFailures c r.acc).reply fn.val slot.val stRefused
                else match r.failed with
                  | some n => ((dirty after).reply fn.val slot.val stRefused).raise 0x9001 (some l) 0 0 0 g.number n
                  | none =>
                    let s := after.updJob l fun j => { j with restoreDirty := false, restored := some (g.number, g.table) }
                    let s := s.log l 0x0E (snapshotBody g.number g.slot base g.table)
                    s.work fn.val slot.val stOk (leBytes 8 g.number)
        | _, _, _ => answer a stRefused
    | _, _ => s.reply fn.val slot.val stNotFound

/-! ### SNAP.FILL (R457 to R459) -/

/-- A source of a fill. -/
structure FillSource where
  number : Nat
  window : FarWindow
  store : Option Store
  gens : List Generation
  failed : Bool
  deriving DecidableEq, Repr

/-- A source holds a generation: once a chunk table of generation `gen` is taken, of that generation only with that table (R458,
R468). -/
def FillSource.keeps (gen : Nat) (table : Option (List Byte × List Byte)) (g : Generation) : Bool :=
  decide (g.number ≠ gen) || (match table with
    | some d => decide (g.table = d.1)
    | none => true)

/-- The generation that a source holds under a number. -/
def FillSource.holds (f : FillSource) (n gen : Nat) (table : Option (List Byte × List Byte)) : Option Generation :=
  if f.failed then none else f.gens.find? fun g => decide (g.number = n) && FillSource.keeps gen table g

/-- A fill in progress. -/
structure Filling where
  state : State
  sources : List FillSource
  gen : Nat
  /-- The tables taken: their digest, and the chunk table. -/
  table : Option (List Byte × List Byte)
  verified : List Nat
  copied : Nat
  interruptions : Nat
  lastFailed : Nat
  done : Bool
  empty : Bool
  /-- Bytes moved over the Hoist links (R442). -/
  far : Nat

/-- EV_FILL_INTERRUPTED (R458). -/
def Filling.interrupt (f : Filling) (l : Fin 4) : Filling :=
  { f with state := f.state.raise 0x9002 (some l) 0 f.lastFailed 0 f.verified.length f.gen, interruptions := f.interruptions + 1 }

/-- Write through the destination window. -/
def Filling.put (f : Filling) (w : FarWindow) (addr : Nat) (bs : List Byte) : Filling :=
  let a := writeFarIn [w] .empty 0 addr bs
  { f with state := f.state.applyWrites a.writes.reverse, far := f.far + a.farBytes }

/-- Global Persistent Flush on the destination's links. -/
def Filling.flush (f : Filling) (w : FarWindow) : Filling := { f with state := f.state.flushFar [w] }

/-- What a read of a fill meets: its event alone, since no job is open (R417, R457). -/
def State.fillRead (s : State) (l : Fin 4) (w : FarWindow) (addr n : Nat) : List Byte × Bool × State :=
  let (bs, a) := readFarIn [w] s.far .empty addr n
  (bs, a.failedFar.isEmpty, s.reportFarIn [w] (headframeCmd l) a)

/-- Copy the chunks of one source that are not verified, ascending; a failing one fails the source. -/
def fillChunks (l : Fin 4) (dst : FarWindow) (slotAt : Nat) (src : FillSource) (st : Store) (g : Generation)
    (faults : List (Nat × Nat)) : List Nat → Filling → Filling
  | [], f => { f with done := true }
  | c :: cs, f =>
    if f.verified.contains c then fillChunks l dst slotAt src st g faults cs f
    else
      let (ck, ok, s) := f.state.fillRead l src.window (st.slotAt g.slot + chunkBytes + c * chunkBytes) chunkBytes
      let f := { f with state := s, far := f.far + chunkBytes }
      let want := listSlice ((f.table.map Prod.snd).getD []) (48 * c) 48
      if ok = false ∨ shaBytes (sha384 ck) ≠ want ∨ faults.contains (src.number, c) then
        let mark (x : FillSource) : FillSource := if x.number = src.number then { x with failed := true } else x
        ({ f with sources := f.sources.map mark, lastFailed := src.number } : Filling).interrupt l
      else
        let f := f.put dst (slotAt + chunkBytes + c * chunkBytes) ck
        fillChunks l dst slotAt src st g faults cs { f with verified := f.verified ++ [c], copied := f.copied + 1 }

/-- The newest generation that a source which has not failed holds. -/
def newestHeld (fs : List FillSource) (gen : Nat) (table : Option (List Byte × List Byte)) : Option Nat :=
  (newestOf (((fs.filter fun f => !f.failed).flatMap FillSource.gens).filter (FillSource.keeps gen table))).map Generation.number

/-- Copy the section and chunk tables of a source; their digest, not what its header says, tells them from then on (R458). -/
def Filling.takeTables (f : Filling) (l : Fin 4) (dst : FarWindow) (slotAt : Nat) (src : FillSource) (st : Store)
    (g : Generation) : Filling :=
  let (sections, _, s) := f.state.fillRead l src.window (st.slotAt g.slot + 0x1000) 2048
  let (chunks, _, s) := s.fillRead l src.window (st.slotAt g.slot + 0x2000) (48 * g.chunks)
  let f := ({ f with state := s, far := f.far + 2048 + 48 * g.chunks }.put dst (slotAt + 0x1000) sections).put dst (slotAt + 0x2000) chunks
  { f with table := some (shaBytes (sha384 (sections ++ chunks)), chunks) }

/-- The loop of R458; each round fails a source, changes the generation or ends, so twice the sources and two bound it. -/
def fillLoop (l : Fin 4) (dst : FarWindow) (slotAt slot : Nat) (faults : List (Nat × Nat)) : Nat → Filling → Filling
  | 0, f => f
  | fuel + 1, f =>
    if f.done || f.empty then f
    else match f.sources.find? fun x => (x.holds f.gen f.gen f.table).isSome with
      | none => match newestHeld f.sources f.gen f.table with
        | none => { f with empty := true }
        | some g =>
          fillLoop l dst slotAt slot faults fuel { ({ f with gen := g }.interrupt l) with table := none, verified := [] }
      | some src => match src.holds f.gen f.gen f.table, src.store with
        | some g, some st =>
          let f := if f.table.isSome then f else f.takeTables l dst slotAt src st g
          let f := fillChunks l dst slotAt src st g faults (List.range g.chunks) f
          if f.done then
            let h := generationHeader slot g.number g.sections g.chunks g.seed (listLe g.head 0x20 8) g.table 0xFFFF
            (((f.put dst (slotAt + 8) (h.drop 8)).flush dst).put dst slotAt (h.take 8)).flush dst
          else fillLoop l dst slotAt slot faults fuel f
        | _, _ => f

/-- The sources of a fill, and the state in which what the reads of their stores meet has been reported. -/
def State.fillSources (s : State) (l : Fin 4) (t : Taken) (n : Nat) : List FillSource × State :=
  (List.range n).foldl (fun (r : List FillSource × State) i =>
    let w := FarWindow.ofBytes (padTo 32 (listSlice t.payload (0x40 + 48 * i) 32))
    let base := t.le (0x60 + 48 * i) 8
    let (head, _, s) := r.2.fillRead l w base 4096
    let x := Store.ofBytes base head
    let (gs, s) : List Generation × State := match x with
      | some x =>
        ((x.generations [w] s.far).filter fun (g : Generation) => decide (g.format = 2) || decide (g.format = 3),
          s.reportFarIn [w] (headframeCmd l) (x.scan [w] s.far .empty))
      | none => ([], s)
    (r.1 ++ [(⟨i, w, x, gs, false⟩ : FillSource)], s)) ([], s)

/-- Bytes that reading the store header of a source and the generation headers of its store moves. -/
def FillSource.headBytes (f : FillSource) : Nat := 4096 + ((f.store.map fun x => 4096 * x.slots).getD 0)

/-- SNAP_FILL: the whole fill; the reply is posted when it ends, and the notices that arose in it after that (R567). `faults` are the
chunks of sources after which a peer is found to have changed the stamp. -/
def execSnapFill (fn : Fin 5) (slot : Fin 16) (env : FarEnv) (faults : List (Nat × Nat)) (s : State) : Result :=
  s.onMessage fn.val slot.val 0x42 fun s t l =>
    if (s.lvl l).job.isSome then s.reply fn.val slot.val stBusy
    else
      let s₀ := s
      let s := s.withEnv env
      let dstB := listSlice t.payload 0 32
      let dst := FarWindow.ofBytes dstB
      let n := t.le 0x30 1
      let srcB (i : Nat) : List Byte := padTo 32 (listSlice t.payload (0x40 + 48 * i) 32)
      let ok := inRange n 1 16 && s.windowOk l (padTo 32 dstB) && dst.persistent && t.zero 0x31 15 &&
        windowsApart (dst :: (List.range n).map fun i => FarWindow.ofBytes (srcB i)) &&
        (List.range n).all fun i => s.windowOk l (srcB i) && t.zero (0x68 + 48 * i) 8
      if ok = false then s.reply fn.val slot.val stRefused
      else
        let (head, _, s) := s.fillRead l dst (t.le 0x20 8) 4096
        match Store.ofBytes (t.le 0x20 8) head with
        | none => s.reply fn.val slot.val stRefused
        | some st =>
          if st.format ≠ 3 then s.reply fn.val slot.val stRefused
          else
            let (sources, s) := s.fillSources l t n
            let newest := newestHeld sources 0 none
            let g := if t.le 0x28 8 = 2 ^ 64 - 1 then newest.getD (2 ^ 64 - 1) else t.le 0x28 8
            let s := s.reportFarIn [dst] (headframeCmd l) (st.scan [dst] s.far .empty)
            let to_ := st.chooseSlot [dst] s.far
            let at_ := st.slotAt to_
            let f0 : Filling := ⟨s, sources, g, none, [], 0, 0, 0xFFFF, false, false,
              sources.foldl (fun n x => n + x.headBytes) (4096 + 4096 * st.slots)⟩
            let f := fillLoop l dst at_ to_ faults (2 * n + 2) ((f0.put dst at_ (List.replicate 8 0)).flush dst)
            let s := (f.state.chargeFar l f.far).replyBefore s₀ fn.val slot.val
            if f.done then s.work fn.val slot.val stOk (leBytes 8 f.gen ++ leBytes 4 f.copied ++ leBytes 2 f.interruptions)
            else s.work fn.val slot.val stNoSnapshot

end Sys2Proof.Machine
end

