-- ==== Sys2Proof/Machine/Declare.lean ====
section
/-!
DEFINITION. Machine/Declare.lean: reading and checking a job declaration (R428 to R441, R223, R224, R289, R290, R339, R360,
R362, R392, R407).
-/
namespace Sys2Proof.Machine

/-! ### Sections (R428) -/

/-- Bytes of one entry of a section type; 0 for a type that is not defined. -/
def sectionEntry (t : Nat) : Nat :=
  match t with
  | 0x01 => 32 | 0x02 => 16 | 0x03 => 8 | 0x04 => 96 | 0x05 => 32 | 0x06 => 32 | 0x07 => 32 | 0x08 => 32 | 0x09 => 16
  | _ => 0

/-- The section table: type, reserved bytes, count and offset of each section. -/
def declTable (b : List Byte) : List (Nat × Nat × Nat × Nat) :=
  (List.range (min (listLe b 4 4) (b.length / 16))).map fun i =>
    (listLe b (64 + 16 * i) 2, listLe b (66 + 16 * i) 2, listLe b (68 + 16 * i) 4, listLe b (72 + 16 * i) 8)

/-- Header and section table: MAGIC and CRC. -/
def declReadable (b : List Byte) : Bool :=
  decide (64 ≤ b.length) && decide (listLe b 0 4 = 0x4A444543) &&
    decide (listLe b 0x38 8 = crc64 (b.take 0x38 ++ List.replicate 8 0 ++ b.drop 0x40))

/-- The section table keeps R428: types known and each once, sections inside the declaration, single entries single. -/
def declTableOk (b : List Byte) : Bool :=
  let ts := declTable b
  decide (64 + 16 * listLe b 4 4 ≤ b.length) && allZero (listSlice b 8 48) && ts.all fun t =>
    decide (sectionEntry t.1 ≠ 0) && decide (t.2.1 = 0) && decide (ts.countP (fun u => u.1 = t.1) = 1) &&
      decide (t.2.2.2 + t.2.2.1 * sectionEntry t.1 ≤ b.length) &&
      (!(decide (t.1 = 3) || decide (t.1 = 6) || decide (t.1 = 9)) || decide (t.2.2.1 = 1))

/-- The bytes of the entries of a section; none of an absent one. -/
def declEntries (b : List Byte) (t : Nat) : List (List Byte) :=
  match (declTable b).find? fun x => x.1 = t with
  | some x => (List.range (min x.2.2.1 (b.length / 8))).map fun i =>
      padTo (sectionEntry t) (listSlice b (x.2.2.2 + sectionEntry t * i) (sectionEntry t))
  | none => []

/-- The bytes from the start of a section to the end of the declaration. -/
def declSection (b : List Byte) (t : Nat) : List Byte :=
  match (declTable b).find? fun x => x.1 = t with
  | some x => b.drop x.2.2.2
  | none => []

/-! ### Shares and chute ranges (R101, R105, R290, R431) -/

/-- First address and end of a core-store region (R101). -/
def regionBounds (r : Nat) : Nat × Nat :=
  if r = 0 then (0, 2 ^ 24) else (2 ^ 24 + (r - 1) * 0xC00000, 2 ^ 24 + r * 0xC00000)

/-- 832 KiB, the save area (R432). -/
def saveArea : Nat := 0xD0000

/-- Read a share entry. -/
def Share.ofBytes (b : List Byte) : Share :=
  let fl := listLe b 3 1
  { context := listLe b 0 1, core := listLe b 1 1, region := listLe b 2 1, sharedRead := bitAt fl 0, retain := bitAt fl 1,
    evictable := bitAt fl 2, start := listLe b 4 4, size := listLe b 8 4, backing := listLe b 16 8 }

/-- One share entry keeps the table of R431. -/
def State.shareOk (s : State) (l : Fin 4) (img : Image) (b : List Byte) : Bool :=
  let sh := Share.ofBytes b
  let (lo, hi) := regionBounds sh.region
  decide (sh.context < img.contexts) && decide (sh.core < 16) && (s.lvl l).ownsCore sh.core && decide (sh.region < 5) &&
    decide (listLe b 3 1 < 8) && decide (sh.start % 65536 = 0) && decide (sh.size % 65536 = 0) && decide (lo ≤ sh.start) &&
    decide (sh.start + sh.size ≤ hi) && allZero (listSlice b 12 4) && allZero (listSlice b 24 8) &&
    (if sh.evictable then
      decide (sh.backing % 64 = 0) && decide (sh.backing / 2 ^ 36 = sh.core / 4) && s.nearRangeOk l sh.backing sh.size &&
        decide ((sh.backing + sh.size - 1) / 2 ^ 36 = sh.core / 4)
    else decide (sh.backing = 0))

/-- Two share entries may stand together. -/
def sharesAgree (a b : Share) : Bool :=
  !(decide (a.context = b.context) && decide (a.core = b.core) && decide (a.region = b.region)) &&
    (decide (a.context ≠ b.context) || decide (a.evictable = b.evictable)) &&
    (decide (a.core ≠ b.core) || !overlaps a.start a.size b.start b.size ||
      (a.sharedRead && b.sharedRead && decide (a.start = b.start) && decide (a.size = b.size)) || (a.evictable && b.evictable))

/-- A context has a general range of 832 KiB on a core. -/
def hasSaveArea (shares : List Share) (ctx core : Nat) : Bool :=
  shares.any fun sh => sh.context = ctx && sh.core = core && decide (sh.region = 0) && decide (saveArea ≤ sh.size)

/-- The cores whose engines a slice covers; the slice of a major-2 image covers the engines that its entries use. -/
def Image.sliceCores (img : Image) (sl : Slice) : List Nat :=
  (List.range 16).filter fun n =>
    if img.major = 2 then img.entries.any fun en => decide (en.engine = n) || decide (en.engine = 0x10 + n)
    else sl.mask.getLsbD n || sl.mask.getLsbD (0x10 + n)

/-- Read a chute range. -/
def Chute.ofBytes (b : List Byte) : Chute := ⟨listLe b 0 1, listLe b 1 1, listLe b 8 4, listLe b 12 4⟩

/-- A chute range lies in one range of its context, which no eviction takes (R290, R431). -/
def chuteOk (shares : List Share) (b : List Byte) : Bool :=
  let c := Chute.ofBytes b
  allZero (listSlice b 2 6) && decide (c.addr % 65536 = 0) && decide (c.size % 65536 = 0) && decide (c.size ≠ 0) &&
    shares.any (fun sh => sh.context = c.context && sh.core = c.core && decide (sh.start ≤ c.addr) &&
      decide (c.addr + c.size ≤ sh.start + sh.size)) &&
    !shares.any fun sh => sh.context = c.context && sh.evictable

/-- The shares and chute ranges of a declaration. -/
def State.sharesOk (s : State) (l : Fin 4) (img : Image) (sh ch : List (List Byte)) : Bool :=
  let shares := sh.map Share.ofBytes
  let chutes := ch.map Chute.ofBytes
  sh.all (s.shareOk l img) && pairwise sharesAgree shares && ch.all (chuteOk shares) &&
    chutes.all (fun c => decide (chutes.countP (fun d => d.context = c.context) ≤ 16)) &&
    img.slices.all fun sl => (img.sliceCores sl).all fun n => hasSaveArea shares sl.context n

/-! ### Areas of near memory (R339, R392, R431, R438, R461, R491) -/

/-- Two areas, as address and size, are apart. -/
def apart (a b : Nat × Nat) : Bool := !overlaps a.1 a.2 b.1 b.2

/-- Near-memory areas of a batch. -/
def BatchDecl.nearAreas (d : BatchDecl) : List (Nat × Nat) :=
  [(d.le 0x20 8, 128 * d.rows), (d.le 0x28 8, 16 * d.rows), (d.le 0x30 8, 12288 * d.rows), (d.le 0x38 8, 4 * d.le 8 4 * d.rows),
    (d.le 0x40 8, 4 * d.rows), (d.le 0x48 8, d.rows * d.le 0xC 4 * d.le 0x14 4)]

/-- Far cache of a batch (R356). -/
def BatchDecl.farArea (d : BatchDecl) : Nat × Nat := (d.le 0x50 8, d.rows * (d.le 4 4 - d.le 0xC 4) * d.le 0x14 4)

/-- The areas that frozen ranges and backings are kept clear of: ledger, spill, batches; the Pit Log ring and the image. -/
def State.clearAreas (s : State) (l : Fin 4) (img : Image) (ledger : Nat × Nat) (spill : List (Nat × Nat))
    (batches : List BatchDecl) : List (Nat × Nat) :=
  [ledger] ++ spill ++ batches.flatMap BatchDecl.nearAreas ++ [(s.pitBase l, 2 ^ 30), (img.nearAddr, img.size)]

/-- Nothing of the declaration stands in the Pit Log ring or the image's range. -/
def State.placedOk (s : State) (l : Fin 4) (img : Image) (areas : List (Nat × Nat)) : Bool :=
  areas.all fun a => apart a (s.pitBase l, 2 ^ 30) && apart a (img.nearAddr, img.size)

/-- The bytes of a backing that an eviction writes (R431). -/
def Share.written (sh : Share) : Nat × Nat :=
  if sh.retain then (sh.backing, sh.size) else if sh.region = 0 then (sh.backing, min sh.size saveArea) else (sh.backing, 0)

/-- The backings keep clear of everything (R431). -/
def backingsOk (shares : List Share) (frozen clear : List (Nat × Nat)) : Bool :=
  let bs := (shares.filter Share.evictable).zipIdx
  bs.all fun b =>
    clear.all (apart (b.1.backing, b.1.size)) && frozen.all (apart b.1.written) &&
      bs.all fun o => decide (o.2 = b.2) || apart b.1.written (o.1.backing, o.1.size)

/-! ### Frozen tensors and skip maps (R222 to R224, R438, R441) -/

/-- Read a frozen entry. -/
def Frozen.ofBytes (b : List Byte) : Frozen := ⟨listLe b 0 2, listLe b 8 8, listLe b 16 8, listLe b 24 8⟩

/-- Near range of a frozen entry. -/
def Frozen.area (f : Frozen) : Nat × Nat := (f.near, f.size)

/-- One frozen entry keeps R438. -/
def State.frozenOk (s : State) (l : Fin 4) (ws : List FarWindow) (b : List Byte) : Bool :=
  let f := Frozen.ofBytes b
  allZero (listSlice b 2 6) && decide (f.near % 65536 = 0) && decide (f.size ≠ 0) && decide (f.size % 65536 = 0) &&
    s.nearRangeOk l f.near f.size && (decide (f.source = 0) || (match windowOf ws f.source with
      | some w => w.readOnly && decide (f.source + f.size ≤ w.base + w.size)
      | none => false))

/-- One record of a skip map: its length in bytes where it is valid (R223). -/
def skipRecord (b : List Byte) (last : Bool) (dense : Nat) : Option Nat :=
  let d := listLe b 0 2
  let k := listLe b 2 2
  let n := ceilDiv (4 + 2 * k) 8 * 8
  let ix := (List.range k).map fun i => listLe b (4 + 2 * i) 2
  let pairs := (List.range (d / 2)).all fun i => ix.contains (2 * i) || ix.contains (2 * i + 1)
  if decide (n ≤ b.length) && (if last then inRange d 1 dense else decide (d = dense)) && rising ix &&
      ix.all (fun i => decide (i < d)) && pairs && (decide (d % 2 = 0) || ix.contains (d - 1)) &&
      allZero (listSlice b (4 + 2 * k) (n - 4 - 2 * k)) then some n else none

/-- The records of a map, one after another: `n` are left, of which those at a multiple of `chunks` are last of a block. -/
def skipRecords (chunks dense : Nat) : Nat → List Byte → Bool
  | 0, b => b.isEmpty
  | n + 1, b => match skipRecord b (n % chunks = 0) dense with
    | some k => skipRecords chunks dense n (b.drop k)
    | none => false

/-- Read a map header of a section. -/
def SkipMap.ofBytes (sec h : List Byte) : SkipMap :=
  ⟨listLe h 0 2, listLe h 4 4, listLe h 8 4, listLe h 12 4, listSlice sec (listLe h 16 8) (listLe h 24 8)⟩

/-- A map keeps R223, R224 and R441. -/
def skipMapOk (sec : List Byte) (frozen : List Frozen) (h : List Byte) : Bool :=
  let m := SkipMap.ofBytes sec h
  allZero (listSlice h 2 2) && inRange m.blocks 1 65536 && inRange m.chunks 1 65536 && inRange m.dense 1 8192 &&
    decide (listLe h 16 8 % 8 = 0) && decide (listLe h 16 8 + listLe h 24 8 ≤ sec.length) && frozen.any (fun f => f.id = m.frozenId) &&
    decide (m.blocks * m.chunks ≤ m.records.length) && skipRecords m.chunks m.dense (m.blocks * m.chunks) m.records

/-- Two maps may stand together. -/
def skipMapsAgree (a b : List Byte) : Bool :=
  decide (listLe a 0 2 ≠ listLe b 0 2) && !overlaps (listLe a 16 8) (listLe a 24 8) (listLe b 16 8) (listLe b 24 8)

/-! ### Decode batches (R339) -/

/-- Read a batch declaration. -/
def BatchDecl.ofBytes (b : List Byte) : BatchDecl := ⟨listLe b 0 4, b⟩

/-- Every byte of a far range lies in some window; `fuel` bounds the windows it crosses. -/
def farCovered (ws : List FarWindow) : Nat → Nat → Nat → Bool
  | 0, _, n => decide (n = 0)
  | fuel + 1, a, n =>
    decide (n = 0) || (match windowOf ws a with
      | some w => let k := min n (w.base + w.size - a); farCovered ws fuel (a + k) (n - k)
      | none => false)

/-- The SAMPLE entries of the image. -/
def Image.samples (img : Image) : List SampleDesc :=
  (img.entries.filter fun en => decide (en.engine = 0x38) && decide (en.opcode = 1)).map fun en => SampleDesc.ofNat (img.descNat en 64)

/-- A batch declaration keeps R339. -/
def State.batchOk (s : State) (l : Fin 4) (img : Image) (ws : List FarWindow) (d : BatchDecl) : Bool :=
  let ext := d.le 4 4
  inRange d.rows 1 65536 && inRange ext 2 4194304 && inRange (d.le 8 4) 1 (ext - 1) && decide (d.le 0xC 4 ≤ ext) &&
    inRange (d.le 0x10 4) 1 1048576 && decide (d.le 0x14 4 % 64 = 0) && decide (d.le 0x18 4 ≤ 1048576) &&
    decide (d.le 0x1C 2 < 256 * (s.lvl l).record.tallyBlocks) && decide (d.le 0x1E 2 < img.loop) && decide (d.le 0x58 8 = 0) &&
    pairwise apart d.nearAreas && d.nearAreas.all (fun a => s.nearRangeOk l a.1 a.2) && farCovered ws (ws.length + 1) d.farArea.1 d.farArea.2 &&
    img.samples.all fun x => decide (x.rowAddr ≠ d.le 0x20 8) || (decide (x.rows = d.rows) && decide (x.result = d.le 0x28 8))

/-- The batches of a declaration. -/
def State.batchesOk (s : State) (l : Fin 4) (img : Image) (ws : List FarWindow) (ds : List BatchDecl) : Bool :=
  decide (ds.length ≤ 64) && ds.all (s.batchOk l img ws)

/-! ### The exchange region (R359, R360, R362) -/

/-- Read a region header. -/
def Region.ofBytes (base : Nat) (b : List Byte) : Region :=
  { base := base, layout := listLe b 4 2, capacity := listLe b 6 2, shards := listLe b 8 4, copies := listLe b 0xC 1,
    contribF32 := listLe b 0xD 1 = 1, reducedBf16 := listLe b 0xE 1 = 1, mean := listLe b 0xF 1 = 1, elements := listLe b 0x10 8,
    journal := listLe b 0x18 2, amax := listLe b 0x1A 2, autoLeave := listLe b 0x1C 1, guardNs := listLe b 0x20 4,
    rosterOff := listLe b 0x28 8, slotOff := listLe b 0x30 8, slotSize := listLe b 0x38 8, journalOff := listLe b 0x40 8,
    entrySize := listLe b 0x48 8, size := listLe b 0x50 8 }

/-- The header's CRC, ranges and offsets (R360). -/
def regionOk (g : Region) (b : List Byte) : Bool :=
  let one := decide (g.layout = 1)
  let at_ (off n : Nat) : Bool := decide (off % 65536 = 0) && decide (off < g.size) && decide (off + n ≤ g.size)
  decide (listLe b 0xFF8 8 = crc64 (b.take 0xFF8)) && inRange g.capacity 1 (if one then 512 else 4096) && inRange g.shards 1 65536 &&
    inRange g.copies 1 (if one then 1 else 2) && (listSlice b 0xD 3).all (fun x => decide (x.toNat < 2)) && decide (g.elements ≠ 0) &&
    decide (g.elements % (4096 * g.shards) = 0) && inRange g.journal 1 64 && decide (g.amax ≤ if one then 0 else 1024) &&
    allZero (listSlice b 0x1D 3) && inRange g.guardNs 100 1000000 && allZero (listSlice b 0x24 4) &&
    decide (8192 + g.elements * g.c ≤ g.slotSize) && decide (g.copies * g.shards * (8192 + g.shardElems * g.r) ≤ g.entrySize) &&
    at_ g.rosterOff (64 * g.capacity) && at_ g.slotOff (2 * g.capacity * g.slotSize) && at_ g.journalOff (g.journal * g.entrySize) &&
    allZero (listSlice b 0x58 4000)

/-- Read the EXCHANGE entry. -/
def ExchangeDecl.ofBytes (b : List Byte) : ExchangeDecl := ⟨listLe b 0 8, listLe b 8 2, listLe b 16 8, listLe b 24 8⟩

/-- Exchange entries of an image (R362). -/
def Image.hasExchange (img : Image) : Bool := img.entries.any fun en => decide (en.engine = 0x60) && inRange en.opcode 1 5

/-- What the region header's check comes to. -/
inductive RegionCheck where
  | version
  | refused
  | good (g : Region)
  deriving DecidableEq, Repr

/-- Judge the region header in the order of R362; it can be read only where one entry that keeps R407 holds it. -/
def State.checkRegion (s : State) (l : Fin 4) (img : Image) (layout2 : Bool) (wins : List (List Byte)) (e : ExchangeDecl)
    (v : FarView) : RegionCheck :=
  let ws := (wins.filter (s.windowOk l)).map FarWindow.ofBytes
  match windowOf ws e.region with
  | none => .refused
  | some w =>
    let h := peekIn [w] v e.region 4096
    let g := Region.ofBytes e.region h
    if listLe h 0 4 ≠ 0x58454748 then .refused
    else if inRange g.layout 1 2 = false ∨ (g.layout = 2 ∧ layout2 = false) then .version
    else if regionOk g h = true ∧ w.shared = true ∧ e.region + g.size ≤ w.base + w.size ∧ g.elements = e.gradElements ∧
        e.index < g.capacity ∧ decide (img.major = 2) = decide (g.layout = 1) then .good g
    else .refused

/-! ### The whole declaration -/

/-- The packed range of every spill entry lies in the spill area (R392). -/
def Image.spillOk (img : Image) (area : Nat × Nat) : Bool :=
  (img.entries.filter fun en => isCopyEng en.engine && decide (en.opcode = 2)).all fun en =>
    let d := CopyDesc.ofNat (img.descNat en 64)
    decide (d.dstKind ≠ 1) ||
      (decide (area.1 ≤ d.dst) && decide (d.dst + (d.rows - 1) * d.dstStride + zrcRange d.rowBytes ≤ area.1 + area.2))

/-- A declaration as it is read. -/
def Declaration.ofBytes (b : List Byte) : Declaration :=
  let sec := declSection b 8
  { crc := BitVec.ofNat 64 (listLe b 0x38 8), shares := (declEntries b 1).map Share.ofBytes,
    chutes := (declEntries b 2).map Chute.ofBytes,
    passBuffer := ((declEntries b 3).head?.map fun e => (listLe e 0 4, listLe e 4 4)).filter fun p => decide (p.2 ≠ 0),
    batches := (declEntries b 4).map BatchDecl.ofBytes, windows := (declEntries b 5).map FarWindow.ofBytes,
    exchange := (declEntries b 6).head?.map ExchangeDecl.ofBytes, frozen := (declEntries b 7).map Frozen.ofBytes,
    skipMaps := (declEntries b 8).map (SkipMap.ofBytes sec),
    spill := (declEntries b 9).head?.map fun e => (listLe e 0 8, listLe e 8 8) }

/-- Every section but EXCHANGE keeps its own chapter's rules. -/
def State.sectionsOk (s : State) (l : Fin 4) (img : Image) (ledger : Nat × Nat) (b : List Byte) : Bool :=
  let d := Declaration.ofBytes b
  let hub := (s.lvl l).record.hubUnits * 2 ^ 21
  let wins := declEntries b 5
  let maps := declEntries b 8
  let frozen := d.frozen.map Frozen.area
  let spill := d.spill.toList
  let clear := s.clearAreas l img ledger spill d.batches
  declTableOk b && s.sharesOk l img (declEntries b 1) (declEntries b 2) &&
    (match d.passBuffer with
      | some (off, size) => decide (size % 2 ^ 21 = 0) && decide (off + size ≤ hub)
      | none => true) &&
    decide (wins.length ≤ 64) && wins.all (s.windowOk l) && windowsApart d.windows && s.batchesOk l img d.windows d.batches &&
    (declEntries b 7).all (s.frozenOk l d.windows) && decide ((d.frozen.map Frozen.id).eraseDups.length = d.frozen.length) &&
    pairwise apart frozen && maps.all (skipMapOk (declSection b 8) d.frozen) && pairwise skipMapsAgree maps &&
    spill.all (fun a => s.nearRangeOk l a.1 a.2) &&
    (!img.spill || (match d.spill with
      | some a => img.spillOk a
      | none => false)) &&
    s.placedOk l img ([ledger] ++ spill ++ d.batches.flatMap BatchDecl.nearAreas ++ frozen) &&
    frozen.all (fun f => clear.all (apart f)) && backingsOk d.shares frozen clear

end Sys2Proof.Machine
end

