-- ==== Sys2Proof/Machine/Jobs.lean ====
section
/-!
DEFINITION. Machine/Jobs.lean: LEVEL.SET, JOB.OPEN, JOB.START, JOB.CLOSE, REPLAY.START, and the beginning and stopping of a
job (18_levels.md, R46, R67, R71, R465).
-/
namespace Sys2Proof.Machine

/-! ### Zeroing -/

/-- Zero a range of a core store. -/
def State.zeroCore (s : State) (core a n : Nat) : State :=
  { s with coreMem := memZero s.coreMem (core * 2 ^ 26 + a) n,
           mem := { s.mem with failedCore := healRange s.mem.failedCore (core * 2 ^ 26 + a) n } }

/-- Zero a range of the hub shared store. -/
def State.zeroHub (s : State) (a n : Nat) : State :=
  { s with hubMem := memZero s.hubMem a n, mem := { s.mem with failedHub := healRange s.mem.failedHub a n } }

/-- Zero a range of near memory. -/
def State.zeroNear (s : State) (a n : Nat) : State :=
  { s with nearMem := memZero s.nearMem a n, mem := { s.mem with failedNear := healRange s.mem.failedNear a n } }

/-- Zero the installed near memory of a quadrant (R421). -/
def State.zeroQuad (s : State) (q : Nat) : State := s.zeroNear (q * 2 ^ 36) s.quadBytes

/-- Base and size of the Level's hub share (R419). -/
def State.hubShare (s : State) (l : Fin 4) : Nat × Nat :=
  (s.blockBase l LevelRecord.hubUnits * 2 ^ 21, (s.lvl l).record.hubUnits * 2 ^ 21)

/-- Zero the pass-buffer area and the chute ranges of the Level's job (R289, R290). -/
def State.zeroTransient (s : State) (l : Fin 4) : State :=
  match (s.lvl l).job with
  | some j =>
    let s := match j.decl.passBuffer with
      | some (off, size) => s.zeroHub ((s.hubShare l).1 + off) size
      | none => s
    j.decl.chutes.foldl (fun (s : State) c => s.zeroCore c.core c.addr c.size) s
  | none => s

/-- Zero every core-store share of some declaration and the Level's hub share (R429, R430). -/
def State.zeroShares (s : State) (l : Fin 4) (shares : List Share) : State :=
  let s := shares.foldl (fun (s : State) sh => s.zeroCore sh.core sh.start sh.size) s
  s.zeroHub (s.hubShare l).1 (s.hubShare l).2

/-! ### LEVEL.SET (R419 to R422) -/

/-- Read a Level's record. -/
def LevelRecord.ofBytes (b : List Byte) : LevelRecord :=
  { quads := BitVec.ofNat 8 (listLe b 0 1), lflags := BitVec.ofNat 8 (listLe b 1 1), tallyBlocks := listLe b 2 1,
    reqBlocks := listLe b 3 1, hubUnits := listLe b 4 1, beltUnits := listLe b 5 1, pipes := BitVec.ofNat 8 (listLe b 6 1),
    stems := BitVec.ofNat 8 (listLe b 7 1), imageSlots := BitVec.ofNat 16 (listLe b 8 2),
    audioSlots := BitVec.ofNat 16 (listLe b 10 2) }

/-- Two Levels name nothing twice (R420). -/
def recordsApart (a b : LevelRecord) : Bool :=
  decide (a.quads &&& b.quads = 0) && decide (a.pipes &&& b.pipes = 0) && decide (a.stems &&& b.stems = 0) &&
    decide (a.imageSlots &&& b.imageSlots = 0) && decide (a.audioSlots &&& b.audioSlots = 0)

/-- The sums of the divided resources stay inside the part. -/
def recordSumsOk (rs : List LevelRecord) : Bool :=
  let sum (f : LevelRecord → Nat) : Nat := rs.foldl (fun n r => n + f r) 0
  decide (sum LevelRecord.tallyBlocks ≤ 32) && decide (sum LevelRecord.reqBlocks ≤ 16) && decide (sum LevelRecord.hubUnits ≤ 32) &&
    decide (sum LevelRecord.beltUnits ≤ 8)

/-- The 32 bytes of one record are well formed; an absent Level's are zero. -/
def recordBytesOk (b : List Byte) : Bool :=
  decide (listLe b 0 1 < 16) && decide (listLe b 1 1 < 2) && decide (listLe b 7 1 < 16) && allZero (listSlice b 12 20) &&
    (decide (listLe b 0 1 ≠ 0) || allZero b)

/-- A JOB.CLOSE or a job stands on any Level. -/
def State.anyJob (s : State) : Bool := (List.finRange 4).any fun l => (s.lvl l).job.isSome

/-- Put the records in force: zeroing, generations, images and ledger areas (R421). A Pit Log whose ring is zeroed or moves
holds nothing (R461). -/
def State.setLevels (s : State) (rs : List LevelRecord) : State :=
  let old := s
  let owner (q : Nat) : Option Nat := (List.range 4).find? fun i => bitAt (rs.getD i .absent).quads.toNat q
  let quads := (List.range 4).filter fun q =>
    decide (owner q ≠ (old.quadOwner q).map Fin.val) || (match owner q with
      | some i => bitAt (rs.getD i .absent).lflags.toNat 0
      | none => false)
  let s := quads.foldl State.zeroQuad s
  (List.finRange 4).foldl (fun (s : State) l =>
    let r := rs.getD l.val .absent
    s.updLvl l fun ls =>
      let hit := decide (r ≠ ls.record) || bitAt r.lflags.toNat 0
      let low (r : LevelRecord) : Option Nat := (List.range 4).find? fun q => bitAt r.quads.toNat q
      let ring := decide (low r = low ls.record) && (match low r with
        | some q => !quads.contains q
        | none => false)
      { ls with record := r, generations := [], results := if hit then [] else ls.results, log := if ring then ls.log else .fresh,
                image := if hit then none else ls.image, ledgerArea := if hit then none else ls.ledgerArea,
                ledger := if hit then [] else ls.ledger }) s

/-- LEVEL_SET (R420, R421, R486): the first row that applies decides; without LEVELS only L0 may name quadrants. The reply is
posted after the zeroing. -/
def execLevelSet (fn : Fin 5) (slot : Fin 16) (s : State) : Result :=
  s.onMessage fn.val slot.val 0x10 fun s t _ =>
    let bs := (List.range 4).map fun i => padTo 32 (listSlice t.payload (32 * i) 32)
    let rs := bs.map LevelRecord.ofBytes
    let levels := (s.fn fn.val).features.getLsbD 0
    let untrained := rs.any fun r => (List.range 4).any fun q => bitAt r.quads.toNat q && !s.mem.quads.getLsbD q
    if fn.val ≠ 0 then s.reply fn.val slot.val stRefused
    else if s.anyJob then s.reply fn.val slot.val stBusy
    else if levels = false ∧ (rs.drop 1).any (fun r => r.quads ≠ 0) then s.reply fn.val slot.val stVersion
    else if pairwise recordsApart rs = false ∨ recordSumsOk rs = false ∨ bs.all recordBytesOk = false ∨ untrained = true then
      s.reply fn.val slot.val stRefused
    else (s.setLevels rs).work fn.val slot.val

/-! ### JOB.OPEN (R427, R429) -/

/-- The conditions of R427 and R565 on the payload itself. -/
def State.openPayloadOk (s : State) (l : Fin 4) (t : Taken) : Bool :=
  let n := 2048 * t.le 2 2
  t.zero 1 1 && inRange (t.le 2 2) 1 65535 && (decide (t.le 4 2 ≤ 1024) || decide (t.le 4 2 = 0xFFFF)) && t.zero 6 2 &&
    decide (t.le 0x10 8 % 2048 = 0) && s.nearRangeOk l (t.le 0x10 8) n && decide (t.le 0x18 8 < 2 ^ 12) && t.zero 0x2C 20

/-- The engines as a new job finds them: at rest, with the debts they have left. DEDUCED (notes/assumptions/88.md): no rule clears a
debt, and LDEBT is not among the values that R86 clears at JOB.OPEN. -/
def LevelState.freshEngines (ls : LevelState) : Tab EngineState :=
  ls.engines.filterMap fun ke => if ke.2.debt.isEmpty then none else some (ke.1, { EngineState.fresh with debt := ke.2.debt })

/-- The Level as JOB.OPEN initialises it (R77, R81, R86, R185, R461); the part of it that outlives jobs stays. -/
def LevelState.forJob (ls : LevelState) (ledger tensors : Nat) (j : Job) : LevelState :=
  { LevelState.absent with
    record := ls.record, image := ls.image, ledgerArea := some (ledger, tensors), generations := ls.generations, acct := ls.acct,
    frame := ls.frame, switchWork := ls.switchWork, graceHeld := ls.graceHeld, offset := ls.offset, engines := ls.freshEngines, results := ls.results,
    job := some j }

/-- The bytes of the ledger area, every record EMPTY (R185). -/
def State.emptyLedger (s : State) (base tensors : Nat) : State :=
  let s := s.zeroNear base (2048 * tensors)
  { s with nearMem := (List.range tensors).foldl (fun m i => memWrite m (base + 2048 * i) (leBytes 4 (2 + i * 65536))) s.nearMem }

/-- The Level's cores at fill level 0, their dummy pattern in bfloat16 (R109, R112). -/
def State.restCores (s : State) (l : Fin 4) : State :=
  (s.lvl l).coreList.foldl (fun (s : State) n =>
    s.updCore n fun k => { k with fillLevel := 0, fillTarget := 0, fillStep := 0, lastFormat := [], ctl := .idle }) s

/-- Load the frozen tensors that have a SOURCE, in order, up to one whose read fails (R429, R439). DESIGN CHOICE
(notes/assumptions/92.md): nothing of that one is written. -/
def State.loadFrozen (s : State) (ws : List FarWindow) (fs : List Frozen) : State × Acc :=
  fs.foldl (fun (x : State × Acc) f =>
    if decide (f.source = 0) || !x.2.failedFar.isEmpty then x
    else
      let (bs, a) := readFarIn ws x.1.far x.2 f.source f.size
      if a.failedFar.isEmpty then
        ((piecesOf f.near bs).foldl (fun (s : State) p => s.applyWrite ⟨0, .near, p.1, p.2⟩) x.1, a)
      else (x.1, a)) (s, .empty)

/-- The job that JOB.OPEN makes. -/
def jobOf (t : Taken) (d : Declaration) (region : Option Region) : Job :=
  { phase := .opening, tensors := t.le 2 2, grace := if t.le 4 2 = 0xFFFF then 16 else t.le 4 2,
    graceLeft := if t.le 4 2 = 0xFFFF then 16 else t.le 4 2, seed := BitVec.ofNat 64 (t.le 8 8),
    mask := BitVec.ofNat 64 (t.le 0x18 8), payload := padTo 64 (t.payload.take 64), decl := d, startCycle := 0, stepLimit := 0,
    beginOrdinal := 0, stopPending := false, stopDue := false, beginDue := none, graceExpired := none, closing := none,
    contained := false, rangeRaised := false, wrapRaised := false, restoreDirty := false, restored := none, snapTake := none,
    resident := [], saved := [],
    exchange := region.map fun g => { region := g, active := [], next := [], activeStep := 0, autoLeft := [] }, replay := none }

/-- The body of the FROZEN entry of a range (R463), as the Headframe reads the range: a failed block reads as zeros (R568); and what
the reads meet. -/
def State.frozenBody (s : State) (l : Fin 4) (f : Frozen) : List Byte × Acc :=
  let (bs, a) := readNear s (headframeCmd l) .empty f.near f.size
  (leBytes 8 f.id ++ leBytes 8 (crc64 bs), a)

/-- What the Headframe's reads meet is counted and reported (R400, R415). -/
def State.headframeMet (s : State) (l : Fin 4) (a : Acc) : State := (s.countReads a.weak).reportFailures (headframeCmd l) a

/-- The first entries of the Pit Log (R463): the opening, and each frozen range. -/
def State.logOpen (s : State) (l : Fin 4) (j : Job) (img : Image) : State :=
  let s := s.log l 0x01
    (j.payload ++ leBytes 8 j.decl.crc.toNat ++ leBytes 8 img.crc.toNat ++ leBytes 16 img.build.toNat ++ leBytes 8 j.baseStep)
  j.decl.frozen.foldl (fun (s : State) f =>
    let (b, a) := s.frozenBody l f
    (s.headframeMet l a).log l 0x08 b) s

/-- What JOB.OPEN does once its checks have passed and the frozen tensors are loaded: the initialisation; `far` are the bytes
loaded. -/
def State.openJob (s : State) (l : Fin 4) (img : Image) (t : Taken) (d : Declaration) (region : Option Region) (far : Nat) : State :=
  let j := jobOf t d region
  let s := s.updLvl l fun ls =>
    { ls.forJob (t.le 0x10 8) (t.le 2 2) j with acct := { ls.acct with farBytes := ls.acct.farBytes + far } }
  let s := (s.emptyLedger (t.le 0x10 8) (t.le 2 2)).restCores l
  (s.zeroShares l d.shares).logOpen l j img

/-- What the read of the region header meets, and its bytes (R442): its windows are those that keep R407. -/
def State.regionRead (s : State) (l : Fin 4) (wins : List (List Byte)) (e : ExchangeDecl) : State :=
  let ws := (wins.filter (s.windowOk l)).map FarWindow.ofBytes
  let a := if (windowOf ws e.region).isSome then (readFarIn ws s.far .empty e.region 4096).2 else .empty
  (s.chargeFar l a.farBytes).reportFarIn ws (headframeCmd l) a

/-- JOB_OPEN: `decl` is what the read of the declaration gives. -/
def execJobOpen (fn : Fin 5) (slot : Fin 16) (decl : Option (List Byte)) (env : FarEnv) (s : State) : Result :=
  s.onMessage fn.val slot.val 0x20 fun s t l =>
    let ls := s.lvl l
    let refused := s.reply fn.val slot.val stRefused
    match ls.image with
    | none => s.reply fn.val slot.val stNotFound
    | some img =>
      if ls.job.isSome then s.reply fn.val slot.val stBusy
      else if t.le 0x20 8 % 4096 ≠ 0 ∨ inRange (t.le 0x28 4) 64 (2 ^ 24) = false then refused
      else match decl with
        | none => refused.pcieFailed fn 0x20 (t.le 0x20 8)
        | some bs =>
          let b := dmaBytes (t.le 0x28 4) bs
          let d := Declaration.ofBytes b
          let wins := declEntries b 5
          if declReadable b = false then refused
          else
            let s := s.withEnv env
            let exch := if img.usesExchange then d.exchange else none
            let region := exch.map fun e => s.checkRegion l img ((s.fn fn.val).features.getLsbD 3) wins e s.far
            let s := match exch with
              | some e => s.regionRead l wins e
              | none => s
            match region with
            | some .version => s.reply fn.val slot.val stVersion
            | r =>
              let g? := match r with
                | some (.good g) => some g
                | _ => none
              let fits := if img.usesExchange then g?.isSome else d.exchange.isNone && !img.hasExchange
              if fits = false ∨ s.openPayloadOk l t = false ∨
                  s.sectionsOk l img (t.le 0x10 8, 2048 * t.le 2 2) b = false then s.reply fn.val slot.val stRefused
              else
                let (s, a) := s.loadFrozen d.windows d.frozen
                if a.failedFar ≠ [] then ((s.chargeFar l a.farBytes).reportFarIn d.windows (headframeCmd l) a).reply fn.val slot.val stRefused
                else (s.openJob l img t d g? a.farBytes).work fn.val slot.val

/-! ### JOB.START and REPLAY.START (R29, R46, R67, R430, R465) -/

/-- The period of an image is within 0.1 % of the current one (R46). -/
def State.periodOk (s : State) (img : Image) : Bool :=
  let p := s.cad.current
  let d := ((2 * img.periodNs * p.n : Nat) : Int) - ((p.sum : Nat) : Int)
  decide (1000 * d.natAbs ≤ p.sum)

/-- The start cycle could still begin when the message was taken (R67). -/
def Taken.startAhead (t : Taken) (start : Nat) : Bool := decide (t.cycle.toNat < start)

/-- The job is started, as of the time at which the message was taken: it waits for its start cycle, has begun in a cycle since, or
has been stopped before it by a discontinuity (R44, R67). Every core engine holds context 0 (R433) and no evictable context is
resident (R436). -/
def State.startJob (s : State) (l : Fin 4) (t : Taken) (start limit : Nat) (replay : Option Replay) (body : List Byte) : State :=
  let s := s.updJob l fun j =>
    { j with phase := .started, startCycle := BitVec.ofNat 64 start, stepLimit := limit,
             stopDue := t.dropped && (s.lvl l).usesExchange && replay.isNone, beginDue := t.begun,
             resident := [], saved := [], replay := replay }
  (s.updLvl l fun ls => { ls with engines := ls.freshEngines }).log l 0x02 body

/-- JOB_START. -/
def execJobStart (fn : Fin 5) (slot : Fin 16) (s : State) : Result :=
  s.onMessage fn.val slot.val 0x21 fun s t l =>
    match (s.lvl l).job, (s.lvl l).image with
    | some j, some img =>
      if j.phase = .opening then s.reply fn.val slot.val stNotFound
      else if j.phase ≠ .opened then s.reply fn.val slot.val stBusy
      else if (img.usesExchange ∧ s.cad.state ≠ .locked) ∨ s.periodOk img = false ∨ t.startAhead (t.le 0 8) = false ∨
          j.restoreDirty = true then s.reply fn.val slot.val stRefused
      else (s.startJob l t (t.le 0 8) (t.le 8 8) none (padTo 16 (t.payload.take 16))).reply fn.val slot.val stOk
    | _, _ => s.reply fn.val slot.val stNotFound

/-- The state at FIRST_STEP is that of the recorded run (R465). -/
def State.replayState (s : State) (l : Fin 4) (j : Job) (log : List LogEntry) (first : Nat) : Bool :=
  if first = 1 then
    j.restored.isNone && log.all fun e => decide (e.kind ≠ 0x08) || j.decl.frozen.any fun f => e.body = (s.frozenBody l f).1
  else match j.restored with
    | some (gen, table) =>
      decide (gen + 2 = j.baseStep + first) &&
        log.any fun e => decide (e.kind = 0x0E) && decide (listLe e.body 0 8 = gen) && decide (listSlice e.body 24 48 = table)
    | none => false

/-- What that comparison reads meets (R568). -/
def State.replayMet (s : State) (l : Fin 4) (j : Job) (first : Nat) : State :=
  if first = 1 then j.decl.frozen.foldl (fun (s : State) f => s.headframeMet l (s.frozenBody l f).2) s else s

/-- A log covers the steps from FIRST_STEP to LAST_STEP. -/
def logCovers (log : List LogEntry) (loop first last : Nat) : Bool :=
  decide (first ≤ last) && decide (last - first < log.length) && (List.range (last - first + 1)).all fun i => coversStep log loop (first + i)

/-- Where a replay begins to take recorded messages: at the start of the log for step 1, else at the first entry of its first
step. -/
def replayPos (log : List LogEntry) (first : Nat) : Nat :=
  if first = 1 then 0 else (log.findIdx? fun e => decide (first ≤ e.step.toNat)).getD log.length

/-- REPLAY_START: `log` is what the read of the recorded log gives. A REFUSED that a reserved field causes stands beside the
checks of the log. -/
def execReplayStart (fn : Fin 5) (slot : Fin 16) (log : Option (List Byte)) (s : State) : Result :=
  s.onMessage fn.val slot.val 0x70 fun s t l =>
    let refused := s.reply fn.val slot.val stRefused
    match (s.lvl l).job, (s.lvl l).image with
    | some j, some img =>
      if j.phase = .opening then s.reply fn.val slot.val stNotFound
      else if j.phase ≠ .opened then s.reply fn.val slot.val stBusy
      else if t.le 8 8 % 4096 ≠ 0 ∨ t.le 0x28 1 > 1 ∨ t.zero 0x29 7 = false then refused
      else match log with
        | none => refused.pcieFailed fn 0x70 (t.le 8 8)
        | some bs =>
          let b := dmaBytes (t.le 0x10 8) bs
          let first := t.le 0x18 8
          let last := t.le 0x20 8
          match parseEntries (b.length / 64 + 1) b with
          | none => refused
          | some es =>
            let opened := match es.find? fun e => e.kind = 1 with
              | some e =>
                decide (listLe e.body 64 8 = j.decl.crc.toNat) && decide (listLe e.body 72 8 = img.crc.toNat) &&
                  decide (listLe e.body 8 8 = j.seed.toNat)
              | none => false
            if gapless es = false ∨ logCovers es img.loop first last = false ∨ opened = false then refused
            else
            let same := s.replayState l j es first
            let s := s.replayMet l j first
            if same = false ∨ s.periodOk img = false ∨ t.startAhead (t.le 0 8) = false ∨ j.restoreDirty = true then
              s.reply fn.val slot.val stRefused
            else
              let r : Replay :=
                { log := es, pos := replayPos es first, first := first, last := last, stopOnDiverge := bitAt (t.le 0x28 1) 0,
                  diverged := [], done := false }
              (s.startJob l t (t.le 0 8) 0 (some r) (padTo 48 (t.payload.take 48))).reply fn.val slot.val stOk
    | _, _ => s.reply fn.val slot.val stNotFound

/-! ### The beginning of a job (R67, R383) -/

/-- JOB_BEGIN: the start cycle has begun; the job runs, its first cycle at offset 0 of its first step. DESIGN CHOICE
(notes/assumptions/77.md): an exchange job that begins while the Winder is not LOCKED begins with its whole grace. An exchange job
reads the roster; a read that fails leaves no index active and contains the Level. -/
def execJobBegin (l : Fin 4) (env : FarEnv) (s : State) : Result :=
  match (s.lvl l).job, (s.lvl l).image with
  | some j, some img => match j.beginDue with
    | some ord =>
      if j.phase ≠ .started ∨ j.stopDue = true then .next s
      else
        let k := s.cad.ordinal - ord
        let s := s.updLvl l fun ls =>
          { ls with offset := k % img.loop, lstep := BitVec.ofNat 64 (j.firstStep + k / img.loop),
                    job := some { j with phase := .running, beginOrdinal := ord, beginDue := none, graceLeft := j.grace } }
        match j.exchange with
        | some x =>
          let s := s.withEnv env
          let c : Cmd := ⟨l, 0x60, 0, 0xFFFFFFFF, j.firstStep⟩
          let a := if j.replay.isSome then .empty else (readFar s c .empty (x.region.rosterAt 0) (64 * x.region.capacity)).2
          let s := s.chargeFar l a.farBytes
          .next (if a.failedFar ≠ [] then s.reportFailures c a else s.rosterBegin l)
        | none => .next s
    | none => .next s
  | _, _ => .next s

/-! ### Stopping (R71, R109, R426) -/

/-- The engines of a Level abandon every suspended command (R71). -/
def State.abandonSuspended (s : State) (l : Fin 4) : State :=
  (s.lvl l).engines.foldl (fun (s : State) ke =>
    let rs := ke.2.suspended.map Prod.snd
    let s := s.updEng l ke.1 fun e => { e with suspended := [] }
    rs.foldl (fun (s : State) r => s.abandon l ke.1 r) s) s

/-- JOB_STOP: the stop boundary has come. Nothing more is dispatched, suspended commands are abandoned, every core ramps to
fill level 0 at one step per 256 arithmetic cycles, and the Assay forms a record. -/
def execJobStop (l : Fin 4) (s : State) : Result :=
  match (s.lvl l).job with
  | some j =>
    if j.stopDue = false then .next s
    else
      let s := s.updJob l fun j => { j with phase := .draining, stopDue := false, stopPending := false, beginDue := none }
      let s := (s.abandonSuspended l).checkInvalid l
      let s := (s.lvl l).coreList.foldl (fun (s : State) n =>
        s.updCore n fun k => { k with fillTarget := 0, fillStep := 4, fillFrom := s.arith n }) s
      .next (s.askRecord l.val 2)
  | none => .next s

/-- Every dispatched command of the Level has completed or been abandoned, and the Lamp Room has worked every boundary. -/
def LevelState.quiet (ls : LevelState) : Bool := ls.live.isEmpty && ls.batches.all fun e => e.2.due.isEmpty

/-- The job is STOPPED, and a containment over (R416): pass buffer and chute ranges are zeroed (R289), requests end (R358), a
SNAP.TAKE is refused (R454). -/
def State.enterStopped (s : State) (l : Fin 4) : State :=
  let s := s.updJob l fun j => { j with phase := .stopped, contained := false, stopDue := false, stopPending := false, beginDue := none }
  let s := (s.zeroTransient l).endRequests l
  (s.answerTake l stRefused []).replayDone l

/-! ### JOB.CLOSE (R430) -/

/-- A close begins, for a message or a function reset: a running job stops at the next boundary, a job that has not begun stops
at once. -/
def State.beginClose (s : State) (l : Fin 4) (who : Option (Nat × Nat)) : State :=
  let s := s.updJob l fun j =>
    { j with closing := some who, stopPending := j.stopPending || decide (j.phase = .running && !j.stopDue) }
  match (s.lvl l).job with
  | some j => if j.phase = .opening ∨ j.phase = .opened ∨ j.phase = .started then s.enterStopped l else s
  | none => s

/-- JOB_CLOSE: the close begins; its reply is posted when REPLY_POSTED has finished it. -/
def execJobClose (fn : Fin 5) (slot : Fin 16) (s : State) : Result :=
  s.onMessage fn.val slot.val 0x22 fun s _ l =>
    match (s.lvl l).job with
    | some j =>
      if j.phase = .opening then s.reply fn.val slot.val stNotFound
      else if j.closing.isSome then s.reply fn.val slot.val stBusy
      else (s.beginClose l (some (fn.val, slot.val))).work fn.val slot.val
    | none => s.reply fn.val slot.val stNotFound

/-- Close every OPEN ledger record (R189, R430). -/
def State.closeLedger (s : State) (l : Fin 4) : State :=
  ((s.lvl l).ledger.map Prod.fst).foldl (fun (s : State) t => s.closeRecord l t) s

/-- The steps of R430 after the job has stopped, Global Persistent Flush among them (R409). -/
def State.finishClose (s : State) (l : Fin 4) : State :=
  let s := (((s.endRequests l).closeLedger l).replayDone l).zeroTransient l
  let s := (s.zeroShares l (s.shares l)).flushFar (s.windows l)
  let s := s.dropRoster l
  s.updLvl l fun ls =>
    { ls with graceHeld := (ls.job.map Job.graceLeft).getD 0, job := none, requests := [], batches := [], handed := [], deferred := [], invalid := [] }

/-- JOB_STOPPED; a close that a function reset began ends with it, since no message waits for it (R472). -/
def execJobStopped (l : Fin 4) (s : State) : Result :=
  match (s.lvl l).job with
  | some j =>
    if j.phase = .draining ∧ (s.lvl l).quiet = true then
      let s := s.enterStopped l
      .next (if j.closing = some none then s.finishClose l else s)
    else .next s
  | none => .next s

end Sys2Proof.Machine
end

