-- ==== Sys2Proof/Machine/Replies.lean ====
section
/-!
DEFINITION. Machine/Replies.lean: LEDGER.READ (R198 to R200), ASSAY.READ (R524), ATTEST.QUOTE (R502, R503), and the end of the
messages whose work takes time (R481, R490).
-/
namespace Sys2Proof.Machine

/-! ### LEDGER.READ -/

/-- LEDGER_READ: the copy; the reply is posted after it. -/
def execLedgerRead (fn : Fin 5) (slot : Fin 16) (s : State) : Result :=
  s.onMessage fn.val slot.val 0x60 fun s t l =>
    let ls := s.lvl l
    let first := t.le 0 2
    let n := t.le 2 2
    let dest := t.le 4 1
    let target := t.le 8 8
    let found := match ls.ledgerArea with
      | some (_, total) => decide (first + n ≤ total)
      | none => false
    let ok := decide (dest < 2) && inRange n 1 512 && t.zero 6 2 &&
      (if dest = 0 then decide (target < 512) && decide (target + n ≤ 512) else decide (target % 2048 = 0))
    if (s.fn fn.val).taken.any fun o => o.msg = 0x60 && o.working then s.reply fn.val slot.val stBusy
    else if found = false then s.reply fn.val slot.val stNotFound
    else if ok = false then s.reply fn.val slot.val stRefused
    else
      let rs := (List.range n).map fun i => ls.record_ (first + i)
      let bs := rs.zipIdx.flatMap fun p => p.1.bytes (first + p.2)
      let s := if dest = 0 then s.barBytes fn.val (0x300000 + 0x800 * target) bs
        else { s with hostMem := memWrite s.hostMem target bs }
      let reply := leBytes 2 n ++ leBytes 2 (rs.countP fun r => r.state = 1) ++ leBytes 4 0 ++ leBytes 8 s.cad.number.toNat ++
        leBytes 2 s.angle
      (s.pcie l bs.length).work fn.val slot.val stOk reply

/-! ### ASSAY.READ -/

/-- Where copied bytes of an ASSAY.READ go: the record window of the mirror, or host memory. -/
def State.assayCopy (s : State) (fn : Nat) (t : Taken) (bs : List Byte) : State :=
  if t.le 0x10 8 = 0 then s.barBytes fn 0x201000 bs else { s with hostMem := memWrite s.hostMem (t.le 0x10 8) bs }

/-- The reply of ASSAY.READ. -/
def State.assayReply (s : State) (copied first next : Nat) : List Byte :=
  leBytes 2 copied ++ List.replicate 6 0 ++ leBytes 8 first ++ leBytes 8 next ++
    leBytes 8 (s.asy.tot.nextSeq - s.asy.tot.records.length)

/-- An ASSAY.READ is copying: not while it waits for its record to be formed and signed (R524). -/
def State.assayCopying (s : State) (fn : Nat) (t : Taken) : Bool :=
  decide (t.msg = 0x61) && t.working && !s.asy.waiting.any fun q => q.for_ = .message fn t.slot

/-- The first two rows of R524: BUSY, REFUSED. -/
def State.assayBar (s : State) (fn : Nat) (t : Taken) : Option Nat :=
  let ch := t.le 0 1
  let n := t.le 2 2
  let counts := match t.le 1 1 with
    | 1 => inRange n 1 64
    | 2 => inRange n 1 2048
    | _ => decide (n = 0)
  if (s.fn fn).taken.any (s.assayCopying fn) || decide (8 ≤ s.asy.requested) || !s.asy.linkUp || !s.asy.vasy then some stBusy
  else if decide (4 < ch) || decide (3 < t.le 1 1) || !(decide (fn = 0) || decide (fn = ch + 1)) || !counts ||
      decide (t.le 0x10 8 % 4096 ≠ 0) || !t.zero 4 4 then some stRefused
  else none

/-- Work an ASSAY.READ of one KIND; the row of NEW also answers a reserved KIND. -/
def assayRead (fn : Fin 5) (slot : Fin 16) (mine : Nat → Bool) (go : State → Taken → State) (s : State) : Result :=
  s.onMessage fn.val slot.val 0x61 fun s t _ =>
    if mine (t.le 1 1) = false then s
    else match s.assayBar fn.val t with
      | some st => s.reply fn.val slot.val st
      | none => go s t

/-- ASSAY_READ_NEW: a record is asked for; RECORD_SIGNED copies it. -/
def execAssayReadNew (fn : Fin 5) (slot : Fin 16) (s : State) : Result :=
  assayRead fn slot (fun k => decide (k = 0) || decide (3 < k)) (fun s t =>
    (s.askRecord (t.le 0 1) 0 (.message fn.val slot.val)).work fn.val slot.val) s

/-- ASSAY_READ_BY_SEQ: held records of the channel from FIRST, ascending. -/
def execAssayReadBySeq (fn : Fin 5) (slot : Fin 16) (s : State) : Result :=
  assayRead fn slot (fun k => decide (k = 1)) (fun s t =>
    let seqOf (r : Nat × List Byte) : Nat := listLe r.2 8 8
    let rs := (s.asy.tot.records.filter fun r => decide (r.1 = t.le 0 1) && decide (t.le 8 8 ≤ seqOf r)).take (t.le 2 2)
    match rs with
    | [] => s.reply fn.val slot.val stNotFound
    | r :: _ =>
      let last := seqOf (rs.getLastD r)
      (s.assayCopy fn.val t (rs.flatMap Prod.snd)).work fn.val slot.val stOk (s.assayReply rs.length (seqOf r) (last + 1))) s

/-- ASSAY_READ_LOG: stored entries from FIRST. -/
def execAssayReadLog (fn : Fin 5) (slot : Fin 16) (s : State) : Result :=
  assayRead fn slot (fun k => decide (k = 2)) (fun s t =>
    let es := (s.asy.tot.log.drop (t.le 8 8)).take (t.le 2 2)
    if es.isEmpty then s.reply fn.val slot.val stNotFound
    else
      let reply := s.assayReply es.length (t.le 8 8) (t.le 8 8 + es.length)
      (s.assayCopy fn.val t es.flatten).work fn.val slot.val stOk reply) s

/-- ASSAY_READ_CERT: the certificate. COPIED, FIRST_SEQ and NEXT_SEQ, which count records, are free values here. -/
def execAssayReadCert (fn : Fin 5) (slot : Fin 16) (s : State) : Result :=
  assayRead fn slot (fun k => decide (k = 3)) (fun s t =>
    let (a, s) := s.free64
    let (b, s) := s.free64
    let (c, s) := s.free64
    let reply := s.assayReply a.toNat b.toNat c.toNat
    (s.assayCopy fn.val t Config.assayCert).work fn.val slot.val stOk reply) s

/-! ### ATTEST.QUOTE -/

/-- The attestation key's private scalar: HMAC of the device secret over "AK", FW_DIGEST, SVN and the debug state. -/
def State.attestScalar (s : State) : Nat :=
  let b := s.boot
  scalarOf (hmac384 (shaBytes Config.deviceSecret) ([0x41, 0x4B] ++ Config.akContext b.fwDigest b.svn b.debugUnlocked)).toNat

/-- JOB_STATE of a Level: 0 for none. -/
def LevelState.jobState (ls : LevelState) : Nat :=
  match ls.job with
  | none => 0
  | some j => match j.phase with
    | .opening => 0
    | .opened => (Config.jobStateCode 0).toNat
    | .started => (Config.jobStateCode 0).toNat
    | .running => (Config.jobStateCode 1).toNat
    | .draining => (Config.jobStateCode (if ls.lstep ≠ 0 then 1 else 0)).toNat
    | .stopped => (Config.jobStateCode 2).toNat

/-- The bytes of a Level's record (R419). -/
def LevelRecord.bytes (r : LevelRecord) : List Byte :=
  leBytes 1 r.quads.toNat ++ leBytes 1 r.lflags.toNat ++ leBytes 1 r.tallyBlocks ++ leBytes 1 r.reqBlocks ++ leBytes 1 r.hubUnits ++
    leBytes 1 r.beltUnits ++ leBytes 1 r.pipes.toNat ++ leBytes 1 r.stems.toNat ++ leBytes 2 r.imageSlots.toNat ++
    leBytes 2 r.audioSlots.toNat ++ List.replicate 20 0

/-- The quote body (R503). On the PF the Level's fields are those of no Level. -/
def State.quoteBody (s : State) (fn : Nat) (nonce : List Byte) : List Byte :=
  let ls := if fn = 0 then .absent else s.lvl (Fin.ofNat 4 (fn - 1))
  let ide := (List.range 16).foldl (fun n h => n + (if (s.link h).up && (s.link h).ide then 2 ^ h else 0)) 0
  leBytes 4 1 ++ leBytes 1 fn ++ leBytes 1 (if fn = 0 then 0xFF else fn - 1) ++ leBytes 1 (if s.boot.debugUnlocked then 1 else 0) ++
    leBytes 1 ls.jobState ++ padTo 48 nonce ++ shaBytes s.boot.fwDigest ++ leBytes 4 s.boot.svn ++ leBytes 4 s.boot.rollback ++
    leBytes 4 idPart ++ leBytes 4 s.idMem ++ leBytes 8 s.cad.number.toNat ++ leBytes 2 (s.fn fn).version ++ leBytes 2 ide ++
    List.replicate 12 0 ++ (if fn = 0 then List.replicate 32 0 else ls.record.bytes) ++
    leBytes 8 ((ls.image.map fun img => img.crc.toNat).getD 0) ++
    leBytes 8 (((ls.job.filter fun j => decide (j.phase ≠ .opening)).map fun j => j.decl.crc.toNat).getD 0) ++
    partIdentity ++ List.replicate 304 0

/-- The identity certificate, at most 1,536 bytes (R503). -/
def identityCert : List Byte := Config.identityCert.take 1536

/-- The reply of ATTEST.QUOTE. -/
def State.quote (s : State) (fn : Nat) (nonce : List Byte) : List Byte × State :=
  let body := s.quoteBody fn nonce
  let ak := publicKey s.attestScalar
  let (k, t) := s.nonce
  let (m, t) := t.nonce
  (body ++ ecdsaSign k s.attestScalar (sha384 body) ++ ak ++ ecdsaSign m identityScalar (sha384 ak) ++
    publicKey identityScalar ++ leBytes 2 identityCert.length ++ identityCert, t)

/-- ATTEST_QUOTE: the quote is signed; the reply is posted when it is. -/
def execAttestQuote (fn : Fin 5) (slot : Fin 16) (s : State) : Result :=
  s.onMessage fn.val slot.val 0x62 fun s t _ =>
    if (s.fn fn.val).taken.any fun o => o.msg = 0x62 && o.working then s.reply fn.val slot.val stBusy
    else if t.zero 0x30 16 = false then s.reply fn.val slot.val stRefused
    else
      let (q, s) := s.quote fn.val (listSlice t.payload 0 48)
      s.work fn.val slot.val stOk q

/-! ### REPLY_POSTED (R481, R490) -/

/-- The work of a message has ended, so that its reply can be posted. -/
def State.workEnded (s : State) (fn slot : Nat) (t : Taken) (l : Fin 4) : Bool :=
  match t.msg with
  | 0x10 => true
  | 0x20 => true
  | 0x22 => match (s.lvl l).job with
    | some j => decide (j.phase = .stopped)
    | none => false
  | 0x41 => true
  | 0x42 => true
  | 0x60 => true
  | 0x61 => !s.asy.waiting.any fun q => q.for_ = .message fn slot
  | 0x62 => true
  | 0x63 => true
  | _ => false

/-- What a message does as it ends: JOB.OPEN's job is OPEN and the Assay forms a record; JOB.CLOSE's last steps. -/
def State.endWork (s : State) (t : Taken) (l : Fin 4) : State :=
  if t.msg = 0x20 then
    match (s.lvl l).job with
    | some j => if j.phase = .opening then (s.updJob l fun j => { j with phase := .opened }).askRecord l.val 1 else s
    | none => s
  else if t.msg = 0x22 then s.finishClose l
  else s

/-- REPLY_POSTED: a message whose work takes time finishes it, and its reply is written. -/
def execReplyPosted (fn : Fin 5) (slot : Fin 16) (env : FarEnv) (s : State) : Result :=
  match s.taken fn.val slot.val with
  | some t =>
    if t.working ∧ s.workEnded fn.val slot.val t (t.lvl fn.val) = true then
      .next (((s.withEnv env).endWork t (t.lvl fn.val)).reply fn.val slot.val t.status t.reply)
    else .next s
  | none => .next s

end Sys2Proof.Machine
end

