-- ==== Sys2Proof/Machine/Assay.lean ====
section
/-!
DEFINITION. Machine/Assay.lean: the Assay's commands and its I3C target (22_assay.md).
-/
namespace Sys2Proof.Machine

/-- What the Assay does while it has its supply; without VASY nothing happens on its die. -/
def onVasy (s : State) (f : State → State) : Result := if s.asy.vasy then .next (f s) else .next s

/-! ### Frames (R513 to R516) -/

/-- The quadrant map of the Levels. -/
def State.levelMap (s : State) : List (BitVec 8) := (List.finRange 4).map fun l => (s.lvl l).record.quads

/-- The counts of the cycle that has ended are sent; a second frame of one boundary carries none. -/
def State.clearCounts (s : State) : State :=
  (List.finRange 4).foldl (fun (s : State) l => s.updLvl l fun ls => { ls with frame := .zero }) s

/-- ASSAY_FRAME: the frame of a cycle boundary arrives; records asked for are formed at it. A restored link asks for one of each
channel, formed at the boundary after (R518). -/
def execAssayFrame (s : State) : Result :=
  if s.asy.vasy then
    let restored := decide (s.asy.lastFrame.isSome) && !s.asy.linkUp
    let missing := s.asy.missingFrames
    let map := s.levelMap
    let changed := decide (map ≠ s.asy.map)
    let counts (c : Nat) : Accounting := if h : c < 4 then (s.lvl ⟨c, h⟩).frame else .zero
    let s := s.updAsy fun a =>
      { a.joinLate.closeCycle map counts with
        linkUp := true, lastFrame := some a.tot.time, lastCycle := s.cad.number, holdover := s.holdoverMark, map := map, missingFrames := 0 }
    let s := if restored then s.asyLog 6 (leBytes 4 missing) else s
    let s := if changed then s.asyLog 7 map else s
    let s := if restored then s.raise 0x7003 none 0 0 0 missing else s
    let s := ((s.updAsy AssayState.formAll).updAsy AssayState.mirrored).checkLogFull.clearCounts
    .next (if restored then (List.range 5).foldl (fun (s : State) c => s.askRecord c 3) s else s)
  else .next s.clearCounts

/-- The frame due now is missing: 1.5 periods have passed since the last one, and one period more for each missing since. -/
def State.frameLate (s : State) : Bool :=
  match s.asy.lastFrame with
  | some t =>
    let p := s.cad.current
    decide ((3 + 2 * s.asy.missingFrames) * p.sum < 2 * (s.asy.tot.time - t) * p.n)
  | none => false

/-- FRAME_MISSING: the energy of the cycle whose frame should have come is divided by the last map, on the IDLE lines; its counts are
lost (R516). -/
def execFrameMissing (s : State) : Result :=
  if s.asy.vasy ∧ s.frameLate = true then
    let first := s.asy.linkUp
    let s := s.updAsy fun a =>
      { (a.closeCycle a.map fun _ => .zero).markMissing with missingFrames := a.missingFrames + 1 }
    let s := if first then (s.asyLog 5 []).updAsy fun a => { a with linkUp := false, lastTick := a.tot.time } else s
    .next ((if first then s.raise 0x7002 none 0 0 0 else s).clearCounts)
  else .next s

/-- A tick while frames are missing counts on every channel (R516). Where no frame has come since VASY rose there are no cycles, and
the energy since the last tick is divided by the last map. -/
def AssayState.countMissing (a : AssayState) : AssayState :=
  if a.lastFrame.isSome then
    a.updChannels fun _ ch => { ch with missing := true, missingCycles := ch.missingCycles + 1 }
  else a.closeCycle a.map fun _ => .zero

/-- MISSING_CYCLE_TICK: at each 10 ms of ASSAY_TIME while no frame arrives; records asked for are formed (R516, R518, R526). -/
def execMissingCycleTick (s : State) : Result :=
  if s.asy.vasy ∧ s.asy.linkUp = false ∧ s.asy.lastTick / 20000000 < s.asy.tot.time / 20000000 then
    .next (s.updAsy fun a => ({ a.countMissing with lastTick := a.tot.time } : AssayState).formAll)
  else .next s

/-! ### Measuring, committing and the supply (R511, R520, R521) -/

/-- A sample taken now lies past the period in which the next frame is due. -/
def State.pastPeriod (s : State) : Bool :=
  match s.asy.lastFrame with
  | some t => decide ((1 + s.asy.missingFrames) * s.cad.current.sum ≤ (s.asy.tot.time - t) * s.cad.current.n)
  | none => false

/-- RAIL_SAMPLE: one sample of every rail, for the cycle in which it is taken (R511, R513); one outside the measuring range is
logged. -/
def execRailSample (volts amps : List (BitVec 16)) (s : State) : Result :=
  onVasy s fun s =>
    let e := (List.range 10).map fun k => Config.railEnergy k (volts.getD k 0) (amps.getD k 0)
    let late := s.pastPeriod
    let s := s.updAsy fun a => { a with
      cycleRails := if late then a.cycleRails else addRails a.cycleRails e,
      lateRails := if late then addRails a.lateRails e else a.lateRails,
      tot := { a.tot with rails := addRails a.tot.rails e } }
    ((List.range 10).filter fun k => !Config.railInRange k (volts.getD k 0) (amps.getD k 0)).foldl
      (fun (s : State) k => s.asyLog 9 (leBytes 1 k)) s

/-- MRAM_COMMIT. -/
def execMramCommit (s : State) : Result := onVasy s fun s => s.updAsy fun a => { a with mram := a.tot }

/-- VASY_LOST: what has been sampled is divided by the last map, since the frame of its cycle will not be seen, and committed. Records
waiting unsigned are discarded, though a job that one was asked for counts as opened, and a message that waited for one ends with
BUSY (R514, R517, R521). -/
def execVasyLost (s : State) : Result :=
  onVasy s fun s =>
    let s := s.asy.waiting.foldl (fun (s : State) q => match q.for_ with
      | .message fn slot => s.updTaken fn slot fun t => { t with status := stBusy }
      | _ => s) s
    s.updAsy fun a =>
      let opened := (a.waiting.filter fun q => decide (q.cause = 1) && q.formed.isNone).map AsyRequest.channel
      let a := opened.foldl AssayState.jobOpened (a.joinLate.closeCycle a.map fun _ => .zero)
      { a with mram := a.tot, vasy := false, linkUp := false, waiting := [] }

/-- VASY_RESTORED: totals resume from MRAM; POWER_LOST, POWER_RESTORED and the units that fail their self-test are logged, and a record
of each channel is asked for (R520, R521). Which units fail is a free value (notes/assumptions/119.md). -/
def execVasyRestored (s : State) : Result :=
  if s.asy.vasy then .next s
  else
    let failed := Config.selfTestFails s.freeCtr
    let s := { s with freeCtr := s.freeCtr + 1 }
    let at_ := s.asy.mram.micros
    let s := s.updAsy fun a => a.openedDark.foldl AssayState.jobOpened (.fromMram a.mram)
    let s := (s.asyLog 3 (leBytes 6 at_)).asyLog 4 []
    let s := failed.foldl (fun (s : State) u => s.asyLog 8 [u]) s
    .next ((List.range 5).foldl (fun (s : State) c => s.askRecord c 4) s)

/-! ### Signing (R517, R518, R523) -/

/-- Sign a formed record: RECORD_SEQ is assigned, and the last 65,536 records are held. -/
def AssayState.sign (a : AssayState) (q : AsyRequest) (body : List Byte) (k : Nat) : AssayState × List Byte :=
  let b := body.take 8 ++ leBytes 8 a.tot.nextSeq ++ body.drop 16
  let r := b ++ ecdsaSign k Config.assayScalar (sha384 b)
  let held := a.tot.records ++ [(q.channel, r)]
  ({ a with tot := { a.tot with nextSeq := a.tot.nextSeq + 1, records := held.drop (held.length - 65536) } }, r)

/-- The one who asked for a record learns that it is signed. -/
def State.deliverRecord (s : State) (q : AsyRequest) (r : List Byte) : State :=
  match q.for_ with
  | .cause => s
  | .i3c => s.updAsy fun a => { a with done := true, resultCode := 0, resultCmd := 1 }
  | .message fn slot => match s.taken fn slot with
    | some t =>
      let n := listLe r 8 8
      let s := s.assayCopy fn t r
      let reply := s.assayReply 1 n (n + 1)
      s.updTaken fn slot fun t => { t with status := stOk, reply := reply }
    | none => s

/-- RECORD_SIGNED: the oldest formed record is signed. -/
def execRecordSigned (s : State) : Result :=
  onVasy s fun s =>
    match s.asy.waiting with
    | q :: rest => match q.formed with
      | some body =>
        let (k, s) := s.nonce
        let (a, r) := s.asy.sign q body k
        ({ s with asy := { a with waiting := rest } } : State).deliverRecord q r
      | none => s
    | [] => s

/-! ### Refused changes (R510) -/

/-- A request to change a sealed parameter: counted, logged, and reported where the link is up. -/
def State.changeRefused (s : State) (source kind : Nat) : State :=
  if s.asy.sealed_ then
    let s := s.updAsy fun a => { a with tot := { a.tot with changeRefused := min (2 ^ 64 - 1) (a.tot.changeRefused + 1) } }
    let s := s.asyLog 2 (leBytes 1 source ++ leBytes 1 kind)
    if s.asy.linkUp then s.raise 0x7001 none 0 source 0 s.asy.tot.changeRefused else s
  else s

/-- UNDEFINED_LINK_FRAME. -/
def execUndefinedLinkFrame (kind : BitVec 8) (s : State) : Result := onVasy s fun s => s.changeRefused 1 kind.toNat

/-! ### ASY_CMD (R522, R523) -/

/-- A command is decided. -/
def State.decide_ (s : State) (cmd code : Nat) : State :=
  s.updAsy fun a => { a with done := true, resultCode := code, resultCmd := cmd }

/-- A LOAD command: the window, or NOT_FOUND. -/
def State.loadWindow (s : State) (cmd : Nat) (bs : List Byte) : State :=
  if bs.isEmpty then s.decide_ cmd 3 else (s.updAsy fun a => { a with window := (padTo 1024 bs).take 1024 }).decide_ cmd 0

/-- A write to ASY_CMD; ignored while a command is in progress. -/
def State.asyCommand (s : State) (cmd chan : Nat) : State :=
  let a := s.asy
  if a.done = false then s
  else if 0xC0 ≤ cmd ∧ cmd < 0xD0 then (s.decide_ cmd 2).changeRefused 0 cmd
  else if cmd = 1 then
    if 4 < chan then s.decide_ 1 2
    else if 8 ≤ a.requested then s.decide_ 1 1
    else (s.updAsy fun a => { a with done := false }).askRecord chan 0 .i3c
  else if cmd = 2 then
    if 4 < chan then s.decide_ 2 2
    else s.loadWindow 2 (((a.tot.records.find? fun r => decide (r.1 = chan) && decide (a.arg.toNat ≤ listLe r.2 8 8)).map Prod.snd).getD [])
  else if cmd = 3 then s.loadWindow 3 ((a.tot.log.drop a.arg.toNat).take 32).flatten
  else if cmd = 4 then s.loadWindow 4 Config.assayCert
  else s.decide_ cmd 2

/-- NEW_RECORD. -/
def execNewRecord (chan : BitVec 3) (s : State) : Result := onVasy s fun s => s.asyCommand 1 chan.toNat

/-- LOAD_RECORD. -/
def execLoadRecord (chan : BitVec 3) (s : State) : Result := onVasy s fun s => s.asyCommand 2 chan.toNat

/-- LOAD_LOG. -/
def execLoadLog (s : State) : Result := onVasy s fun s => s.asyCommand 3 0

/-- LOAD_CERT. -/
def execLoadCert (s : State) : Result := onVasy s fun s => s.asyCommand 4 0

/-- CALIBRATION: commands 0xC0 to 0xCF. -/
def execCalibration (cmd : BitVec 4) (s : State) : Result := onVasy s fun s => s.asyCommand (0xC0 + cmd.toNat) 0

/-! ### Registers of the I3C target (R522) -/

/-- The 64-bit value behind a latching pair. -/
def AssayState.pairValue (a : AssayState) : AsyPair → Nat
  | .time => a.tot.micros
  | .refused => a.tot.changeRefused
  | .log => a.tot.logCount
  | .seq => if a.tot.nextSeq = 0 then Config.noRecordSeq.toNat else a.tot.nextSeq - 1

/-- Key of a latch. -/
def asyKey : AsyPair → Nat
  | .time => 0
  | .refused => 1
  | .log => 2
  | .seq => 3

/-- The pair whose low word stands at an offset, or whose high word does 4 above it. -/
def asyPairAt (off : Nat) : Option AsyPair :=
  match off with
  | 0x08 => some .time
  | 0x10 => some .refused
  | 0x18 => some .log
  | 0x20 => some .seq
  | _ => none

/-- Offset of the low word of a pair. -/
def asyLoOffset : AsyPair → Nat
  | .time => 0x08
  | .refused => 0x10
  | .log => 0x18
  | .seq => 0x20

/-- What the high word of a pair reads as: latched, or live (R84). -/
def AssayState.pairHigh (a : AssayState) (p : AsyPair) : Nat :=
  let k := tabGet 0 a.latches (asyKey p)
  if k.getLsbD 32 then (k.setWidth 32).toNat else a.pairValue p / 2 ^ 32 % 2 ^ 32

/-- The register at an offset of the I3C map; WO and RSV bits read zero (R12, R522). DESIGN CHOICE (notes/assumptions/120.md): an offset
that the map does not list reads zero too. -/
def AssayState.i3cWord (a : AssayState) (off : Nat) : Nat :=
  if off = 0x00 then 0x4816 + 2 ^ 16 + Config.romVersion.toNat * 2 ^ 24
  else if off = 0x04 then a.status
  else if off = 0x2C then a.resultCode + a.resultCmd * 2 ^ 8 + (if a.done then 2 ^ 16 else 0)
  else if off = 0x30 then a.arg.toNat % 2 ^ 32
  else if off = 0x34 then a.arg.toNat / 2 ^ 32
  else if 0x1000 ≤ off ∧ off < 0x1400 then listLe a.window (off - 0x1000) 4
  else match asyPairAt off, asyPairAt (off - 4) with
    | some p, _ => a.pairValue p % 2 ^ 32
    | none, some p => a.pairHigh p
    | none, none => 0

/-- A read of the register at the offset: the word is returned behind what the access has returned so far, and the offset advances by 4
(R522). A low word latches its high word, which a read of the high word releases (R84). -/
def AssayState.i3cRead (a : AssayState) : AssayState :=
  let off := a.offset.toNat
  let a := { a with reply := a.reply ++ leBytes 4 (a.i3cWord off), offset := a.offset + 4 }
  match asyPairAt off, asyPairAt (off - 4) with
  | some p, _ => { a with latches := tabPut 0 a.latches (asyKey p) (1#1 ++ BitVec.ofNat 32 (a.pairValue p / 2 ^ 32)) }
  | none, some p => { a with latches := tabPut 0 a.latches (asyKey p) 0 }
  | none, none => a

/-- A register access begins: its offset is written (R522). -/
def AssayState.i3cOffset (a : AssayState) (off : BitVec 16) : AssayState := { a with offset := off, reply := [] }

/-- `n` registers are read in one access. -/
def AssayState.i3cReads : Nat → AssayState → AssayState
  | 0, a => a
  | n + 1, a => i3cReads n a.i3cRead

/-- ASY_LO_READ: the low word is returned and its partner latched; the access may go on to the registers behind it. -/
def execAsyLoRead (reg : I3cRead) (s : State) : Result :=
  onVasy s fun s => s.updAsy fun a => AssayState.i3cReads (reg.more + 1) (a.i3cOffset (BitVec.ofNat 16 (asyLoOffset reg.pair)))

/-- A write of the register at the offset, which advances by 4: ASY_ARG and ASY_CMD take writes; the others ignore them. -/
def State.i3cWrite (s : State) (data : BitVec 32) : State :=
  let off := s.asy.offset
  let s :=
    if off = 0x30#16 then s.updAsy fun a => { a with arg := (a.arg >>> 32).setWidth 32 ++ data }
    else if off = 0x34#16 then s.updAsy fun a => { a with arg := data ++ a.arg.setWidth 32 }
    else if off = 0x28#16 then s.asyCommand (data.toNat % 256) (data.toNat / 256 % 8)
    else s
  s.updAsy fun a => { a with offset := off + 4 }

/-- I3C_REGISTER_WRITE: a register access at an offset: registers are written, then read, in ascending order (R522). -/
def execI3cRegisterWrite (off : BitVec 16) (data : I3cAccess) (s : State) : Result :=
  onVasy s fun s => (data.words.foldl State.i3cWrite (s.updAsy fun a => a.i3cOffset off)).updAsy (AssayState.i3cReads data.reads)

/-- ENTDAA: a target without a dynamic address takes one. -/
def execEntdaa (addr : BitVec 7) (s : State) : Result :=
  onVasy s fun s => s.updAsy fun a => { a with dynAddr := a.dynAddr <|> some addr }

/-- The static address of the target (R522). -/
def asyStatic : BitVec 7 := 0x2C

/-- SETDASA: the target that has the static address takes a dynamic one, if it has none. -/
def execSetdasa (addr : AddrGrant) (s : State) : Result :=
  onVasy s fun s =>
    if addr.static = asyStatic then s.updAsy fun a => { a with dynAddr := a.dynAddr <|> some addr.dynamic } else s

/-- RSTDAA: the dynamic address is dropped. -/
def execRstdaa (s : State) : Result := onVasy s fun s => s.updAsy fun a => { a with dynAddr := none }

/-- GETPID. -/
def execGetpid (s : State) : Result := onVasy s fun s => s.updAsy fun a => { a with reply := Config.i3cPid }

/-- GETBCR. -/
def execGetbcr (s : State) : Result := onVasy s fun s => s.updAsy fun a => { a with reply := [Config.i3cBcr] }

/-- GETDCR. -/
def execGetdcr (s : State) : Result := onVasy s fun s => s.updAsy fun a => { a with reply := [Config.i3cDcr] }

/-- GETSTATUS: two bytes that the spec does not give. -/
def execGetstatus (s : State) : Result :=
  onVasy s fun s =>
    let (w, s) := s.free64
    s.updAsy fun a => { a with reply := leBytes 2 w.toNat }

end Sys2Proof.Machine
end

