-- ==== Sys2Proof/Machine/Boot.lean ====
section
/-!
DEFINITION. Machine/Boot.lean: resets, the firmware image and its verification, bring-up, IDE keys and the debug lock
(21_boot.md, R395, R396, R405, R422, R472).
-/
namespace Sys2Proof.Machine

/-! ### Resets (R472, R493, R494) -/

/-- Change the boot state. -/
def State.updBoot (s : State) (f : Boot → Boot) : State := { s with boot := f s.boot }

/-- What every reset from power-up down to a part reset clears: all but fuses, the Assay, and memory outside the part. The
Winder begins its holdover timebase anew (R495). -/
def State.cleared (s : State) (boot : Boot) : State :=
  { State.reset with
    now := s.now, freeCtr := s.freeCtr, pending := s.pending, boot := boot, cad := .fresh s.now, farMem := s.farMem, flushes := s.flushes,
    hostMem := s.hostMem, asy := s.asy }

/-- Stage 2 of R494: the ROM has run, the debug state is sampled (R506), a challenge is drawn. -/
def State.runRom (s : State) : State :=
  let (w, s) := (List.range 6).foldl (fun (r : List (BitVec 64) × State) _ =>
    let (x, s) := r.2.free64
    (x :: r.1, s)) ([], s)
  let c := w.foldl (fun n x => n * 2 ^ 64 + x.toNat) 0
  s.updBoot fun b =>
    { b with romDone := true, linkUp := b.perstHigh, debugUnlocked := b.tokenPending, tokenPending := false,
             challenge := BitVec.ofNat 384 c }

/-- Global Persistent Flush of every open job's windows before a part reset takes effect (R409, R493); none once THERMTRIP_L has gone
low (R540). -/
def State.flushJobs (s : State) : State :=
  if s.boot.thermtripHigh then
    (List.finRange 4).foldl (fun (s : State) l => if (s.lvl l).job.isSome then s.flushFar (s.windows l) else s) s
  else s

/-- A part reset: Global Persistent Flush, then the part restarts at step 2, at once where RESET_L is high. With THERMTRIP_L low the
part stays stopped until power-up (R540, R558). -/
def State.partReset (s : State) (f : Boot → Boot) : State :=
  let b := s.boot
  let s := s.flushJobs
  let s := s.cleared (f
    { Boot.fresh b.rollback b.revoked with
      rails := b.rails, vaux := b.vaux, resetHigh := b.resetHigh, perstHigh := b.perstHigh, thermtripHigh := b.thermtripHigh,
      tokenPending := b.tokenPending })
  if s.boot.resetHigh ∧ s.boot.rails ∧ s.boot.thermtripHigh then s.runRom else s

/-- POWER_UP (R493). -/
def execPowerUp (s : State) : Result := .next (s.cleared (.fresh s.boot.rollback s.boot.revoked))

/-- A rail is gone from the boot state; VASY, rail 10, is the Assay's alone (R19). -/
def Boot.loseRail (b : Boot) (rail : Nat) : Boot :=
  { b with rails := b.rails && decide (rail = 10), vaux := b.vaux && decide (rail ≠ 9) }

/-- RAIL_OUT_OF_TOLERANCE: any rail of R527 makes a part reset while RESET_L is high (R494, R527). -/
def execRailOutOfTolerance (rail : Fin 11) (s : State) : Result :=
  .next (if s.boot.resetHigh then s.partReset fun b => b.loseRail rail.val else s.updBoot fun b => b.loseRail rail.val)

/-- RESET_L_LOW: a part reset. -/
def execResetLLow (s : State) : Result := .next (s.partReset fun b => { b with resetHigh := false })

/-- RESET_L_RISE: the Root of Trust runs its ROM. A run that ends in a fatal self-test fault is a part reset, after which step 2
begins again; it has sampled the debug state, so a token that waited is spent (R493, R494, R506). The rails are in tolerance by
then. -/
def execResetLRise (faults : Option Nat) (s : State) : Result :=
  if s.boot.resetHigh then .next s
  else
    let s := s.updBoot fun b => { b with resetHigh := true, rails := true, vaux := true }
    if s.boot.thermtripHigh = false then .next s
    else match faults with
      | some 0 => .next s.runRom
      | some _ => .next (s.partReset fun b => { b with tokenPending := false })
      | none =>
        let b := s.boot
        .next (s.cleared { Boot.fresh b.rollback b.revoked with resetHigh := true, perstHigh := b.perstHigh })

/-- PE_PERST_L_RISE: the Adit trains its link (R494). -/
def execPePerstLRise (s : State) : Result := .next (s.updBoot fun b => { b with perstHigh := true, linkUp := b.romDone })

/-- PCIE_LINK_DOWN: a part reset (R472, R493). The Adit trains its link again as the part comes through stage 3, unless
PE_PERST_L has gone low, which is a free value (notes/assumptions/112.md): it then answers nothing until that rises (R494, R558). -/
def execPcieLinkDown (s : State) : Result :=
  let low := Config.perstFalls s.freeCtr
  .next ({ s with freeCtr := s.freeCtr + 1 }.partReset fun b => { b with perstHigh := b.perstHigh && !low })

/-- An open job is closed by a function reset (R472); a JOB.OPEN that has been taken completes its effect first (R492). -/
def State.closeByReset (s : State) (l : Fin 4) : State :=
  match (s.lvl l).job with
  | some j =>
    if j.closing.isSome ∨ j.phase = .opening then s
    else
      let s := s.beginClose l none
      match (s.lvl l).job with
      | some j => if j.phase = .stopped then s.finishClose l else s
      | none => s
  | none => s

/-- The message of a function that is reset has an effect still to complete: it has negotiated, and what it asks for was agreed on;
a HELLO has none, since the negotiation is undone (R472, R488, R492). -/
def Fn.completes (f : Fn) (t : Taken) : Bool :=
  t.orphan || t.working || (decide (t.msg ≠ 0x01) && decide (f.version ≠ 0) && match neededFeature t.msg with
    | some b => f.features.getLsbD b
    | none => true)

/-- A Function Level Reset of one function: its slots become FREE, its windows read zero, and its registers take their reset
values; messages already taken stay, to complete their effects, their replies to be discarded (R472, R492). -/
def State.resetFn (s : State) (fn : Nat) : State :=
  let s := (List.range 16).foldl (fun (s : State) i => (s.setBar fn (inSlot i) 4 ownFree).setBar fn (outSlot i) 4 ownFree) s
  let s := { s with barMem := memZero (memZero s.barMem (barKey fn 0x300000) 0x500000) (barKey fn 0x8000) 0x400 }
  s.updFn fn fun f => { Fn.fresh with taken := (f.taken.filter f.completes).map fun t => { t with orphan := true }, msixSent := f.msixSent }

/-- A VF is reset, and the open job of its Level closed (R472). -/
def State.flrVf (s : State) (l : Fin 4) : State := (s.resetFn (l.val + 1)).closeByReset l

/-- FUNCTION_LEVEL_RESET_VF. -/
def execFunctionLevelResetVf (lvl : Fin 4) (s : State) : Result := .next (if s.aditUp then s.flrVf lvl else s)

/-- FUNCTION_LEVEL_RESET_PF: as on every VF, and on the PF; in REJECTED the window is cleared and FW_STATE returns to AWAITING
(R472, R500). -/
def execFunctionLevelResetPf (s : State) : Result :=
  if s.aditUp = false then .next s else
  let s := ((List.finRange 4).foldl (fun (s : State) l => s.flrVf l) s).resetFn 0
  .next (if s.boot.fw = .rejected then s.updBoot fun b => { b with fw := .awaiting, window := [] } else s)

/-! ### Loading and verification (R496 to R500) -/

/-- What a verified image gives. -/
structure FwImage where
  digest : BitVec 384
  svn : Nat
  flags : Nat
  key : Nat
  board : Board
  publicKey : List Byte
  signature : List Byte
  deriving DecidableEq, Repr

/-- Check 1: MAGIC, FORMAT, ranges and reserved fields of the header and the board-configuration area. -/
def fwFormatOk (m : Mem) : Bool :=
  let f (o n : Nat) : Nat := memLe m o n
  let size := f 0x10 4
  let bo := f 0x18 4
  let bs := f 0x1C 4
  let anchors := f (bo + 2) 1
  decide (f 0 4 = 0x495A5349) && decide (f 4 2 = 1) && decide (f 6 2 = 0) && decide (f 8 4 ≤ 64) && decide (f 0xC 4 < 4) &&
    decide (4096 ≤ size) && decide (size ≤ 4190208) && decide (size % 64 = 0) && decide (f 0x14 1 < 4) && decide (f 0x15 3 = 0) &&
    decide (bo % 64 = 0) && decide (0x200 ≤ bo) && decide (64 ≤ bs) && decide (bs ≤ 65536) && decide (bo + bs ≤ size) &&
    decide (f 0x20 4 < size) && allZero (memRead m 0x24 28) && allZero (memRead m 0xA1 223) && allZero (memRead m 0x1E0 32) &&
    [28, 32, 36, 40].contains (f bo 1) && decide (anchors ≤ 8) && decide (0x40 + 48 * anchors ≤ bs) && allZero (memRead m (bo + 4) 60)

/-- Read an image. -/
def FwImage.ofMem (m : Mem) : FwImage :=
  let f (o n : Nat) : Nat := memLe m o n
  let bo := f 0x18 4
  { digest := sha384 (memRead m 0 0x180 ++ memRead m 0x200 (f 0x10 4 - 0x200)), svn := f 8 4, flags := f 0xC 4, key := f 0x14 1,
    board :=
      { ceiling := f bo 1, portSplit := BitVec.ofNat 8 (f (bo + 1) 1),
        anchors := (List.range (f (bo + 2) 1)).map fun i => BitVec.ofNat 384 (beNat (memRead m (bo + 0x40 + 48 * i) 48)),
        ideRequired := BitVec.ofNat 8 (f (bo + 3) 1) },
    publicKey := memRead m 0x40 97, signature := memRead m 0x180 96 }

/-- The checks of R499 in order: REASON of the first that fails, 0 where every one passes. -/
def State.verifyImage (s : State) : Nat × FwImage :=
  let m := s.boot.window
  let x := FwImage.ofMem m
  (if fwFormatOk m = false then 1
    else if s.boot.revoked.getLsbD x.key then 2
    else if sha384 x.publicKey ≠ Config.fusedKeyDigest x.key then 3
    else if ecdsaVerify x.publicKey x.digest x.signature = false then 4
    else if x.svn < s.boot.rollback then 5
    else 0, x)

/-- IMAGE_SIZE bytes of the window are copied to the start of the Headframe's private SRAM (R499). -/
def Boot.copyImage (b : Boot) : Boot :=
  let n := min (memLe b.window 0x10 4) 0x3FF000
  { b with sram := memOverlay (memZero b.sram 0 n) (b.window.filter fun kv => decide (kv.1 < n)) }

/-- The word written to COMMIT while FW_STATE is AWAITING: the one that moves FW_STATE to VERIFYING, and the verification; any
other is counted (R498, R499). -/
def State.commitWord (s : State) (value : Nat) : State :=
  if value ≠ 0x434F4D54 then s.filtered 0
  else
    let s := s.updBoot Boot.copyImage
    match s.verifyImage with
    | (0, x) => s.updBoot fun b =>
        { b with fw := .verifying, reason := 0, fwDigest := x.digest, svn := x.svn, fwFlags := x.flags, keyIndex := x.key, board := x.board }
    | (r, _) => s.updBoot fun b => { b with fw := .rejected, reason := r }

/-! ### Host writes to BAR0 but the slots (R473, R474) -/

/-- A host write to the firmware load window (R473, R474, R498): one of another size is counted on any function, a VF's is ignored,
and one while FW_STATE is not AWAITING is counted. COMMIT takes the low word of a write at its offset; the rest of the control page
keeps nothing. -/
def State.windowWrite (s : State) (fn off size data : Nat) : State :=
  if !((size = 4 ∧ off % 4 = 0) ∨ (size = 8 ∧ off % 8 = 0)) then s.filtered fn
  else if fn ≠ 0 then s
  else if s.boot.fw ≠ .awaiting then s.filtered 0
  else if off < 0xBFF000 then
    s.updBoot fun b => { b with window := memWrite b.window (off - 0x800000) (leBytes size data) }
  else if off = 0xBFF000 then s.commitWord (data % 2 ^ 32)
  else s

/-- COMMIT: a 32-bit write to the control page's COMMIT (R498). -/
def execCommit (fn : Fin 5) (value : BitVec 32) (s : State) : Result :=
  .next (if s.aditUp then s.windowWrite fn.val 0xBFF000 4 value.toNat else s)

/-- FIRMWARE_WINDOW_WRITE (R474, R498). -/
def execFirmwareWindowWrite (fn : Fin 5) (off : BitVec 24) (size : Nat) (data : BitVec 64) (s : State) : Result :=
  if s.aditUp = true ∧ 0x800000 ≤ off.toNat ∧ off.toNat < 0xC00000 then .next (s.windowWrite fn.val off.toNat size data.toNat)
  else .next s

/-- REGISTER_WRITE: a write of another size is discarded and counted; read-only and reserved offsets ignore writes; the
MSI-X table is written (R12, R83, R200, R473, R474, R525). -/
def execRegisterWrite (fn : Fin 5) (off : BitVec 24) (size : Nat) (data : BitVec 64) (s : State) : Result :=
  let o := off.toNat
  if s.aditUp = false then .next s
  else if 0x10000 ≤ o ∧ o < 0x30000 then .next (s.slotWrite fn.val o size data.toNat)
  else if 0x800000 ≤ o ∧ o < 0xC00000 then .next (s.windowWrite fn.val o size data.toNat)
  else if !((size = 4 ∧ o % 4 = 0) ∨ (size = 8 ∧ o % 8 = 0)) then .next (s.filtered fn.val)
  else if 0x8000 ≤ o ∧ o < 0x8400 then
    let s := s.msixWrite fn.val o (data.toNat % 2 ^ 32)
    .next (if size = 8 then s.msixWrite fn.val (o + 4) (data.toNat / 2 ^ 32) else s)
  else .next s

/-! ### Links and IDE (R405, R407, R504) -/

/-- The Root of Trust attempts IDE on a device; none where it does not. -/
def Board.ideTried (b : Board) (i : LinkInfo) : Bool := i.doe && !b.anchors.isEmpty

/-- IDE is established. -/
def Board.ideGood (b : Board) (i : LinkInfo) : Bool := b.ideTried i && b.anchors.contains i.root && i.keysOk

/-- The state of a link half with a device on it; a half 1 of a port that is not split does not exist. -/
def Board.linkHalf (b : Board) (h : Nat) (i : LinkInfo) : LinkHalf :=
  let exists_ := decide (h % 2 = 0) || b.portSplit.getLsbD (h / 2)
  if i.up && exists_ then
    { up := true, type3 := i.type3, capacity := if i.type3 then i.capacity else 0, ide := i.type3 && b.ideGood i,
      carries := i.type3 && (b.ideGood i || !b.ideRequired.getLsbD (h / 2)), refreshes := 0 }
  else .down

/-- A device comes up on a link half: EV_MEM_CONFIG for a device of another type, EV_IDE_FAILED where IDE fails. -/
def State.bringLink (s : State) (h : Nat) (i : LinkInfo) : State :=
  let k := s.boot.board.linkHalf h i
  let s := s.setLink h k
  if k.up = false then s else
  let s := s.updBoot fun b => { b with cxTrained := b.cxTrained ||| BitVec.ofNat 8 (2 ^ (h / 2)) }
  if k.type3 = false then s.raise 0x3030 none 0 (h / 2) 0 1
  else if s.boot.board.ideTried i ∧ k.ide = false then s.raise 0x6002 none 0 h 0
  else s

/-- IDE_KEY_REFRESH (R505). -/
def execIdeKeyRefresh (half : Fin 16) (s : State) : Result :=
  let k := s.link half.val
  .next (if k.up && k.ide then s.setLink half.val { k with refreshes := k.refreshes + 1 } else s)

/-! ### Bring-up (R395, R396, R422, R497, R500, R501) -/

/-- The rate a device trains at under a ceiling: the highest of R395 that neither exceeds; 0 where it fails at 28 Gb/s. -/
def trainedRate (ceiling highest : Nat) : Nat :=
  ([40, 36, 32, 28].find? fun r => decide (r ≤ ceiling) && decide (r ≤ highest)).getD 0

/-- The record of L0 before the first LEVEL.SET (R422). -/
def LevelRecord.first (quads : BitVec 8) : LevelRecord :=
  { quads := quads, lflags := 0, tallyBlocks := 32, reqBlocks := 16, hubUnits := 32, beltUnits := 8, pipes := 0xFF, stems := 0x0F,
    imageSlots := 0xFFFF, audioSlots := 0xFFFF }

/-- GDDR7 training: rate, density, trained quadrants, with the events of R395 and R396. -/
def State.train (s : State) (f : BringUp) : State :=
  let rates := (List.range 32).map fun d => trainedRate s.boot.board.ceiling (f.rates.getD d 0)
  let rate := (rates.filter fun r => r ≠ 0).foldl min 40
  let quads := (List.range 4).filter fun q => (List.range 8).all fun d => decide (rates.getD (8 * q + d) 0 ≠ 0)
  let small := f.densities.all fun d => d = 64
  let mixed := !small && f.densities.any fun d => d = 64
  let s := { s with
    mem := { s.mem with
      density := if small then 2 else 1, rate := if quads.isEmpty then 0 else rate,
      quads := BitVec.ofNat 4 (quads.foldl (fun n q => n + 2 ^ q) 0), failedNear := [] },
    nearMem := [] }
  let s := if mixed then s.raise 0x3030 none 0 ((f.densities.findIdx? fun d => d = 64).getD 0) 0 0 else s
  ((List.range 32).filter fun d => rates.getD d 0 = 0).foldl (fun (s : State) d => s.raise 0x3031 none 0 d 0) s

/-- Fuses of the anti-rollback counter that the image has still to blow (R501). -/
def Boot.svnFuses (b : Boot) : Nat := if bitAt b.fwFlags 0 then b.svn - b.rollback else 0

/-- Each KEY_INDEX that the image revokes and that is not revoked yet, ascending (R501). -/
def Boot.keyFuses (b : Boot) : List Nat :=
  if bitAt b.fwFlags 1 then (List.range b.keyIndex).filter fun i => !b.revoked.getLsbD i else []

/-- The boot state with the first `n` of the fuse writes of R501 done: the counter's, then those of the keys
(notes/assumptions/117.md). -/
def Boot.blow (b : Boot) (n : Nat) : Boot :=
  { b with rollback := b.rollback + min n b.svnFuses,
           revoked := (b.keyFuses.take (n - b.svnFuses)).foldl (fun r i => r ||| BitVec.ofNat 4 (2 ^ i)) b.revoked }

/-- FW_STATE becomes RUNNING: every quadrant at the part's top bin and its voltage, Levels as R422 has them, and the fuses of R501. A
part reset amid the fuse writes leaves those done so far. -/
def State.startRunning (s : State) (cut : Option Nat) : State :=
  let b := s.boot
  let total := b.svnFuses + b.keyFuses.length
  let blown := cut.getD total
  if blown < total then (s.updBoot fun b => b.blow blown).partReset id
  else
    let s := s.updLvl 0 fun ls => { ls with record := .first (s.mem.quads.setWidth 8) }
    let volts (q : Nat) (p : QuadPower) : QuadPower := { p with millivolts := Config.binVolts q p.bin }
    let s := { s with pwr := { s.pwr with quads := (List.range 4).map fun q => volts q (s.quad q) } }
    let s := s.updBoot fun b => { b.blow total with fw := .running }
    if b.svnFuses = 0 then s else s.raise 0x6001 none 0 0 0 b.svn

/-- BRINGUP_COMPLETE: training, zeroing, links and IDE; a quadrant-independent fault ends in REJECTED (R494, R500). -/
def execBringupComplete (found : BringUp) (s : State) : Result :=
  if s.boot.fw ≠ .verifying ∨ s.boot.awake = false then .next s
  else
    let s := s.train found
    if found.hubOk = false ∨ s.mem.quads = 0 then .next (s.updBoot fun b => { b with fw := .rejected, reason := 6 })
    else
      let s := (List.range 16).foldl (fun (s : State) h => s.bringLink h (found.links.getD h default)) s
      .next (s.startRunning found.cut)

/-! ### Debug lock (R506) -/

/-- DEBUG_UNLOCK_TOKEN: a valid token waits for the next part reset. -/
def execDebugUnlockToken (token : List Byte) (s : State) : Result :=
  if s.boot.awake && Config.debugTokenOk partIdentity s.boot.challenge token then
    .next (s.updBoot fun b => { b with tokenPending := true })
  else .next s

end Sys2Proof.Machine
end

