-- ==== Sys2Proof/Machine/Media.lean ====
section
/-!
DEFINITION. Machine/Media.lean: what R245 and R246 support, and how a decoded bitstream becomes pictures and samples: the fixed
transform of JPEG, chroma upsampling, colour and depth (R256, R257, R261).
-/
namespace Sys2Proof.Machine

/-- A picture as R258 takes it: its bit depth, a grey or a colour source, its luma, its colour planes and its alpha plane. -/
structure Picture where
  depth : Nat
  grey : Bool
  luma : List Nat
  red : List Nat
  green : List Nat
  blue : List Nat
  alpha : Option (List Nat)
  deriving DecidableEq, Repr, Inhabited

/-- An integer clamped to codes of `d` bits. -/
def clampCode (d : Nat) (x : Int) : Nat := min x.toNat (2 ^ d - 1)

/-! ### Colour (R257) -/

/-- A matrix from YCbCr codes to RGB codes with 14 fractional bits: the factors of luma and of Cr and Cb in red, green (both
taken away) and blue, and the luma and chroma offsets. -/
structure ColourMatrix where
  y : Int
  crRed : Int
  cbGreen : Int
  crGreen : Int
  cbBlue : Int
  lumaOff : Int
  chromaOff : Int

/-- The luma weights of red and blue in units of 10^-4. -/
def lumaWeights : Config.Matrix → Nat × Nat
  | .bt601 => (2990, 1140)
  | .bt709 => (2126, 722)
  | .bt2020 => (2627, 593)

/-- A ratio rounded to 14 fractional bits. -/
def ratio14 (num den : Nat) : Int := ((num * 2 ^ 15 + den) / (2 * den) : Nat)

/-- The matrix of a colour system for codes of `d` bits in full or limited range (notes/assumptions/96.md). -/
def colourMatrix (m : Config.Matrix) (full : Bool) (d : Nat) : ColourMatrix :=
  let (kr, kb) := lumaWeights m
  let kg := 10000 - kr - kb
  let top := 2 ^ d - 1
  let (ny, dy, dc) := if full then (1, 1, 1) else (top, 219 * 2 ^ (d - 8), 224 * 2 ^ (d - 8))
  { y := ratio14 ny dy, crRed := ratio14 (2 * (10000 - kr) * ny) (10000 * dc),
    cbGreen := ratio14 (2 * kb * (10000 - kb) * ny) (10000 * kg * dc),
    crGreen := ratio14 (2 * kr * (10000 - kr) * ny) (10000 * kg * dc), cbBlue := ratio14 (2 * (10000 - kb) * ny) (10000 * dc),
    lumaOff := if full then 0 else (16 * 2 ^ (d - 8) : Nat), chromaOff := (2 ^ (d - 1) : Nat) }

/-- Red, green and blue of a pixel: rounded half up and clamped to the source code range. -/
def ColourMatrix.rgb (c : ColourMatrix) (d : Nat) (y cb cr : Nat) : Nat × Nat × Nat :=
  let l := c.y * ((y : Int) - c.lumaOff)
  let u := (cb : Int) - c.chromaOff
  let v := (cr : Int) - c.chromaOff
  let out (x : Int) : Nat := clampCode d ((x + 2 ^ 13) / 2 ^ 14)
  (out (l + c.crRed * v), out (l - c.cbGreen * u - c.crGreen * v), out (l + c.cbBlue * u))

/-- A colour picture from full-size YCbCr planes. -/
def yccPicture (c : ColourMatrix) (d : Nat) (luma cb cr : List Nat) : Picture :=
  let px := (luma.zip (cb.zip cr)).map fun p => c.rgb d p.1 p.2.1 p.2.2
  ⟨d, false, luma, px.map fun p => p.1, px.map fun p => p.2.1, px.map fun p => p.2.2, none⟩

/-- A grey picture. -/
def greyPicture (d : Nat) (luma : List Nat) (alpha : Option (List Nat)) : Picture := ⟨d, true, luma, [], [], [], alpha⟩

/-- BT.709 luma of RGB (R258), in the arithmetic of R257 (notes/assumptions/96.md). -/
def luma709 (r g b : Nat) : Nat :=
  let (kr, kb) := lumaWeights .bt709
  ((ratio14 kr 10000 * r + ratio14 (10000 - kr - kb) 10000 * g + ratio14 kb 10000 * b + 2 ^ 13) / 2 ^ 14).toNat

/-! ### Chroma upsampling (R256) -/

/-- The nearer and the farther sample of output `i` when `n` samples are doubled; beyond an end the end sample stands
(notes/assumptions/96.md). -/
def upPair (i n : Nat) : Nat × Nat :=
  (min (i / 2) (n - 1), if i % 2 = 0 then min (i / 2 - 1) (n - 1) else min (i / 2 + 1) (n - 1))

/-- 3/4 of the nearer sample plus 1/4 of the farther one, rounded half up. -/
def upMix (near far : Nat) : Nat := (3 * near + far + 2) / 4

/-- Double a row to `w` samples. -/
def upRow (w : Nat) (row : List Nat) : List Nat :=
  (List.range w).map fun i => upMix (row.getD (upPair i row.length).1 0) (row.getD (upPair i row.length).2 0)

/-- Bring rows of chroma to `h` rows of `w` samples, across first (notes/assumptions/96.md). -/
def upsample (across down : Bool) (h w : Nat) (rows : List (List Nat)) : List (List Nat) :=
  let rows := if across then rows.map (upRow w) else rows
  if down then (List.range h).map fun i =>
    ((rows.getD (upPair i rows.length).1 []).zip (rows.getD (upPair i rows.length).2 [])).map fun p => upMix p.1 p.2
  else rows

/-- Cut a plane into rows. -/
def planeRows (h w : Nat) (plane : List Nat) : List (List Nat) := (List.range h).map fun y => (plane.drop (y * w)).take w

/-! ### JPEG (R245, R256) -/

/-- cos(k * pi / 16) / 2 in units of 2^-13, for k from 0 to 8. -/
def cosTable : List Int := [4096, 4017, 3784, 3406, 2896, 2276, 1567, 799, 0]

/-- The coefficient of the 8-point inverse transform for frequency `u` and sample `x`, rounded to a multiple of 2^-13. -/
def idctCoef (u x : Nat) : Int :=
  if u = 0 then 2896
  else
    let k := (2 * x + 1) * u % 32
    let k := if 16 < k then 32 - k else k
    if k ≤ 8 then cosTable.getD k 0 else - cosTable.getD (16 - k) 0

/-- One 8-point inverse transform in 32-bit two's complement, each result rounded half up (notes/assumptions/96.md). -/
def idct8 (f : List Int) : List Int :=
  (List.range 8).map fun x =>
    let s := (List.range 8).foldl (fun (acc : Int) u => (acc + idctCoef u x * f.getD u 0).bmod (2 ^ 32)) 0
    (s + 2 ^ 12).bmod (2 ^ 32) / 2 ^ 13

/-- The samples of a block: rows, then columns, level-shifted and clamped. -/
def idctBlock (f : List Int) : List Nat :=
  let rows := (List.range 8).map fun v => idct8 ((f.drop (8 * v)).take 8)
  let cols := (List.range 8).map fun x => idct8 (rows.map fun r => r.getD x 0)
  (List.range 64).map fun i => clampCode 8 ((cols.getD (i % 8) []).getD (i / 8) 0 + 128)

/-- The rows of a component of `h` rows and `w` columns. -/
def componentRows (c : Config.JpegComponent) (h w : Nat) : List (List Nat) :=
  let blocks := c.blocks.map idctBlock
  (List.range h).map fun y => (List.range w).map fun x =>
    (blocks.getD (y / 8 * c.cols + x / 8) []).getD (y % 8 * 8 + x % 8) 0

/-- The sampling of a three-component frame, as whole factors of luma over chroma: 4:4:4, 4:2:2 or 4:2:0. -/
def jpegSampling (cs : List Config.JpegComponent) : Option (Nat × Nat) :=
  match cs with
  | [y, cb, cr] =>
    [(1, 1), (2, 1), (2, 2)].find? fun f => decide (cb.h = cr.h) && decide (cb.v = cr.v) && decide (0 < cb.h) &&
      decide (0 < cb.v) && decide (y.h = f.1 * cb.h) && decide (y.v = f.2 * cb.v)
  | _ => none

end Sys2Proof.Machine

namespace Sys2Proof.Config
open Sys2Proof.Machine

/-- R245 and R246: baseline and progressive Huffman-coded frames (SOF0, SOF2) of 8-bit samples, with one component or three at a
supported sampling, up to 16,384 x 16,384. -/
def Jpeg.supported (j : Jpeg) : Bool :=
  (decide (j.sof = 0) || decide (j.sof = 2)) && decide (j.precision = 8) && decide (j.width ≤ 16384) && decide (j.height ≤ 16384) &&
    (decide (j.components.length = 1) || (jpegSampling j.components).isSome)

/-- The picture of a JPEG frame: grey, or YCbCr under the full-range matrix of ITU-T T.871 (R257). -/
def Jpeg.picture (j : Jpeg) : Picture :=
  match j.components, jpegSampling j.components with
  | [y, cb, cr], some (fx, fy) =>
    let chroma (c : JpegComponent) : List Nat :=
      (upsample (fx = 2) (fy = 2) j.height j.width (componentRows c (ceilDiv j.height fy) (ceilDiv j.width fx))).flatten
    yccPicture (colourMatrix .bt601 true 8) 8 (componentRows y j.height j.width).flatten (chroma cb) (chroma cr)
  | y :: _, _ => greyPicture 8 (componentRows y j.height j.width).flatten none
  | [], _ => greyPicture 8 [] none

/-- R245: every PNG of at most 16,384 x 16,384. -/
def Png.supported (p : Png) : Bool := decide (p.width ≤ 16384) && decide (p.height ≤ 16384)

/-- The picture of a PNG image: shallow samples are replicated to 8 bits, palette colours expanded (R257). -/
def Png.picture (p : Png) : Picture :=
  let d := if p.bitDepth = 16 then 16 else 8
  let wide (x : Nat) : Nat := if p.bitDepth < 8 then x * (255 / (2 ^ p.bitDepth - 1)) else x
  let plane (i : Nat) : List Nat := p.samples.getD i []
  let colour (r g b : List Nat) : Picture :=
    ⟨d, false, (r.zip (g.zip b)).map fun x => luma709 x.1 x.2.1 x.2.2, r, g, b, p.alpha⟩
  if p.colourType = 3 then
    let px := (plane 0).map fun i => p.palette.getD i (0, 0, 0)
    colour (px.map fun x => x.1) (px.map fun x => x.2.1) (px.map fun x => x.2.2)
  else if p.colourType = 2 ∨ p.colourType = 6 then colour ((plane 0).map wide) ((plane 1).map wide) ((plane 2).map wide)
  else greyPicture d ((plane 0).map wide) p.alpha

/-- The bit depths of a profile: 8, in H.264 and H.265 up to 10 where the profile is named for it, in AV1 8 and 10. -/
def Profile.depthOk (p : Profile) (kind depth : Nat) : Bool :=
  decide (depth = 8) || (if kind = 4 then decide (depth = 10) else [Profile.high10, .main10].contains p && inRange depth 9 10)

/-- R245 and R246: the profiles, depths and levels of each video standard, by KIND, and no fields coded as pictures. -/
def Video.supported (v : Video) (kind : Nat) : Bool :=
  !v.fields && v.profile.depthOk kind v.depth &&
    (if kind = 2 then [Profile.high, .high10].contains v.profile && decide (v.level ≤ 52)
    else if kind = 3 then [Profile.main, .main10].contains v.profile && decide (v.level ≤ 61)
    else decide (v.profile = .main) && decide (v.level ≤ 60))

/-- Opus is decoded at 48 kHz, whatever rate its stream names (R245). -/
def Audio.asDecoded (a : Audio) (kind : Nat) : Audio := if kind = 7 then { a with rate := 48000 } else a

/-- The picture of a video frame: the matrix and range its stream signals, else BT.709 limited range (R257). -/
def Video.picture (v : Video) (f : Frame) : Picture :=
  match f.chroma with
  | none => greyPicture v.depth f.luma none
  | some (cb, cr) =>
    let full (c : List Nat) : List Nat :=
      (upsample true true f.height f.width (planeRows (ceilDiv f.height 2) (ceilDiv f.width 2) c)).flatten
    yccPicture (colourMatrix (f.matrix.getD .bt709) (f.fullRange.getD false) v.depth) v.depth f.luma (full cb) (full cr)

/-- R245: 1 to 8 channels at 8 to 192 kHz; WAV codes of 16 or 24 bits or binary32, FLAC subset streams of up to 24 bits. -/
def Audio.supported (a : Audio) (kind : Nat) : Bool :=
  inRange a.channels.length 1 8 && inRange a.rate 8000 192000 && match a.coding with
    | .integer bits =>
      if kind = 5 then decide (bits = 16) || decide (bits = 24) else if kind = 6 then a.subset && decide (bits ≤ 24) else true
    | .float32 => decide (kind = 5)
    | .other => false

/-- An audio sample: an integer code over 2^(d-1), or a binary32 value as it is (R261). -/
def Audio.sampleNum (a : Audio) (x : Int) : Machine.Num :=
  match a.coding with
  | .integer bits => .fin (decide (x < 0)) x.natAbs (-((bits - 1 : Nat) : Int))
  | _ => f32Num (BitVec.ofInt 32 x)

end Sys2Proof.Config

namespace Sys2Proof.Machine

/-! ### Audio resampling (R260) -/

/-- The exact sum of 64 samples times their coefficients, as v and k of v * 2^-(24 + k); none where one is no number. -/
def tapSum (cs : List Int) (xs : List Config.Sample) : Option (Int × Nat) :=
  (cs.zip xs).foldl (fun acc p => match acc, p.2 with
    | some (v, k), .exact x j => some (v * 2 ^ (max k j - k) + p.1 * x * 2 ^ (max k j - j), max k j)
    | _, _ => none) (some (0, 0))

/-- One output of the 64-tap polyphase filter: output `n` lies at n * from / to source samples, whose fraction is the phase
(R260). -/
def resampleOne (source target : Nat) (xs : List Config.Sample) (n : Nat) : Int :=
  let first : Int := (n * source / target : Nat) - (Config.tapLead source target : Int)
  let taps := (List.range 64).map fun (k : Nat) =>
    let i := first + (k : Int)
    if i < 0 then Config.beyondEnd xs i else xs.getD i.toNat (Config.beyondEnd xs i)
  match tapSum ((List.range 64).map (Config.tapCoef source target (n * source % target))) taps with
  | some (v, k) => if v % 2 ^ k = 0 then v / 2 ^ k else Config.tapRound v k
  | none => Config.tapOpen taps

/-- Samples resampled from one rate to another, in units of 2^-24 (R260). -/
def resample (source target : Nat) (xs : List Config.Sample) : List Int :=
  (List.range (Config.resampledLength source target xs.length)).map (resampleOne source target xs)

/-- A sample as the filter of R260 takes it. -/
def filterSample : Num → Config.Sample
  | .fin neg m e =>
    let x : Int := if 0 ≤ e then (m * 2 ^ e.toNat : Nat) else m
    .exact (if neg then -x else x) (-e).toNat
  | .inf neg => .code (if neg then 0xFF800000#32 else 0x7F800000#32)
  | .nan => .code (BitVec.ofNat 32 nanF32)

end Sys2Proof.Machine
end

