-- ==== Sys2Proof/Machine/Crusher.lean ====
section
/-!
DEFINITION. Machine/Crusher.lean: the Crusher (11_crusher.md): staging, colour, the resize and normalise path, outputs, masks,
status records and deliveries. What the media standards themselves say stands in Machine/Media.lean and Config.
-/
namespace Sys2Proof.Machine

/-! ### The media descriptor (R255) -/

/-- A media descriptor. -/
structure MediaDesc where
  manifest : Nat
  items : Nat
  stamp : Nat
  layout : Nat
  format : Nat
  resize : Nat
  fit : Bool
  channels : Nat
  classH : Nat
  classW : Nat
  limit : Nat
  dest : Nat
  unit : Nat
  out : Nat
  status : Nat
  mask : Nat
  tally : Nat
  first : Nat
  stride : Nat
  frames : Nat
  dpb : Nat
  outStride : Nat
  scale : List Nat
  bias : List Nat
  reservedOk : Bool
  deriving DecidableEq, Repr

/-- Fields of a media descriptor. -/
def mediaFields : List (Nat × Nat) :=
  [(0, 112), (112, 7), (120, 3), (128, 32), (160, 32), (192, 6), (224, 40), (264, 40), (304, 26), (336, 13), (352, 48), (400, 40),
    (448, 40), (512, 256)]

/-- Read a media descriptor. -/
def MediaDesc.ofNat (d : Nat) : MediaDesc :=
  { manifest := bitField d 0 64, items := bitField d 64 16, stamp := bitField d 80 32, layout := bitField d 112 2,
    format := bitField d 114 2, resize := bitField d 116 2, fit := bitAt d 118, channels := bitField d 120 3,
    classH := bitField d 128 16, classW := bitField d 144 16, limit := bitField d 160 32, dest := bitField d 192 2,
    unit := bitField d 194 4, out := bitField d 224 40, status := bitField d 264 40, mask := bitField d 304 26,
    tally := bitField d 336 13, first := bitField d 352 16, stride := bitField d 368 16, frames := bitField d 384 16,
    dpb := bitField d 400 40, outStride := bitField d 448 40, scale := fieldsOf 32 4 (bitField d 512 128), bias := fieldsOf 32 4 (bitField d 640 128),
    reservedOk := reservedClear d mediaFields }

/-- The three Crusher engines. -/
inductive CrusherKind where
  | clip
  | image
  | audio
  deriving DecidableEq, Repr

/-- The rules of R255 and R261. Sample rows are for audio; any other OUT_LAYOUT goes with any engine and DEST
(notes/assumptions/20.md). -/
def MediaDesc.ok (d : MediaDesc) (k : CrusherKind) : Bool :=
  let audio := decide (k = .audio)
  d.reservedOk && decide (d.manifest % 64 = 0) &&
    (match k with
      | .clip => decide (d.items = 1) && inRange d.stride 1 256 && inRange d.frames 1 4096
      | .image => inRange d.items 1 4096
      | .audio => inRange d.items 1 2048 && decide (d.stride < 3)) &&
    decide (d.format < 3) && (if audio then [1, 2].contains d.channels else [1, 3, 4].contains d.channels) &&
    inRange d.classH 1 16384 && inRange d.classW 1 16384 && decide (d.dest < 3) && (decide (d.layout ≠ 3) || audio) &&
    (decide (d.dest ≠ 2) || decide (d.unit < 4)) && decide (d.status % 16 = 0) && decide (d.mask % 32 = 0) &&
    (d.scale ++ d.bias).all fun x => isFinite32 (BitVec.ofNat 32 x)

/-- Bytes of an output element, E of R262. -/
def MediaDesc.elem (d : MediaDesc) : Nat := if d.format = 1 then 4 else 2

/-! ### Manifest entries and staging (R251, R252) -/

/-- A manifest entry. -/
structure Manifest where
  id : Nat
  kind : Nat
  addr : Nat
  length : Nat
  w : Nat
  h : Nat
  len : Nat
  stamp : Nat
  raw : List Byte
  deriving DecidableEq, Repr

/-- Read a manifest entry. -/
def Manifest.ofBytes (b : List Byte) : Manifest :=
  { id := listLe b 0 4, kind := listLe b 4 1, addr := listLe b 8 8, length := listLe b 0x10 4, w := listLe b 0x14 2,
    h := listLe b 0x16 2, len := listLe b 0x18 4, stamp := listLe b 0x3C 4, raw := b }

/-- The kinds that suit an engine (R251). -/
def CrusherKind.suits (k : CrusherKind) (kind : Nat) : Bool :=
  match k with
  | .image => decide (kind ≤ 1)
  | .clip => inRange kind 2 4
  | .audio => inRange kind 5 7

/-- Item statuses (R264): OK, NOT_READY, TOO_LARGE, UNSUPPORTED, CORRUPT, MISMATCH. -/
def itemOk : Nat := 0

/-- The status an item is refused with at staging, 0 where it is accepted (R252, R264). DEDUCED (notes/assumptions/20.md): a LENGTH
outside R251's range gives CORRUPT, and a video item with more than 65,535 declared pictures gives TOO_LARGE, since R264 names no
status for it. -/
def stagingStatus (d : MediaDesc) (k : CrusherKind) (m : Manifest) : Nat :=
  if m.stamp ≠ d.stamp then 1
  else if k.suits m.kind = false then 3
  else if d.limit < (if k = .audio then m.len else m.w * m.h) then 2
  else if k = .clip ∧ 65535 < m.len then 2
  else if inRange m.length 1 (2 ^ 30) = false then 4
  else 0

/-! ### Resizing and normalising (R258 to R261) -/

/-- The resized extent of a picture (R259). -/
def MediaDesc.extent (d : MediaDesc) (h w : Nat) : Nat × Nat :=
  if d.resize = 0 then (h, w)
  else if d.fit = false then (d.classH, d.classW)
  else if h * d.classW ≤ w * d.classH then (max 1 (h * d.classW / w), d.classW)
  else (d.classH, max 1 (w * d.classH / h))

/-- The planes of the output channels of a picture, and whether an alpha channel was dropped (R258). -/
def Picture.outputPlanes (p : Picture) (channels : Nat) : List (List Nat) × Bool :=
  let rgb := if p.grey then [p.luma, p.luma, p.luma] else [p.red, p.green, p.blue]
  if channels = 1 then ([p.luma], p.alpha.isSome)
  else if channels = 3 then (rgb, p.alpha.isSome)
  else (rgb ++ [p.alpha.getD (p.luma.map fun _ => 2 ^ p.depth - 1)], false)

/-- A position with 16 fractional bits, clamped to the picture (R260). -/
def fixedPos (i n src : Nat) : Nat :=
  let p : Int := (((2 * i + 1) * src : Nat) : Int) - n
  min (p * 65536 / (2 * n)).toNat ((src - 1) * 65536)

/-- A resized sample in units of 2^-16 (R260). -/
def resizeSample (mode H W h w : Nat) (plane : List Nat) (i j : Nat) : Nat :=
  let at_ (y x : Nat) : Nat := plane.getD (y * W + x) 0
  if mode = 0 then at_ i j * 65536
  else if mode = 1 then at_ ((2 * i + 1) * H / (2 * h)) ((2 * j + 1) * W / (2 * w)) * 65536
  else if mode = 2 then
    let py := fixedPos i h H
    let px := fixedPos j w W
    let y0 := py / 65536
    let x0 := px / 65536
    let fy := py / 256 % 256
    let fx := px / 256 % 256
    let y1 := min (y0 + 1) (H - 1)
    let x1 := min (x0 + 1) (W - 1)
    (256 - fy) * (256 - fx) * at_ y0 x0 + (256 - fy) * fx * at_ y0 x1 + fy * (256 - fx) * at_ y1 x0 + fy * fx * at_ y1 x1
  else
    let fy := H / h
    let fx := W / w
    let n := fy * fx
    ((List.range n).foldl (fun acc t => acc + at_ (i * fy + t / fx) (j * fx + t % fx)) 0) * ((2 * 65536 + n) / (2 * n))

/-- The area mode takes whole factors from 1 to 16 (R260). -/
def areaOk (H W h w : Nat) : Bool :=
  decide (H % h = 0) && decide (W % w = 0) && inRange (H / h) 1 16 && inRange (W / w) 1 16

/-- The exact sum of two values. -/
def numAdd (x y : Num) : Num :=
  match x, y with
  | .fin n1 m1 e1, .fin n2 m2 e2 =>
    let q := min e1 e2
    let s := scaledInt n1 m1 e1 q + scaledInt n2 m2 e2 q
    .fin (if s = 0 then n1 && n2 else decide (s < 0)) s.natAbs q
  | .nan, _ => .nan
  | _, .nan => .nan
  | .inf a, .inf b => if a = b then .inf a else .nan
  | .inf a, _ => .inf a
  | _, .inf b => .inf b

/-- m * 2^q rounded to a whole number, to nearest even. -/
def wholeEven (m : Nat) (q : Int) : Nat :=
  if 0 ≤ q then m * 2 ^ q.toNat
  else
    let d := 2 ^ (-q).toNat
    let up := decide (d < 2 * (m % d)) || (decide (2 * (m % d) = d) && decide (m / d % 2 = 1))
    m / d + (if up then 1 else 0)

/-- A value times 2^`shift` rounded once to a whole code in 16 bits (R149, R154, R261), a negative one in two's complement; free where
16 bits do not hold it (notes/assumptions/20.md). -/
def wholeCode (shift : Nat) : Num → Nat
  | .fin neg m e =>
    let x := wholeEven m (e + shift)
    if neg then (if x ≤ 32768 then (65536 - x) % 65536 else (Config.mediaCode neg m e).toNat)
    else if x < 65536 then x else (Config.mediaCode neg m e).toNat
  | .inf neg => (Config.mediaCode neg 0 0).toNat
  | .nan => (Config.mediaCode true 0 1).toNat

/-- The output code of channel `c` for a value (R261); with OUT_FORMAT 2 it is the code of the value times 2^`shift`. -/
def MediaDesc.code (d : MediaDesc) (c : Nat) (v : Num) (shift : Nat) : Nat :=
  if d.format = 2 then wholeCode shift v
  else
    let num (x : Nat) : Num := f32Num (BitVec.ofNat 32 x)
    let y := numAdd (mulNum v (num (d.scale.getD c 0))) (num (d.bias.getD c 0))
    (convertNum (if d.format = 0 then .bf16 else .f32) ⟨false, false, false⟩ 0 y).code

/-! ### Writing outputs (R262, R263) -/

/-- Write output bytes where DEST says. -/
def MediaDesc.put (d : MediaDesc) (s : State) (c : Cmd) (a : Acc) (at_ off : Nat) (bs : List Byte) : Acc :=
  if d.dest = 0 then writeCore s c a at_ d.unit (d.out + off) bs else writeNear s c a at_ (d.out + off) bs

/-- The class mask of an output whose first `h` rows are written (R263). -/
def classMask (classH h : Nat) : List Byte :=
  (List.range (ceilDiv classH 128)).flatMap fun b =>
    (List.range 32).map fun i =>
      if 16 ≤ i then 0
      else BitVec.ofNat 8 ((List.range 8).foldl (fun acc k => if h ≤ 128 * b + 8 * i + k then acc + 2 ^ k else acc) 0)

/-- Write the mask of output `n`: rows from `h` onward were not written. -/
def MediaDesc.putMask (d : MediaDesc) (s : State) (c : Cmd) (a : Acc) (n h : Nat) : Acc :=
  writeCore s c a n d.unit (d.mask + n * 32 * ceilDiv d.classH 128) (classMask d.classH h)

/-- An item status record (R264). -/
def statusRecord (id status flags h w delivered : Nat) : List Byte :=
  leBytes 4 id ++ leBytes 1 status ++ leBytes 1 flags ++ leBytes 2 0 ++ leBytes 2 h ++ leBytes 2 w ++ leBytes 4 delivered

/-- Write the first `h` class rows of output `n`, or form them for a stem engine, from the code of each channel, row and column
(R262). With OUT_LAYOUT 2 and no stem engine there is nothing that takes rows (notes/assumptions/20.md). -/
def MediaDesc.putOutput (d : MediaDesc) (s : State) (c : Cmd) (a : Acc) (n h : Nat) (cell : Nat → Nat → Nat → Nat) :
    Acc × Option HandItem :=
  if d.dest = 2 then
    let codes := (List.range (h * d.classW)).flatMap fun i =>
      (List.range d.channels).map fun ch => cell ch (i / d.classW) (i % d.classW)
    (a, some ⟨d.format, d.channels, d.classH, d.classW, h, codes⟩)
  else if d.layout = 2 then (a, none)
  else if d.layout = 3 then
    ((List.range h).foldl (fun a y =>
      let row := (List.range d.channels).flatMap fun ch => (List.range d.classW).flatMap fun x => leBytes d.elem (cell ch y x)
      d.put s c a n (n * d.outStride + y * d.channels * d.classW * d.elem) row) a, none)
  else
    let b := if d.layout = 0 then 16 else 32
    ((List.range h).foldl (fun a y =>
      let row := (List.range d.classW).flatMap fun x =>
        (List.range b).flatMap fun ch => leBytes d.elem (if ch < d.channels then cell ch y x else 0)
      d.put s c a n (n * d.outStride + y * d.classW * b * d.elem) row) a, none)

/-- The codes of a picture resized to (h, w): +0 beyond its columns (R260 to R262). -/
def MediaDesc.pictureCode (d : MediaDesc) (H W h w : Nat) (planes : List (List Nat)) (ch y x : Nat) : Nat :=
  if x < w then
    let v : Num := .fin false (resizeSample d.resize H W h w (planes.getD ch []) y x) (-16)
    d.code ch v 0
  else 0

/-- The codes of audio channels, row by row of the class: +0 beyond the decoded length (R262). -/
def MediaDesc.audioCode (d : MediaDesc) (a : Config.Audio) (chans : List (List Num)) (ch y x : Nat) : Nat :=
  match (chans.getD ch [])[y * d.classW + x]? with
  | some v => d.code ch v (match a.coding with
    | .integer bits => bits - 1
    | _ => 0)
  | none => 0

/-- The output channels of an audio item at the output rate, and whether channels were dropped (R258, R260). Averaging comes before
resampling, whose results are multiples of 2^-24, and a source that has the output rate is not resampled
(notes/assumptions/20.md). -/
def MediaDesc.audioChannels (d : MediaDesc) (a : Config.Audio) : List (List Num) × Bool :=
  let at_ (i : Nat) : List Num := (a.channels.getD i []).map a.sampleNum
  let n := a.channels.length
  let mixed :=
    if n ≤ 1 then List.replicate d.channels (at_ 0)
    else if d.channels = 1 then [((at_ 0).zip (at_ 1)).map fun p => (numAdd p.1 p.2).scale (-1)]
    else [at_ 0, at_ 1]
  let rate := if d.stride = 1 then 16000 else if d.stride = 2 then 48000 else a.rate
  let out := if rate = a.rate then mixed
    else mixed.map fun xs => (resample a.rate rate (xs.map filterSample)).map fun (v : Int) =>
      Num.fin (decide (v < 0)) v.natAbs (-24)
  (out, decide (2 < n))

/-! ### Working a command -/

/-- A Crusher command as it works through its items. -/
structure Crushing where
  acc : Acc
  fail : Option (Nat × Nat × Nat)
  logs : List (Nat × List Byte)
  hands : List (Nat × HandItem)
  /-- Replay: a bitstream differs from the recorded one (R466). -/
  differs : Bool
  /-- Outputs that come before any failing far-memory read (R254). -/
  outs : Nat
  /-- A far-memory read has failed. -/
  dead : Bool
  /-- Access units follow the last output (R249). -/
  more : Bool

/-- Body of a MEDIA entry (R253, R463). -/
def mediaBody (m : Manifest) (crc status : Nat) : List Byte := m.raw ++ leBytes 8 crc ++ leBytes 8 status

/-- In a replay an item's bitstream is the recorded one (R466). -/
def replayMedia (log : Option (List LogEntry)) (m : Manifest) (crc : Nat) : Bool :=
  match log with
  | none => true
  | some es => es.any fun e => e.kind = 7 && e.body.take 64 = m.raw && listLe e.body 64 8 = crc

/-- Close one item: its status record, its log entry and, where it failed, the event to raise. -/
def Crushing.close (k : Crushing) (s : State) (c : Cmd) (d : MediaDesc) (log : Option (List LogEntry)) (at_ item : Nat)
    (m : Manifest) (crc status flags h w delivered : Nat) : Crushing :=
  { k with
    acc := writeNear s c k.acc at_ (d.status + 16 * item) (statusRecord m.id status flags h w delivered),
    logs := k.logs ++ [(at_, mediaBody m crc status)],
    fail := if status = itemOk then k.fail else k.fail <|> some (at_, item, status),
    differs := k.differs || !replayMedia log m crc }

/-- Hand rows over where the command has DEST 2. -/
def Crushing.hand (k : Crushing) (d : MediaDesc) (n : Nat) (x : HandItem) : Crushing :=
  if d.dest = 2 then { k with hands := k.hands ++ [(n, x)] } else k

/-- An output of which no row is written: its mask is set whole, and no row of it is handed over. -/
def Crushing.noRows (k : Crushing) (s : State) (c : Cmd) (d : MediaDesc) (n : Nat) : Crushing :=
  { k with acc := d.putMask s c k.acc n 0 }.hand d n ⟨d.format, d.channels, d.classH, d.classW, 0, []⟩

/-- An item that writes no rows. -/
def Crushing.failItem (k : Crushing) (s : State) (c : Cmd) (d : MediaDesc) (log : Option (List LogEntry)) (n : Nat)
    (m : Manifest) (crc status : Nat) : Crushing :=
  (k.noRows s c d n).close s c d log n n m crc status 0 0 0 0

/-- An output's rows and mask. -/
def Crushing.output (k : Crushing) (s : State) (c : Cmd) (d : MediaDesc) (n h : Nat) (cell : Nat → Nat → Nat → Nat) : Crushing :=
  let (a, x) := d.putOutput s c k.acc n h cell
  let k := { k with acc := d.putMask s c a n h }
  match x with
  | some x => k.hand d n x
  | none => k

/-- A far-memory read has failed: of what came after `k`, only what it has read and met stays (R254, R263). -/
def Crushing.stopAt (k later : Crushing) : Crushing :=
  { k with dead := true,
           acc := { later.acc with writes := k.acc.writes, refused := k.acc.refused, nearBad := k.acc.nearBad,
                                   frozenBad := k.acc.frozenBad } }

/-- Go on with an item, unless a far-memory read has failed; one that fails within the item ends the command there. -/
def Crushing.step (k : Crushing) (item : Crushing → Crushing) : Crushing :=
  if k.dead then k
  else
    let later := item k
    if later.acc.failedFar = k.acc.failedFar then { later with outs := later.outs + 1 } else k.stopAt later

/-- A stretch of far memory lies in windows, from one to the next; `n` bounds how many it crosses. -/
def inWindows (ws : List FarWindow) : Nat → Nat → Nat → Bool
  | 0, _, _ => false
  | n + 1, a, len => match windowOf ws a with
    | some w => if a + len ≤ w.base + w.size then true else inWindows ws n (w.base + w.size) (a + len - (w.base + w.size))
    | none => false

/-- Read an item's manifest entry and its bitstream, whose CRC-64 is recorded also where staging refuses the item (R253). The
bitstream of a refused item is read where it lies in windows of the Level (notes/assumptions/20.md). -/
def readItem (s : State) (c : Cmd) (d : MediaDesc) (k : CrusherKind) (a : Acc) (n : Nat) : Manifest × Nat × List Byte × Acc :=
  let (b, a) := readFar s c a (d.manifest + 64 * n) 64
  let m := Manifest.ofBytes b
  let st := stagingStatus d k m
  let within := inRange m.length 1 (2 ^ 30) && inWindows (s.windows c.lvl) 17 m.addr m.length
  if st = 0 ∨ within = true then
    let (bits, a) := readFar s c a m.addr m.length
    (m, st, bits, a)
  else (m, st, [], a)

/-- The status that a picture's size gives: MISMATCH, TOO_LARGE or UNSUPPORTED, 0 where it has none of them (R253, R259, R260). -/
def MediaDesc.sizeStatus (d : MediaDesc) (m : Manifest) (H W : Nat) : Nat :=
  let (h, w) := d.extent H W
  if m.w < W ∨ m.h < H then 5
  else if d.resize = 0 ∧ (d.classH < h ∨ d.classW < w) then 2
  else if d.resize = 3 ∧ areaOk H W h w = false then 3 else 0

/-- The status that decoding ends with (R264). -/
def endStatus : Config.MediaEnd → Nat
  | .whole => itemOk
  | .corrupt => 4
  | .unsupported => 3

/-- What an image item decodes to, or the status it fails with (R245, R253, R264). -/
def decodeImage (d : MediaDesc) (m : Manifest) (bits : List Byte) : Except Nat (Nat × Nat × Picture) :=
  let go (H W : Nat) (ok : Bool) (ends : Config.MediaEnd) (p : Picture) : Except Nat (Nat × Nat × Picture) :=
    let st := if ok = false then 3 else if d.sizeStatus m H W ≠ 0 then d.sizeStatus m H W else endStatus ends
    if st = 0 then .ok (H, W, p) else .error st
  if m.kind = 0 then
    match Config.parseJpeg bits with
    | some j => go j.height j.width j.supported j.ends j.picture
    | none => .error 4
  else
    match Config.parsePng bits with
    | some p => go p.height p.width p.supported p.ends p.picture
    | none => .error 4

/-- One item of an image batch. -/
def imageItem (s : State) (c : Cmd) (d : MediaDesc) (log : Option (List LogEntry)) (k : Crushing) (n : Nat) : Crushing :=
  let (m, st, bits, a) := readItem s c d .image k.acc n
  let k := { k with acc := a }
  match if st ≠ 0 then .error st else decodeImage d m bits with
  | .error st => k.failItem s c d log n m (crc64 bits) st
  | .ok (H, W, p) =>
    let (h, w) := d.extent H W
    let (planes, dropped) := p.outputPlanes d.channels
    (k.output s c d n h (d.pictureCode H W h w planes)).close s c d log n n m (crc64 bits) 0 (if dropped then 2 else 0) h w 1

/-- What an audio item decodes to, or the status it fails with; one longer than its class is TOO_LARGE (R242, R245, R253). -/
def decodeAudio (d : MediaDesc) (m : Manifest) (bits : List Byte) : Except Nat Config.Audio :=
  match Config.parseAudio m.kind bits with
  | none => .error 4
  | some a =>
    let a := a.asDecoded m.kind
    let st :=
      if a.supported m.kind = false then 3
      else if m.len < (a.channels.getD 0 []).length then 5
      else if d.classH < ceilDiv ((d.audioChannels a).1.getD 0 []).length d.classW then 2
      else endStatus a.ends
    if st = 0 then .ok a else .error st

/-- One item of an audio batch. -/
def audioItem (s : State) (c : Cmd) (d : MediaDesc) (log : Option (List LogEntry)) (k : Crushing) (n : Nat) : Crushing :=
  let (m, st, bits, a) := readItem s c d .audio k.acc n
  let k := { k with acc := a }
  match if st ≠ 0 then .error st else decodeAudio d m bits with
  | .error st => k.failItem s c d log n m (crc64 bits) st
  | .ok v =>
    let (chans, dropped) := d.audioChannels v
    let len := (chans.getD 0 []).length
    let rows := ceilDiv len d.classW
    (k.output s c d n rows (d.audioCode v chans)).close s c d log n n m (crc64 bits) 0 (if dropped then 4 else 0) rows
      (if rows = 0 then 0 else d.classW) len

/-- The DPB area of a clip: its range is checked under R399, and the decoder keeps in it what Config.parseVideo says. -/
def MediaDesc.putDpb (d : MediaDesc) (s : State) (c : Cmd) (a : Acc) (v : Config.Video) : Acc :=
  let size := 17 * d.limit * 3
  let q := d.dpb / 2 ^ 36
  let points := d.dpb :: (List.range (size / 2 ^ 36 + 2)).flatMap fun i => [(q + i) * 2 ^ 36, (q + i) * 2 ^ 36 + s.quadBytes]
  let bad := points.find? fun x => decide (d.dpb ≤ x) && decide (x < d.dpb + size) && !s.nearOk c.lvl x
  (v.dpb.filter fun p => decide (p.1 + p.2.length ≤ size)).foldl (fun a p => writeNear s c a 0 (d.dpb + p.1) p.2)
    { a with nearBad := a.nearBad <|> bad }

/-- The pictures of a video item that are decoded before anything is found wrong with it, and the status with which that ends:
MISMATCH where a picture is beyond the declared count (R253). -/
def MediaDesc.goodFrames (d : MediaDesc) (m : Manifest) (v : Config.Video) : List Config.Frame × Nat :=
  let status (p : Config.Frame × Nat) : Nat := if m.len ≤ p.2 then 5 else d.sizeStatus m p.1.height p.1.width
  let bad := v.frames.zipIdx.find? fun p => status p ≠ 0
  match bad with
  | some p => (v.frames.take p.2, status p)
  | none => (v.frames, endStatus v.ends)

/-- The item of a clip (R253, R264, R267): output `n` is picture FIRST + n * STRIDE; a clip that fails part-way keeps the
frames delivered before, and where a read of its bitstream fails, those decoded from the bytes before. -/
def clipItem (s : State) (c : Cmd) (d : MediaDesc) (log : Option (List LogEntry)) (k : Crushing) : Crushing :=
  let (m, st, bits, a) := readItem s c d .clip k.acc 0
  let failed := a.failedFar.head?.map fun x => x.2 - m.addr
  let k0 := { k with acc := a }
  let crc := crc64 bits
  let masked (k : Crushing) (from_ : Nat) : Crushing :=
    (List.range (d.frames - from_)).foldl (fun k i => k.noRows s c d (from_ + i)) k
  let refuse (status : Nat) : Crushing :=
    if failed.isSome then k.stopAt k0
    else { (masked k0 0).close s c d log 0 0 m crc status 0 0 0 0 with outs := d.frames }
  let noEntry := a.failedFar.any fun x => decide (d.manifest ≤ x.2) && decide (x.2 < d.manifest + 64)
  let head : Except Nat Config.Video := if st ≠ 0 ∨ noEntry = true then .error st else match Config.parseVideo m.kind bits with
    | none => .error 4
    | some v => if v.supported m.kind = false then .error 3
      else if d.sizeStatus m v.height v.width ≠ 0 then .error (d.sizeStatus m v.height v.width) else .ok v
  match head with
  | .error st => refuse st
  | .ok v =>
    let (frames, fault) := d.goodFrames m v
    let frames := match failed with
      | some pos => frames.filter fun (f : Config.Frame) => decide (f.bytes ≤ pos)
      | none => frames
    let picked := ((List.range d.frames).filterMap fun n => frames[d.first + n * d.stride]?)
    let good := picked.length
    let out (f : Config.Frame) : List (List Nat) × Bool := (v.picture f).outputPlanes d.channels
    let flags (n : Nat) : Nat := (if v.grain then 1 else 0) + (if (picked.take n).any fun f => (out f).2 then 2 else 0)
    let size (n : Nat) : Nat × Nat := match (picked.take n).getLast? with
      | some f => d.extent f.height f.width
      | none => (0, 0)
    let k1 := picked.zipIdx.foldl (fun (k : Crushing) p =>
      let (h, w) := d.extent p.1.height p.1.width
      let k := k.output s c d p.2 h (d.pictureCode p.1.height p.1.width h w (out p.1).1)
      { k with acc := writeNear s c k.acc p.2 d.status (statusRecord m.id 0 (flags (p.2 + 1)) h w (p.2 + 1)) })
      { k0 with acc := d.putDpb s c k0.acc v }
    if failed.isSome then { k1 with outs := good, dead := true }
    else
      let short := decide (fault = 0) && decide (frames.length < m.len)
      let k := (masked k1 good).close s c d log good 0 m crc fault (flags good + (if short then 8 else 0)) (size good).1
        (size good).2 good
      { k with outs := d.frames, more := decide (good = d.frames) && picked.getLast?.any fun f => decide (f.units < v.units) }

/-- Dispatch a Crusher command (R254, R263, R265). From a failing far-memory read onward it writes and delivers nothing. -/
def runCrusher (l : Fin 4) (e : Nat) (engOk : Nat → Bool) (k : CrusherKind) (env : FarEnv) (s : State) : Result :=
  s.dispatch l e engOk 0x01 fun s r c =>
    let d := MediaDesc.ofNat (r.img.descNat r.en 128)
    if d.ok k then
      let s := s.withEnv env
      let log := s.replayLog l
      let w0 : Crushing := ⟨.empty, none, [], [], false, 0, false, false⟩
      let w := match k with
        | .clip => clipItem s c d log w0
        | .image => (List.range d.items).foldl (fun w n => w.step fun w => imageItem s c d log w n) w0
        | .audio => (List.range d.items).foldl (fun w n => w.step fun w => audioItem s c d log w n) w0
      let s := s.launch c w.acc [] (.deliver
        { tally := d.tally, next := 0, left := w.outs, dead := w.dead, fail := w.fail, logs := w.logs, hands := w.hands,
          gives := if d.dest = 2 then some d.unit else none, more := w.more, takes := false,
          filter := [] })
      if w.differs then s.replayInput l c.step 7 else s
    else s.invalidDesc c

/-- VIDEO_V0 to VIDEO_V7 (R62). -/
def isVideo (e : Nat) : Bool := 0x28 ≤ e && decide (e < 0x30)

/-- CLIP (R247). -/
def execClip (l : Fin 4) (e : Nat) (env : FarEnv) (s : State) : Result := runCrusher l e isVideo .clip env s

/-- IMAGE_BATCH (R247). -/
def execImageBatch (l : Fin 4) (e : Nat) (env : FarEnv) (s : State) : Result :=
  runCrusher l e (fun x => x = 0x30) .image env s

/-- AUDIO_BATCH (R247). -/
def execAudioBatch (l : Fin 4) (e : Nat) (env : FarEnv) (s : State) : Result :=
  runCrusher l e (fun x => x = 0x31) .audio env s

/-! ### Deliveries (R265, R266) -/

/-- The command in progress on an engine. -/
def EngineState.head (e : EngineState) : Option Running := e.running.head?

/-- What the Pit Log and the events take at output `n`. -/
def State.deliverNotes (s : State) (l : Fin 4) (eng entry : Nat) (d : Delivery) (n : Nat) : State :=
  let s := (d.logs.filter fun x => x.1 = n).foldl (fun s x => s.log l 7 x.2) s
  match d.fail with
  | some (at_, item, status) => if at_ = n then s.raise 0x5001 (some l) eng status entry item else s
  | none => s

/-- A stem engine of the Level works a command that takes rows from the Crusher (R280). -/
def LevelState.stemWorks (ls : LevelState) (unit : Nat) : Bool :=
  match (ls.eng (0x34 + unit)).head.map Running.after with
  | some (.deliver d) => d.takes && decide (d.left ≠ 0)
  | _ => false

/-- A stem engine takes the rows of one more output: its command has read what it was handed (R281). DESIGN CHOICE
(notes/assumptions/20.md): with no such command in progress the Crusher holds back too. -/
def LevelState.stemTakes (ls : LevelState) (unit : Nat) : Bool := (tabGet [] ls.handed unit).isEmpty && ls.stemWorks unit

/-- Deliver the next output of the engine's command: its rows, mask and status become visible, and PROGRESS_TALLY is
signalled once. Rows for a stem engine wait until it takes them (R281). -/
def State.deliverNext (s : State) (l : Fin 4) (eng : Nat) : State :=
  match ((s.lvl l).eng eng).head with
  | some r =>
    match r.after with
    | .deliver d =>
      if d.left = 0 ∨ (d.gives.any fun u => !(s.lvl l).stemTakes u) = true then s
      else
        let n := d.next
        let (s, r) := s.partWrites r (n + 1)
        let d' := { d with next := n + 1, left := d.left - 1 }
        let r := { r with after := .deliver d' }
        let s := s.updEng l eng fun st => { st with running := r :: st.running.tail }
        let s := s.deliverNotes l eng r.entry d n
        let hs := (d.hands.filter fun x => x.1 = n).map Prod.snd
        let s := match d.gives with
          | some u => s.updLvl l fun ls => { ls with
              handed := tabPut [] ls.handed u (tabGet [] ls.handed u ++ hs) }
          | none => s
        s.signalTally l d.tally r.entry
    | _ => s
  | none => s

/-- CRUSHER_OUTPUT_DELIVERY (R265). -/
def execCrusherOutputDelivery (l : Fin 4) (eng : BitVec 8) (s : State) : Result :=
  if 0x28 ≤ eng.toNat ∧ eng.toNat < 0x32 then .next (s.deliverNext l eng.toNat) else .next s

end Sys2Proof.Machine
end

