-- ==== Sys2Proof/Machine/Cores.lean ====
section
/-!
DEFINITION. Machine/Cores.lean: a Stope core's banks (R100, R101), the slots of its feeders (R92, R94 to R96), its cells (R123, R166 to
R169), and its dummy operations and fill level (R108 to R113).
-/
namespace Sys2Proof.Machine

/-! ### Banks (R100, R101) -/

/-- Where a bank of the core store stands (R100). -/
inductive DieLayer where
  | base
  | stacked
  deriving DecidableEq, Repr

/-- Base of the weight buffer of array `a` (R101); `wtBuffer 4` is the end of the core store. -/
def wtBuffer (a : Nat) : Nat := 0x1000000 + a * 0xC00000

/-- The bank of the line that holds a core-store address (R101). -/
def bankOf (addr : Nat) : Nat :=
  if addr < wtBuffer 0 then addr / 64 % 16
  else
    let a := (addr - wtBuffer 0) / 0xC00000
    16 + 12 * a + (addr - wtBuffer a) / 64 % 12

/-- The die layer of a bank (R100). -/
def bankLayer (bank : Nat) : DieLayer := if bank < 16 then .base else .stacked

/-- The region of a bank: 0 the general region, 1 + a the weight buffer of array `a` (R100). -/
def bankRegion (bank : Nat) : Nat := if bank < 16 then 0 else 1 + (bank - 16) / 12

/-- Bytes that the one read port and the one write port of a bank move per store clock of 512 ps (R100). -/
def bankPorts : Nat × Nat := (64, 32)

/-! ### Slots (R92, R94 to R96) -/

/-- The slot that a feeder issues which holds none: a bubble; a rest slot is the same (R96, R120). -/
def Slot.bubble : Slot := ⟨0, 0, false, false, false, false⟩

/-- What a feeder issues, and what it holds then: no slot is discarded and none is issued twice (R96). -/
def issueSlot : List Slot → Slot × List Slot
  | [] => (.bubble, [])
  | x :: xs => (x, xs)

/-- Slots that a feeder's queue holds (R87). -/
def feederDepth : Nat := 32

/-- The slots that a feeder has still to issue, in order. -/
def Feeder.slots (x : Feeder) : List Slot := x.queue ++ x.behind

/-- A feeder with some slots to issue: its queue takes as many as it holds (R87). -/
def Feeder.of (xs : List Slot) : Feeder := ⟨xs.take feederDepth, xs.drop feederDepth⟩

/-- The slots of a table of feeders. -/
def slotsOf (t : Tab Feeder) : Tab (List Slot) := t.map fun p => (p.1, p.2.slots)

/-- The feeders that hold a table of slots. -/
def feedersOf (t : Tab (List Slot)) : Tab Feeder := t.map fun p => (p.1, .of p.2)

/-- The 40 bits of a slot (R94). -/
def Slot.bits (x : Slot) : Nat :=
  x.data.toNat + x.scale.toNat * 2 ^ 24 + bitNat x.valid * 2 ^ 32 + bitNat x.boundary * 2 ^ 33 + bitNat x.dummy * 2 ^ 34 +
    bitNat x.groupEnd * 2 ^ 35

/-- The encoding of a FORMAT (R116). -/
def formatEnc (format : Nat) : Encoding := (formatEncoding format).getD .bf16

/-- Product slots of a cell in a format (R91). -/
def formatSlots (format : Nat) : Nat := if format = 0 then 1 else if format ≤ 2 then 2 else 4

/-- DATA of a slot: its elements, packed; unused bits are zero (R95). -/
def packSlot (format : Nat) (codes : List Nat) : BitVec 24 := BitVec.ofNat 24 (joinFields (encWidth (formatEnc format)) codes)

/-- The first `n` elements of a slot (R95). -/
def Slot.codes (x : Slot) (format n : Nat) : List Nat := fieldsOf (encWidth (formatEnc format)) n x.data.toNat

/-! ### Cells -/

/-- What a cell works with in a pass: the active A96 word, its group register, and its counts (R87, R167, R178). -/
structure Cell where
  word : A96
  group : List (Opnd × Opnd)
  counts : ProdCounts
  deriving DecidableEq, Repr

/-- The operands in a slot: `n` elements under its scale, after any input flush (R140, R147). -/
def Slot.operands (x : Slot) (format n : Nat) (flush : Bool) : List Opnd :=
  (x.codes format n).map fun c => opnd (formatEnc format) flush (if format = 0 then none else some x.scale.toNat) c

/-- One issue of a cell: slot s of the row meets slot s of the column, and they hold k0 + s (R92); the products join the group
register, and GROUP_END adds the group result to the active word (R123, R167 to R169). A slot with VALID 0 on either side forms
no product and changes nothing (R129, R130). -/
def Cell.issue (c : Cell) (format n : Nat) (flush : Bool) (x y : Slot) : Cell :=
  if x.valid && y.valid then
    let g := c.group ++ (x.operands format n flush).zip (y.operands format n flush)
    if x.groupEnd then
      let r := groupSum g
      ⟨c.word.addGroup r, [], c.counts.add r.counts⟩
    else { c with group := g }
  else c

/-! ### Dummy operations (R110 to R113) -/

/-- The dummy pattern's element for an element width: value A on even cycles, value B on odd ones (R112). -/
def dummyCode (width : Nat) (odd : Bool) : Nat :=
  match width with
  | 16 => if odd then 0xC055 else 0x3FAA
  | 8 => if odd then 0xCA else 0x35
  | 6 => if odd then 0b101010 else 0b010101
  | _ => if odd then 0b1010 else 0b0101

/-- A slot of the dummy pattern in a format: every element carries the value of the cycle, and SCALE is 0x7F (R112). -/
def dummySlot (format : Nat) (odd : Bool) : Slot :=
  { Slot.bubble with
    data := packSlot format (List.replicate (formatSlots format) (dummyCode (encWidth (formatEnc format)) odd)), scale := 0x7F,
    dummy := true }

/-- A cell in physical row `r` that holds a slot runs the dummy pattern (R110). -/
def CoreState.runsDummy (k : CoreState) (r : Nat) (x : Slot) : Bool := !x.valid && (x.dummy || decide (r % 4 < k.fillLevel))

/-- A cell of an array that is frozen or that the command does not use runs the dummy pattern (R90, R110). -/
def CoreState.idleRuns (k : CoreState) (r : Nat) : Bool := decide (r % 4 < k.fillLevel)

/-- Idle cells of one array that are eligible to run the pattern at a level (R110). -/
def idleCells (level : Nat) : Nat := level * 4096

/-- What the multiplier of a cell does in an arithmetic cycle (R110, R113). -/
inductive CellWork where
  /-- It multiplies two valid slots. -/
  | product
  /-- It runs on the dummy pattern, whose product is thrown away. -/
  | dummy (slot : Slot)
  /-- It does not toggle. -/
  | still
  deriving DecidableEq, Repr

/-- The work of the cell in row `r` of array `arr` that holds slots `x` and `y`, in an even or odd arithmetic cycle: the pattern has
the width of the format that the array last ran, bfloat16 at first (R110, R112). -/
def CoreState.cellWork (k : CoreState) (arr r : Nat) (odd : Bool) (x y : Slot) : CellWork :=
  if x.valid && y.valid then .product
  else if k.runsDummy r x || k.runsDummy r y then .dummy (dummySlot (tabGet 0 k.lastFormat arr) odd)
  else .still

/-! ### The fill level (R108, R109) -/

/-- FILL_SET: TARGET and STEP of the core's fill level; a STEP of 0 jumps; 5 to 7 are treated as 4 and reported; the interval counts
from the dispatch (R108, R109). Its one arithmetic cycle is less than a hub clock: it completes at its dispatch, also while a pass
before it drains (notes/assumptions/12.md). -/
def execFillSet (l : Fin 4) (e : Nat) (s : State) : Result :=
  s.dispatch l e isCoreEng 0x01 fun s r c =>
    let t := r.operand 0 3
    let target := min t 4
    let step := r.operand 8 8
    let from_ := s.arith r.en.engine
    let s := s.updCore r.en.engine fun k =>
      { k with fillTarget := target, fillStep := step, fillFrom := from_, fillLevel := if step = 0 then target else k.fillLevel }
    let s := if 4 < t then s.raise 0x2012 (some l) r.en.engine 0 e else s
    s.completeNow r c

/-- The time of the arithmetic clock at which a core's fill level takes its next step (R109). -/
def CoreState.nextStep (k : CoreState) : Nat := k.fillFrom + k.fillStep * 64 * arithParts

/-- FILL_LEVEL_STEP: at the end of each STEP * 64 arithmetic cycles the effective fill level moves one step towards TARGET, until
it equals TARGET (R109). -/
def execFillLevelStep (n : Fin 16) (s : State) : Result :=
  let k := s.core n.val
  if k.fillLevel = k.fillTarget ∨ s.arith n.val < k.nextStep then .next s
  else .next (s.updCore n.val fun k =>
    { k with fillLevel := if k.fillLevel < k.fillTarget then k.fillLevel + 1 else k.fillLevel - 1, fillFrom := k.nextStep })

end Sys2Proof.Machine
end

