-- ==== Sys2Proof/Machine/Passes.lean ====
section
/-!
DEFINITION. Machine/Passes.lean: array passes (05_passes.md): their descriptors, operands, forms, masks and outputs.
-/
namespace Sys2Proof.Machine

/-- The three forms (R118). -/
inductive Form where
  | full
  | packed
  | wide
  deriving DecidableEq, Repr

/-- Weight columns per array, P of R118. -/
def Form.cols : Form → Nat
  | .full => 128 | .packed => 256 | .wide => 512

/-- Output columns an array covers (R118). -/
def Form.span : Form → Nat
  | .full => 128 | .packed => 64 | .wide => 512

/-- Largest M_EXTENT (R115). -/
def Form.maxM : Form → Nat
  | .full => 128 | .packed => 64 | .wide => 32

/-- Largest N_EXTENT (R115). -/
def Form.maxN : Form → Nat
  | .full => 128 | .packed => 64 | .wide => 512

/-- A pass descriptor (R115). -/
structure PassDesc where
  format : Nat
  half : Bool
  flush : Bool
  outFormat : Nat
  stochastic : Bool
  saturate : Bool
  useMask : Bool
  blocked : Bool
  arrays : Nat
  blocks : Nat
  kGroups : Nat
  m : Nat
  n : Nat
  tiles : Nat
  act : Nat
  actScale : Nat
  actStride : Nat
  wtStride : Nat
  chunk : Nat
  wt : List Nat
  wtScale : Nat
  mask : Nat
  out : Nat
  outStride : Nat
  tensor : Nat
  rowOrigin : Nat
  colOrigin : Nat
  reservedOk : Bool
  deriving DecidableEq, Repr

/-- The fields of R115: lowest bit and width. -/
def passFields : List (Nat × Nat) :=
  [(0, 4), (4, 1), (5, 1), (6, 2), (8, 1), (9, 1), (10, 1), (11, 1), (12, 4), (16, 4), (20, 14), (34, 8), (42, 10), (52, 10),
    (64, 26), (90, 26), (128, 24), (152, 24), (176, 16), (192, 26), (218, 26), (256, 26), (282, 26), (320, 26), (346, 26),
    (384, 26), (410, 24), (448, 16), (464, 22), (486, 20)]

/-- Read a pass descriptor. -/
def PassDesc.ofNat (d : Nat) : PassDesc :=
  { format := bitField d 0 4, half := bitAt d 4, flush := bitAt d 5, outFormat := bitField d 6 2, stochastic := bitAt d 8,
    saturate := bitAt d 9, useMask := bitAt d 10, blocked := bitAt d 11, arrays := bitField d 12 4,
    blocks := bitField d 16 4, kGroups := bitField d 20 14, m := bitField d 34 8, n := bitField d 42 10,
    tiles := bitField d 52 10, act := bitField d 64 26, actScale := bitField d 90 26, actStride := bitField d 128 24,
    wtStride := bitField d 152 24, chunk := bitField d 176 16,
    wt := [bitField d 192 26, bitField d 218 26, bitField d 256 26, bitField d 282 26], wtScale := bitField d 320 26,
    mask := bitField d 346 26, out := bitField d 384 26, outStride := bitField d 410 24, tensor := bitField d 448 16,
    rowOrigin := bitField d 464 22, colOrigin := bitField d 486 20, reservedOk := reservedClear d passFields }

/-- The group length (R91, R167). -/
def PassDesc.group (d : PassDesc) : Nat := if d.format = 0 then 8 else if d.half then 16 else 32

/-- K of the pass. -/
def PassDesc.k (d : PassDesc) : Nat := d.kGroups * d.group

/-- The A-blocks, or the one block of the other forms, that the pass works on (R118, R128). -/
def PassDesc.qs (d : PassDesc) (f : Form) : List Nat :=
  if f = .packed then (List.range 4).filter fun q => bitAt d.blocks q else [0]

/-- Weight columns of each array that the pass reads: (block, column within the block, n) (R118, R129). -/
def PassDesc.columns (d : PassDesc) (f : Form) : List (Nat × Nat × Nat) :=
  (d.qs f).flatMap fun q => (List.range d.n).map fun c => (q, c, 64 * q + c)

/-- The highest weight column n that the pass reads. -/
def PassDesc.topColumn (d : PassDesc) (f : Form) : Nat := (d.columns f).foldl (fun m c => max m c.2.2) 0

/-- Arrays in use. -/
def PassDesc.used (d : PassDesc) : List Nat := (List.range 4).filter fun a => bitAt d.arrays a

/-- The tiles of a transposed read lie on 32 KiB boundaries inside each array's own buffer (R97, R133). DESIGN CHOICE
(notes/assumptions/80.md): only the weight addresses of used arrays are judged, and of the tiles those up to the last one the pass
reads; the base itself lies inside the buffer too, also where a packed pass uses only A-blocks 2 and 3. -/
def PassDesc.tilesOk (d : PassDesc) (f : Form) : Bool :=
  let last := d.tiles * (d.topColumn f / 128) + (d.k - 1) / 128
  d.used.all fun a =>
    let base := d.wt.getD a 0
    decide (base % 0x8000 = 0) && decide (wtBuffer a ≤ base) && decide (base + (last + 1) * 0x8000 ≤ wtBuffer (a + 1))

/-- A valid descriptor (R115, R116, R133, R135). -/
def PassDesc.ok (d : PassDesc) (f : Form) (trans : Bool) : Bool :=
  decide (d.format ≤ 5) && !(d.format = 0 && d.half) && decide (d.outFormat ≠ 3) &&
    !((d.stochastic || d.saturate) && decide (d.outFormat ≠ 0)) && decide (d.arrays ≠ 0) &&
    (decide (f = .packed) == decide (d.blocks ≠ 0)) && inRange d.kGroups 1 8192 && decide (d.k ≤ 65536) &&
    inRange d.m 1 f.maxM && inRange d.n 1 f.maxN &&
    (if d.blocked then
      decide (d.format = 0) && decide ((if trans then d.k - 1 else d.topColumn f) / 128 < d.tiles)
    else decide (d.tiles = 0)) &&
    d.reservedOk && (!trans || (decide (d.format = 0) && d.blocked && d.tilesOk f))

/-- The encoding of both operands (R116, R144). -/
def PassDesc.enc (d : PassDesc) : Encoding := formatEnc d.format

/-- Product slots of a cell that the form uses: k per issue (R91, R120). -/
def PassDesc.perIssue (d : PassDesc) (f : Form) : Nat := if f = .wide then 1 else formatSlots d.format

/-- Issues that some groups take (R120). -/
def PassDesc.issuesOf (d : PassDesc) (f : Form) (groups : Nat) : Nat := groups * d.group / d.perIssue f

/-- Byte offset of stored element (i, j) from the operand's base in the blocked layout (R97, R117). -/
def blockedOffset (v i j : Nat) : Nat :=
  (v * (i / 128) + j / 128) * 0x8000 + (4 * (i % 128 / 32) + j % 128 / 32) * 0x800 + 2 * (32 * (i % 32) + j % 32)

/-- The slots of one operand row or column, a slot for each issue (R92, R95, R120, R124). -/
def PassDesc.slots (d : PassDesc) (f : Form) (codes : List Nat) (scales : List Byte) : List Slot :=
  let n := d.perIssue f
  let all := d.issuesOf f d.kGroups
  (runsOf n all codes).zipIdx.map fun p =>
    { data := packSlot d.format p.1, scale := if d.format = 0 then 0 else scales.getD (p.2 * n / d.group) 0, valid := true,
      boundary := decide (p.2 + 1 = all), dummy := false, groupEnd := decide ((p.2 + 1) * n % d.group = 0) }

/-- The slots of a masked row, or of a column at or beyond N_EXTENT: VALID 0 and DUMMY 1 on the dummy pattern, with the markers of
any other (R111, R112, R124, R129; notes/assumptions/85.md). -/
def PassDesc.idleSlots (d : PassDesc) (f : Form) : List Slot :=
  let n := d.perIssue f
  let all := d.issuesOf f d.kGroups
  (List.range all).map fun i =>
    { dummySlot d.format false with boundary := decide (i + 1 = all), groupEnd := decide ((i + 1) * n % d.group = 0) }

/-- Arithmetic cycles from one issue to the next (R120). -/
def PassDesc.duty (d : PassDesc) (f : Form) : Nat :=
  match f with
  | .full => 1
  | .packed => 2
  | .wide => if d.format = 0 then 2 else 1

/-- The slots of a feeder that issues `per` of them an issue, the first in arithmetic cycle `first`: a slot of the dummy pattern takes
the value of the cycle in which it issues (R112, R120; notes/assumptions/85.md). -/
def PassDesc.phased (d : PassDesc) (f : Form) (first per : Nat) (xs : List Slot) : List Slot :=
  xs.zipIdx.map fun p =>
    if p.1.dummy then
      { dummySlot d.format ((first + p.2 / per * d.duty f) % 2 = 1) with boundary := p.1.boundary, groupEnd := p.1.groupEnd }
    else p.1

/-- Read one row or column of K packed elements with its scales. -/
def readRow (s : State) (c : Cmd) (a : Acc) (d : PassDesc) (f : Form) (core addr scale : Nat) : List Slot × Acc :=
  let (bs, a) := readCore s c a core addr (rowBytes d.enc d.k)
  let codes := unpackCodes d.enc bs
  if d.format = 0 then (d.slots f codes [], a)
  else
    let (ss, a) := readCore s c a core scale d.kGroups
    (d.slots f codes ss, a)

/-- Read one weight column in the blocked layout, two bytes an element (R117). DESIGN CHOICE (notes/assumptions/81.md): PASS_WIDE, for
which R117 names no axes, reads i as k and j as n. -/
def readBlocked (s : State) (c : Cmd) (a : Acc) (d : PassDesc) (f : Form) (core base n : Nat) (trans : Bool) : List Slot × Acc :=
  let (codes, a) := (List.range d.k).foldl (fun r k =>
    let off := if trans then blockedOffset d.tiles n k else blockedOffset d.tiles k n
    let (bs, a) := readCore s c r.2 core (base + off) 2
    (r.1 ++ [leNat bs], a)) (([] : List Nat), a)
  (d.slots f codes [], a)

/-- Read weight column `n` of array `a`. -/
def readWeight (s : State) (c : Cmd) (acc : Acc) (d : PassDesc) (f : Form) (trans : Bool) (core a n : Nat) :
    List Slot × Acc :=
  let base := d.wt.getD a 0
  if d.blocked then readBlocked s c acc d f core base n trans
  else readRow s c acc d f core (base + n * d.wtStride) (d.wtScale + (a * f.cols + n) * d.kGroups)

/-- Bit of the row mask that names row `r` of block `q` (R128). -/
def maskIndex (q r : Nat) : Nat := 64 * q + r

/-- The operands of a pass as read at its dispatch: unmasked rows by block and row within it, and weight columns by array, block
and column within it. -/
structure PassOps where
  rows : List ((Nat × Nat) × List Slot)
  cols : List ((Nat × Nat × Nat) × List Slot)
  deriving DecidableEq, Repr

/-- Read every operand of a pass; the mask is read once (R117, R128, R129). -/
def readPass (s : State) (c : Cmd) (d : PassDesc) (f : Form) (trans : Bool) (core : Nat) : PassOps × Acc :=
  let (mask, a) := if d.useMask then
      let (bs, a) := readCore s c .empty core d.mask 32
      (leNat bs, a)
    else (0, Acc.empty)
  let rowIds := (d.qs f).flatMap fun q => ((List.range d.m).filter fun r => !bitAt mask (maskIndex q r)).map fun r => (q, r)
  let (rows, a) := rowIds.foldl (fun acc qr =>
    let m := maskIndex qr.1 qr.2
    let (xs, a) := readRow s c acc.2 d f core (d.act + m * d.actStride) (d.actScale + m * d.kGroups)
    (acc.1 ++ [(qr, xs)], a)) (([] : List ((Nat × Nat) × List Slot)), a)
  let (cols, a) := d.used.foldl (fun acc arr =>
    (d.columns f).foldl (fun acc q =>
      let (xs, a) := readWeight s c acc.2 d f trans core arr q.2.2
      (acc.1 ++ [((arr, q.1, q.2.1), xs)], a)) acc) (([] : List ((Nat × Nat × Nat) × List Slot)), a)
  (⟨rows, cols⟩, a)

/-! ### Feeding (R118, R119) -/

/-- The blocks whose slots row feeder `r` issues in turn within one issue, and the row within them; in the wide form only the
feeders of the 32 stream rows issue. -/
def rowEntries (f : Form) (r : Nat) : List (Nat × Nat) :=
  match f with
  | .full => [(0, r)]
  | .packed => [(2 * (r / 64), r % 64), (2 * (r / 64) + 1, r % 64)]
  | .wide => if r < 32 then [(0, r)] else []

/-- The blocks whose slots column feeder `c` issues in turn within one issue, and the column within them. -/
def colEntries (f : Form) (c : Nat) : List (Nat × Nat) :=
  match f with
  | .full => [(0, c)]
  | .packed => [(c / 64, c % 64), (2 + c / 64, c % 64)]
  | .wide => [(0, c), (0, 128 + c), (0, 256 + c), (0, 384 + c)]

/-- Slots of one issue at each row feeder, and at each column feeder (R119). -/
def Form.entries : Form → Nat × Nat
  | .full => (1, 1) | .packed => (2, 2) | .wide => (1, 4)

/-- Streams issued in turn: the first slot of each, then the second, and so on. -/
def interleave (xs : List (List Slot)) (n : Nat) : List Slot :=
  (List.range n).flatMap fun i => xs.map fun x => x.getD i .bubble

/-- What the feeders of a pass issue from arithmetic cycle `first` on: row feeders and column feeders by array * 128 + feeder. -/
def PassOps.feeds (ops : PassOps) (d : PassDesc) (f : Form) (first : Nat) : Tab (List Slot) × Tab (List Slot) :=
  let all := d.issuesOf f d.kGroups
  let rowOf (q r : Nat) : List Slot := ((ops.rows.find? fun x => x.1 = (q, r)).map Prod.snd).getD (d.idleSlots f)
  let colOf (a q c : Nat) : List Slot := ((ops.cols.find? fun x => x.1 = (a, q, c)).map Prod.snd).getD (d.idleSlots f)
  let feed (g : Nat → Nat → List Slot) : Tab (List Slot) :=
    d.used.flatMap fun a => (List.range 128).map fun i => (a * 128 + i, g a i)
  (feed fun _ r => d.phased f first f.entries.1 (interleave ((rowEntries f r).map fun e => rowOf e.1 e.2) all),
    feed fun a c => d.phased f first f.entries.2 (interleave ((colEntries f c).map fun e => colOf a e.1 e.2) all))

/-- The row feeders that a pass issues from: of the wide form those of the 32 stream rows (R118, R119). -/
def PassDesc.rowFeeder (d : PassDesc) (f : Form) (i : Nat) : Bool := bitAt d.arrays (i / 128) && (f ≠ .wide || decide (i % 128 < 32))

/-- The column feeders that a pass issues from. -/
def PassDesc.colFeeder (d : PassDesc) (i : Nat) : Bool := bitAt d.arrays (i / 128)

/-- Put slots behind those a table of feeders holds. -/
def appendFeeds (t u : Tab (List Slot)) : Tab (List Slot) :=
  (List.range 512).filterMap fun k =>
    let v := tabGet [] t k ++ tabGet [] u k
    if v.isEmpty then none else some (k, v)

/-- Change the slots of some feeders; a feeder without slots is not listed. -/
def mapFeeds (t : Tab (List Slot)) (mine : Nat → Bool) (f : List Slot → List Slot) : Tab (List Slot) :=
  t.filterMap fun p =>
    let v := if mine p.1 then f p.2 else p.2
    if v.isEmpty then none else some (p.1, v)

/-- The slots of some feeders alone, changed. -/
def pickFeeds (t : Tab (List Slot)) (mine : Nat → Bool) (f : List Slot → List Slot) : Tab (List Slot) :=
  mapFeeds (t.filter fun p => mine p.1) mine f

/-- Change the slots of some row feeders and of some column feeders of a core. -/
def CoreState.feed (k : CoreState) (rows cols : Tab (List Slot) → Tab (List Slot)) : CoreState :=
  { k with rowFeed := feedersOf (rows (slotsOf k.rowFeed)), colFeed := feedersOf (cols (slotsOf k.colFeed)) }

/-! ### The cells of a pass (R118, R123, R124) -/

/-- The slots that the cell in row `r` and column `c` of array `a` receives over some issues: from its row and its column. -/
def cellStreams (f : Form) (rows cols : Tab (List Slot)) (a r c issues : Nat) : List Slot × List Slot :=
  let (rf, i) := match f with
    | .full => (r, 0)
    | .packed => (r, c / 64)
    | .wide => (r % 32, 0)
  let j := match f with
    | .full => 0
    | .packed => r / 64
    | .wide => r / 32
  let pick (n i : Nat) (xs : List Slot) : List Slot := (runsOf n issues xs).map fun x => x.getD i .bubble
  (pick f.entries.1 i (tabGet [] rows (a * 128 + rf)), pick f.entries.2 j (tabGet [] cols (a * 128 + c)))

/-- Cells of an array that receive valid slots from their row and their column: neither masked nor beyond N_EXTENT. -/
def liveCells (f : Form) (rows cols : Tab (List Slot)) (a : Nat) : List (Nat × Nat) :=
  let valid (n : Nat) (t : Tab (List Slot)) (i : Nat) : Bool := ((tabGet [] t (a * 128 + i)).take n).any Slot.valid
  let cs := (List.range 128).filter (valid f.entries.2 cols)
  ((List.range 128).filter fun r => valid f.entries.1 rows (if f = .wide then r % 32 else r)).flatMap fun r =>
    (cs.filter fun c =>
      let (x, y) := cellStreams f rows cols a r c 1
      x.any Slot.valid && y.any Slot.valid).map fun c => (r, c)

/-- Key of a cell's set (R87): the active one of its array, or the shadow one. -/
def CoreState.setKey (k : CoreState) (active : Bool) (a r c : Nat) : Nat :=
  (if k.roles.getLsbD a == active then 65536 else 0) + a * 16384 + r * 128 + c

/-- Key of a cell of a core. -/
def cellKey (a r c : Nat) : Nat := a * 16384 + r * 128 + c

/-- One cell accumulates some issues: the first group result of a pass is added to the A96 zero value (R123, R164, R169). -/
def CoreState.runCell (k : CoreState) (d : PassDesc) (f : Form) (rows cols : Tab (List Slot)) (first : Bool) (issues a r c : Nat)
    (counts : Tab ProdCounts) : Cell :=
  let (xs, ys) := cellStreams f rows cols a r c issues
  let word := if first then A96.zero else A96.ofBits (tabGet 0 k.sets (k.setKey true a r c)).toNat
  (xs.zip ys).foldl (fun cell p => cell.issue d.format (d.perIssue f) d.flush p.1 p.2) ⟨word, [], tabGet .zero counts (cellKey a r c)⟩

/-- The cells of a pass accumulate some groups from slots that its feeders issue; cells without valid slots are never written
(R123, R129). -/
def CoreState.accumulate (k : CoreState) (d : PassDesc) (f : Form) (rows cols : Tab (List Slot)) (first : Bool) (groups : Nat)
    (counts : Tab ProdCounts) : CoreState × Tab ProdCounts :=
  if groups = 0 then (k, counts)
  else (d.used.flatMap fun a => (liveCells f rows cols a).map fun rc => (a, rc)).foldl (fun acc x =>
    let (a, r, c) := x
    let cell := k.runCell d f rows cols first (d.issuesOf f groups) a r c counts
    ({ acc.1 with sets := tabPut 0 acc.1.sets (k.setKey true a r c) (BitVec.ofNat 96 cell.word.bits) },
      tabPut .zero acc.2 (cellKey a r c) cell.counts)) (k, counts)

/-- Every cell of the arrays of a pass swaps its active and shadow sets, those of masked rows too (R124, R132). -/
def CoreState.swap (k : CoreState) (d : PassDesc) : CoreState := { k with roles := k.roles ^^^ BitVec.ofNat 4 d.arrays }

/-! ### The drain (R125, R126, R129) -/

/-- One drained output: the bytes written and the contribution after it (R117, R126, R177, R178, R193). -/
def passElement (d : PassDesc) (seed : BitVec 64) (step m col : Nat) (x : A96 × ProdCounts) (c : Contribution) :
    List Byte × Contribution :=
  let at_ : Coord := ⟨d.chunk, d.rowOrigin + m, d.colOrigin + col⟩
  let c := ((c.count 0 x.2.nanInput).count 1 x.2.zeroInf).count 3 x.2.trunc
  let c := c.count 7 x.2.flushIn
  let c := if x.2.zeroInf = 0 then c else c.first 0 at_
  let c := if x.2.nanInput = 0 then c else c.first 1 at_
  if d.outFormat = 2 then (leBytes 16 x.1.bits, c.format 2)
  else
    let e : Encoding := if d.outFormat = 0 then .bf16 else .f32
    let r := if d.stochastic then randomBits seed d.tensor at_.row at_.col (BitVec.ofNat 64 step) else 0
    let (code, c) := convertA96 x.1 e ⟨d.flush, d.stochastic, d.saturate⟩ r at_ c
    (leBytes (if d.outFormat = 0 then 2 else 4) code, c)

/-- Bytes of one output element, E of R117. -/
def PassDesc.outBytes (d : PassDesc) : Nat := if d.outFormat = 0 then 2 else if d.outFormat = 1 then 4 else 16

/-- The step length L of the drain (R125). -/
def PassDesc.drainStep (d : PassDesc) : Nat := if d.outFormat = 0 then 1 else if d.outFormat = 1 then 2 else 8

/-- Output row and output column of the cell in row `r` and column `c` of array `a` (R118). -/
def outputOf (f : Form) (a r c : Nat) : Nat × Nat :=
  match f with
  | .full => (r, 128 * a + c)
  | .packed => (64 * (2 * (r / 64) + c / 64) + r % 64, 64 * a + c % 64)
  | .wide => (r % 32, 512 * a + 128 * (r / 32) + c)

/-- The cycle in which the drain reads a cell, after the swap of cell (0, 0): columns are read in parallel, each from row 0 on
(R125). -/
def PassDesc.drainCycle (d : PassDesc) (f : Form) (r c : Nat) : Nat := (if f = .packed then c % 64 else c) + 1 + d.drainStep * r

/-- Put a cell behind those that the drain reads no later. -/
def placeCell (x : Nat × (Nat × Nat × Nat)) : List (Nat × (Nat × Nat × Nat)) → List (Nat × (Nat × Nat × Nat))
  | [] => [x]
  | y :: ys => if x.1 < y.1 then x :: y :: ys else y :: placeCell x ys

/-- The cells of a pass in the order in which they are drained. DESIGN CHOICE (notes/assumptions/84.md): of cells read in one cycle
the lower array, then the lower row is written first. -/
def PassDesc.drainOrder (d : PassDesc) (f : Form) (rows cols : Tab (List Slot)) : List (Nat × Nat × Nat) :=
  ((d.used.flatMap fun a => (liveCells f rows cols a).map fun rc => (d.drainCycle f rc.1 rc.2, (a, rc.1, rc.2))).foldl
    (fun ys x => placeCell x ys) []).map Prod.snd

/-- The outputs of a pass are drained from the shadow sets: writes, and the contribution with MASKED (R125, R126, R129, R192). -/
def passOutputs (s : State) (c : Cmd) (d : PassDesc) (f : Form) (core : Nat) (seed : BitVec 64) (rows cols : Tab (List Slot))
    (counts : Tab ProdCounts) (a : Acc) : Acc × Contribution :=
  let k := s.core core
  let cells := d.drainOrder f rows cols
  let outs := cells.foldl (fun (acc : Acc × Contribution) x =>
    let (arr, r, col) := x
    let (m, oc) := outputOf f arr r col
    let word := A96.ofBits (tabGet 0 k.sets (k.setKey false arr r col)).toNat
    let (bs, ct) := passElement d seed c.step m oc (word, tabGet .zero counts (cellKey arr r col)) acc.2
    (writeCore s c acc.1 d.kGroups core (d.out + m * d.outStride + oc * d.outBytes) bs true, ct))
    (a, (Contribution.start d.tensor).format d.outFormat)
  (outs.1, (outs.2.count 13 1).count 14 (16384 * d.used.length - cells.length))

/-! ### Issue times (R120, R122, R134) -/

/-- Arithmetic cycles from the first issue of some groups to the last, in a form and format (R120). -/
def PassDesc.issueCycles (d : PassDesc) (f : Form) (groups : Nat) : Nat := (d.issuesOf f groups - 1) * d.duty f + 1

/-- The pipeline latency of a form (R122). -/
def Form.latency : Form → Nat
  | .full => 256 | .packed => 128 | .wide => 160

/-- The form of a pass opcode. -/
def formOf (opcode : Nat) : Form := if opcode ≤ 0x11 then .full else if opcode ≤ 0x13 then .packed else .wide

/-- The earliest time of the arithmetic clock at which a pass begins to issue: a pass whose form, FORMAT or HALF_BLOCK differs from
those of the pass before it waits for that one's last accumulation (R134). -/
def State.firstIssue (s : State) (l : Fin 4) (eng : Nat) (d : PassDesc) (f : Form) : Nat :=
  match ((s.lvl l).eng eng).running.getLast? with
  | some r => (match r.after with
    | .pass p =>
      let d' := PassDesc.ofNat p.desc
      let f' := formOf p.opcode
      if f' = f ∧ d'.format = d.format ∧ d'.half = d.half then s.arith eng
      else max (s.arith eng) (r.issued + f'.latency * arithParts)
    | _ => s.arith eng)
  | none => s.arith eng

/-- The earliest time of the arithmetic clock at which the last of some groups of a pass has entered the array (R120, R134). -/
def State.lastIssue (s : State) (l : Fin 4) (eng : Nat) (d : PassDesc) (f : Form) (groups : Nat) : Nat :=
  s.firstIssue l eng d f + d.issueCycles f groups * arithParts

/-! ### The course of a pass -/

/-- Dispatch a pass (R68, R134, R135): its operands are read into the feeders. A pass with an invalid descriptor feeds no record, so
an event that waited for it may be due (R181). -/
def runPass (l : Fin 4) (e opcode : Nat) (f : Form) (trans : Bool) (s : State) : Result :=
  s.dispatch l e isCoreEng opcode fun s r c =>
    let n := r.img.descNat r.en 64
    let d := PassDesc.ofNat n
    if d.ok f trans then
      let core := r.en.engine
      let (ops, a) := readPass s c d f trans core
      let (rows, cols) := ops.feeds d f (s.firstIssue l core d f / arithParts)
      let issued := s.lastIssue l core d f d.kGroups
      let s := s.updCore core fun k =>
        { k with lastFormat := d.used.foldl (fun t arr => tabPut 0 t arr d.format) k.lastFormat }.feed (appendFeeds · rows)
          (appendFeeds · cols)
      s.launch c a [(Contribution.start d.tensor).format d.outFormat] (.pass ⟨n, opcode, [], [], [], 0, false, none⟩) d.arrays issued
    else (s.invalidDesc c).checkInvalid l

/-- Slots of some groups at each row feeder and at each column feeder. -/
def PassDesc.feedCounts (d : PassDesc) (f : Form) (groups : Nat) : Nat × Nat :=
  (d.issuesOf f groups * f.entries.1, d.issuesOf f groups * f.entries.2)

/-- The cells of a resumed pass take the sets that its resumption restored (R136). -/
def CoreState.takeSets (k : CoreState) (d : PassDesc) (p : PassRun) : CoreState :=
  match p.restored with
  | none => k
  | some t => { k with sets := d.used.foldl (fun x a => (List.range 16384).foldl (fun x i =>
      tabPut 0 x (k.setKey true a (i / 128) (i % 128)) (tabGet 0 t (a * 16384 + i))) x) k.sets }

/-- A pass completes: the groups that it has still to accumulate are issued, the cells swap, and the drain writes its outputs
(R123 to R126, R134). -/
def State.finishPass (s : State) (l : Fin 4) (core : Nat) (r : Running) (p : PassRun) : State × Running :=
  let d := PassDesc.ofNat p.desc
  let f := formOf p.opcode
  let left := d.kGroups - r.progress
  let (n, m) := d.feedCounts f left
  let k := s.core core
  let rows := pickFeeds (slotsOf k.rowFeed) (d.rowFeeder f) (List.take n)
  let cols := pickFeeds (slotsOf k.colFeed) d.colFeeder (List.take m)
  let (k', counts) := (k.takeSets d p).accumulate d f rows cols (r.progress = 0) left p.counts
  let s := s.setCore core
    ((k'.feed (mapFeeds · (d.rowFeeder f) (List.drop n)) (mapFeeds · d.colFeeder (List.drop m))).swap d)
  let seed := ((s.lvl l).job.map Job.seed).getD 0
  let (a, ct) := passOutputs s ⟨l, core, r.ctx, r.entry, r.step⟩ d f core seed rows cols counts { Acc.empty with refused := r.refused }
  (s, { r with writes := a.writes.reverse, refused := a.refused, contribs := [ct] })

/-- A pass is suspended when it has issued `progress` groups: the slots that are its own leave the feeders, behind those of the
passes before it; its issued groups wait to be accumulated (R136). -/
def State.suspendPass (s : State) (core : Nat) (r : Running) (p : PassRun) (progress : Nat) : State × Running :=
  let d := PassDesc.ofNat p.desc
  let f := formOf p.opcode
  let (n, m) := d.feedCounts f (d.kGroups - r.progress)
  let k := s.core core
  let mine (x : Nat) (xs : List Slot) : List Slot := xs.drop (xs.length - x)
  let rest (x : Nat) (xs : List Slot) : List Slot := xs.take (xs.length - x)
  (s.setCore core (k.feed (mapFeeds · (d.rowFeeder f) (rest n)) (mapFeeds · d.colFeeder (rest m))),
    { r with after := .pass { p with heldRows := pickFeeds (slotsOf k.rowFeed) (d.rowFeeder f) (mine n),
                                     heldCols := pickFeeds (slotsOf k.colFeed) d.colFeeder (mine m),
                                     unsettled := progress - r.progress, saved := false } })

/-- The issued groups of a suspended pass are accumulated in the active sets (R136). -/
def State.settlePass (s : State) (core : Nat) (r : Running) (p : PassRun) : State × Running :=
  let d := PassDesc.ofNat p.desc
  let f := formOf p.opcode
  let (n, m) := d.feedCounts f p.unsettled
  let (k, counts) := ((s.core core).takeSets d p).accumulate d f (pickFeeds p.heldRows (d.rowFeeder f) (List.take n))
    (pickFeeds p.heldCols d.colFeeder (List.take m)) (r.progress = 0) p.unsettled p.counts
  (s.setCore core k,
    { r with progress := r.progress + p.unsettled,
             after := .pass { p with counts := counts, heldRows := mapFeeds p.heldRows (d.rowFeeder f) (List.drop n),
                                     heldCols := mapFeeds p.heldCols d.colFeeder (List.drop m), unsettled := 0, saved := true,
                                     restored := none } })

/-- A suspended pass goes on with its next group: its slots return to the feeders (R136). -/
def State.resumePass (s : State) (l : Fin 4) (core : Nat) (r : Running) (p : PassRun) : State × Running :=
  let d := PassDesc.ofNat p.desc
  let f := formOf p.opcode
  let first := s.firstIssue l core d f / arithParts
  let again (per : Nat) (t : Tab (List Slot)) : Tab (List Slot) := t.map fun x => (x.1, d.phased f first per x.2)
  (s.updCore core fun k =>
      k.feed (appendFeeds · (again f.entries.1 p.heldRows)) (appendFeeds · (again f.entries.2 p.heldCols)),
    { r with issued := s.lastIssue l core d f (d.kGroups - r.progress), after := .pass { p with heldRows := [], heldCols := [] } })

/-- PASS_FULL (R114, R118). -/
def execPassFull (l : Fin 4) (e : Nat) (s : State) : Result := runPass l e 0x10 .full false s

/-- PASS_FULL_T (R114, R133). -/
def execPassFullT (l : Fin 4) (e : Nat) (s : State) : Result := runPass l e 0x11 .full true s

/-- PASS_PACKED (R114, R118). -/
def execPassPacked (l : Fin 4) (e : Nat) (s : State) : Result := runPass l e 0x12 .packed false s

/-- PASS_PACKED_T (R114, R133). -/
def execPassPackedT (l : Fin 4) (e : Nat) (s : State) : Result := runPass l e 0x13 .packed true s

/-- PASS_WIDE (R114, R118). -/
def execPassWide (l : Fin 4) (e : Nat) (s : State) : Result := runPass l e 0x14 .wide false s

/-! ### The saved sets of a suspended pass (R136, R165, R432) -/

/-- The active set of array `a` in a save area: 12 bytes a cell. -/
def CoreState.setBytes (k : CoreState) (a : Nat) : List Byte :=
  (List.range 16384).flatMap fun i => leBytes 12 (tabGet 0 k.sets (k.setKey true a (i / 128) (i % 128))).toNat

/-- The words of array `a` that saved bytes give back, beside those of other arrays. -/
def loadSet (t : Tab (BitVec 96)) (a : Nat) (bs : List Byte) : Tab (BitVec 96) :=
  (List.range 16384).foldl (fun t i => tabPut 0 t (a * 16384 + i) (BitVec.ofNat 96 (listLe bs (12 * i) 12))) t

end Sys2Proof.Machine
end

