-- ==== Sys2Proof/Machine/Stem.lean ====
section
/-!
DEFINITION. Machine/Stem.lean: the stem engines (R277 to R281).
-/
namespace Sys2Proof.Machine

/-- STEM_0 to STEM_3 (R62). -/
def isStem (e : Nat) : Bool := 0x34 ≤ e && decide (e < 0x38)

/-- A stem descriptor (R277). -/
structure StemDesc where
  src : Nat
  wideIn : Bool
  wideOut : Bool
  f32 : Bool
  saturate : Bool
  flush : Bool
  useMask : Bool
  destCore : Nat
  srcCore : Nat
  cIn : Nat
  outC : Nat
  kh : Nat
  kw : Nat
  sy : Nat
  sx : Nat
  padT : Nat
  padL : Nat
  padB : Nat
  padR : Nat
  inH : Nat
  inW : Nat
  items : Nat
  srcAddr : Nat
  srcStride : Nat
  wt : Nat
  out : Nat
  outStride : Nat
  inMask : Nat
  outMask : Nat
  tally : Nat
  reservedOk : Bool
  deriving DecidableEq, Repr

/-- Fields of a stem descriptor: bits [335:334] and [511:349] are reserved. -/
def stemFields : List (Nat × Nat) := [(0, 334), (336, 13)]

/-- Read a stem descriptor. -/
def StemDesc.ofNat (d : Nat) : StemDesc :=
  { src := bitField d 0 2, wideIn := bitAt d 2, wideOut := bitAt d 3, f32 := bitAt d 4, saturate := bitAt d 5,
    flush := bitAt d 6, useMask := bitAt d 7, destCore := bitField d 8 4, srcCore := bitField d 12 4, cIn := bitField d 16 5,
    outC := bitField d 21 9, kh := bitField d 30 5, kw := bitField d 35 5, sy := bitField d 40 5, sx := bitField d 45 5,
    padT := bitField d 50 4, padL := bitField d 54 4, padB := bitField d 58 4, padR := bitField d 62 4,
    inH := bitField d 66 15, inW := bitField d 81 15, items := bitField d 96 16, srcAddr := bitField d 112 40,
    srcStride := bitField d 152 40, wt := bitField d 192 40, out := bitField d 232 26, outStride := bitField d 258 24,
    inMask := bitField d 282 26, outMask := bitField d 308 26, tally := bitField d 336 13,
    reservedOk := reservedClear d stemFields }

/-- Rows of the output (R278). -/
def StemDesc.oh (d : StemDesc) : Nat := (d.inH + d.padT + d.padB - d.kh) / d.sy + 1

/-- Columns of the output (R278). -/
def StemDesc.ow (d : StemDesc) : Nat := (d.inW + d.padL + d.padR - d.kw) / d.sx + 1

/-- The rules of R277 and R278. -/
def StemDesc.ok (d : StemDesc) : Bool :=
  d.reservedOk && decide (d.src < 3) && inRange d.cIn 1 16 && inRange d.outC 1 256 && inRange d.kh 1 16 && inRange d.kw 1 16 &&
    inRange d.sy 1 16 && inRange d.sx 1 16 && inRange d.inH 1 16384 && inRange d.inW 1 16384 && inRange d.items 1 4096 &&
    decide (d.kh ≤ d.inH + d.padT + d.padB) && decide (d.kw ≤ d.inW + d.padL + d.padR) &&
    decide (d.kh * d.kw * d.cIn ≤ 1024) && !(d.saturate && d.f32)

/-- Channel block of the input. -/
def StemDesc.blockIn (d : StemDesc) : Nat := if d.wideIn && decide (d.src ≠ 0) then 32 else 16

/-- Channel block of the output. -/
def StemDesc.blockOut (d : StemDesc) : Nat := if d.wideOut then 32 else 16

/-- Bytes of an output element. -/
def StemDesc.elem (d : StemDesc) : Nat := if d.f32 then 4 else 2

/-- An input item: the codes of its rows, channel by channel within a pixel, and none for a row that is marked or was never
handed over. -/
abbrev StemInput := List (Option (List Nat))

/-- The rows of a window that lie inside the input. -/
def StemDesc.windowRows (d : StemDesc) (y : Nat) : List Nat :=
  ((List.range d.kh).filter fun i => decide (d.padT ≤ y * d.sy + i) && decide (y * d.sy + i - d.padT < d.inH)).map
    fun i => y * d.sy + i - d.padT

/-- An output row is masked: its window has input rows, and all of them are marked or missing (R280, R287). -/
def StemDesc.rowOut (d : StemDesc) (inp : StemInput) (y : Nat) : Bool :=
  !(d.windowRows y).isEmpty && (d.windowRows y).all fun i => (inp.getD i none).isNone

/-- Element (channel) of a tap of an output pixel; padding, missing rows and channels at or beyond C_IN give +0. -/
def StemDesc.element (d : StemDesc) (inp : StemInput) (y x t ch : Nat) : Nat :=
  let vy := y * d.sy + t / d.kw
  let vx := x * d.sx + t % d.kw
  if d.cIn ≤ ch ∨ vy < d.padT ∨ vx < d.padL ∨ d.inH ≤ vy - d.padT ∨ d.inW ≤ vx - d.padL then 0
  else ((inp.getD (vy - d.padT) none).getD []).getD ((vx - d.padL) * d.cIn + ch) 0

/-- The output code of channel `n` of pixel (y, x): a full-form bfloat16 pass over its tap row (R279). -/
def StemDesc.output (d : StemDesc) (wts : List Nat) (inp : StemInput) (y x n : Nat) : Nat :=
  let cp := d.blockIn
  let groups := (List.range (d.kh * d.kw * (cp / 8))).map fun g =>
    (List.range 8).map fun i =>
      let t := g / (cp / 8)
      let ch := g % (cp / 8) * 8 + i
      let w := if ch < d.cIn then wts.getD (n * (d.kh * d.kw * d.cIn) + t * d.cIn + ch) 0 else 0
      (opnd .bf16 d.flush none (d.element inp y x t ch), opnd .bf16 d.flush none w)
  (convertA96 (cellResult groups).1 (if d.f32 then .f32 else .bf16) ⟨d.flush, false, d.saturate⟩ 0 ⟨0, 0, 0⟩
    (Contribution.start 0)).1

/-- Bytes of the output mask of one item: rows not written are 1, every other bit 0 (R280). -/
def StemDesc.maskBytes (d : StemDesc) (inp : StemInput) : List Byte :=
  (List.range (ceilDiv d.oh 128)).flatMap fun b =>
    (List.range 32).map fun i =>
      if 16 ≤ i then 0
      else BitVec.ofNat 8 ((List.range 8).foldl (fun acc k =>
        let y := 128 * b + 8 * i + k
        if y < d.oh ∧ d.rowOut inp y then acc + 2 ^ k else acc) 0)

/-- Write one item: its rows, in NCHWc16 or NCHWc32 with channels beyond OUT_C as +0, and its mask (R262, R280). -/
def StemDesc.putItem (d : StemDesc) (s : State) (c : Cmd) (a : Acc) (n : Nat) (wts : List Nat) (inp : StemInput) : Acc :=
  let b := d.blockOut
  let a := (List.range (ceilDiv d.outC b)).foldl (fun a blk =>
    ((List.range d.oh).filter fun y => !d.rowOut inp y).foldl (fun a y =>
      let row := (List.range d.ow).flatMap fun x =>
        (List.range b).flatMap fun j =>
          leBytes d.elem (if blk * b + j < d.outC then d.output wts inp y x (blk * b + j) else 0)
      writeCore s c a n d.destCore (d.out + n * d.outStride + (blk * d.oh + y) * d.ow * b * d.elem) row) a) a
  writeCore s c a n d.destCore (d.outMask + n * 32 * ceilDiv d.oh 128) (d.maskBytes inp)

/-- Read item `n` from a core store or near memory in the layout of R270 (R280). -/
def StemDesc.readItem (d : StemDesc) (s : State) (c : Cmd) (a : Acc) (n : Nat) : StemInput × Acc :=
  let size := rowMaskBytes d.inH
  let (mask, a) := if d.useMask then readCore s c a d.srcCore (d.inMask + n * size) size else ([], a)
  (List.range d.inH).foldl (fun (r : StemInput × Acc) y =>
    if d.useMask && rowMasked mask y then (r.1 ++ [none], r.2)
    else
      let p := 2 * d.blockIn
      let (bs, a) := readLocal s c r.2 (d.src = 2) d.srcCore (d.srcAddr + n * d.srcStride + y * d.inW * p) (d.inW * p)
      let codes := (List.range (d.inW * d.cIn)).map fun i => listLe bs (i / d.cIn * p + 2 * (i % d.cIn)) 2
      (r.1 ++ [some codes], a)) ([], a)

/-- Key of a byte of a stem engine's weight memory. -/
def stemKey (eng : Nat) : Nat := (eng - 0x34) * 2 ^ 19

/-- The weights in an engine's weight memory. -/
def State.stemWeights (s : State) (eng : Nat) (d : StemDesc) : List Nat :=
  (List.range (d.outC * (d.kh * d.kw * d.cIn))).map fun i => memLe s.stemMem (stemKey eng + 2 * i) 2

/-- A stem command is suspended: rows handed to it that it has not worked stay with it (R249, R281). -/
def State.stemHold (s : State) (l : Fin 4) (eng : Nat) (d : Delivery) : State × Delivery :=
  if isStem eng = false then (s, d)
  else
    (s.updLvl l fun ls => { ls with handed := tabPut [] ls.handed (eng - 0x34) [] },
      { d with hands := (tabGet [] (s.lvl l).handed (eng - 0x34)).map fun x => (d.next, x) })

/-- A stem command resumes: its engine holds its filter, and the rows handed to it, again (R249, R281). -/
def State.stemResume (s : State) (l : Fin 4) (eng : Nat) (d : Delivery) : State × Delivery :=
  if isStem eng = false then (s, d)
  else
    (({ s with stemMem := memWrite s.stemMem (stemKey eng) d.filter } : State).updLvl l fun ls =>
        { ls with handed := tabPut [] ls.handed (eng - 0x34) (d.hands.map Prod.snd) },
      { d with hands := [] })

/-- STEM_CONV (R277 to R280): the filter is loaded at dispatch; with SRC 0 each item is worked as the Crusher hands it. -/
def execStemConv (l : Fin 4) (e : Nat) (s : State) : Result :=
  s.dispatch l e isStem 0x01 fun s r c =>
    let d := StemDesc.ofNat (r.img.descNat r.en 64)
    if d.ok then
      let (wb, a) := readNear s c .empty d.wt (2 * d.outC * (d.kh * d.kw * d.cIn))
      let s := { s with stemMem := memWrite s.stemMem (stemKey c.eng) wb }
      let wts := s.stemWeights c.eng d
      let a := if d.src = 0 then a
        else (List.range d.items).foldl (fun a n =>
          let (inp, a) := d.readItem s c a n
          d.putItem s c a n wts inp) a
      (s.countReads a.weak).launch c a [] (.deliver
        { tally := d.tally, next := 0, left := d.items, dead := false, fail := none, logs := [], hands := [], gives := none, more := false,
          takes := decide (d.src = 0), filter := wb })
    else s.invalidDesc c

/-- Work item `n` of a command with SRC 0 from what the Crusher has handed over: an item of another shape makes the command
invalid, and it is abandoned (R280). -/
def State.takeHanded (s : State) (l : Fin 4) (eng : Nat) (r : Running) (n : Nat) (x : HandItem) : State × Bool :=
  let c : Cmd := ⟨l, eng, r.ctx, r.entry, r.step⟩
  match (s.lvl l).image with
  | none => (s, false)
  | some img =>
    let d := StemDesc.ofNat (img.descNat (img.entries.getD r.entry default) 64)
    if x.channels ≠ d.cIn ∨ x.classH ≠ d.inH ∨ x.classW ≠ d.inW ∨ x.format ≠ 0 then
      let s := s.updEng l eng fun st => { st with running := st.running.tail }
      ((s.invalidDesc c).abandonRunning l eng r, false)
    else
      let inp : StemInput := (List.range d.inH).map fun y =>
        if y < x.rows then some ((x.codes.drop (y * d.inW * d.cIn)).take (d.inW * d.cIn)) else none
      let a := d.putItem s c .empty n (s.stemWeights eng d) inp
      let r := { r with writes := r.writes ++ a.writes.reverse, refused := a.refused.foldl (fun xs y => addLine y xs) r.refused }
      let s := s.updEng l eng fun st => { st with running := r :: st.running.tail }
      (s.reportRefused c a, true)

/-- STEM_ITEM_DELIVERY (R280). -/
def execStemItemDelivery (l : Fin 4) (eng : BitVec 8) (s : State) : Result :=
  let e := eng.toNat
  if isStem e = false then .next s
  else match ((s.lvl l).eng e).head with
    | some r => match r.after with
      | .deliver d =>
        if d.takes = false then .next (s.deliverNext l e)
        else if d.left = 0 then .next s
        else
          let unit := e - 0x34
          match tabGet [] (s.lvl l).handed unit with
          | x :: rest =>
            let s := s.updLvl l fun ls => { ls with handed := tabPut [] ls.handed unit rest }
            let (s, ok) := s.takeHanded l e r d.next x
            .next (if ok then s.deliverNext l e else s)
          | [] => .next s
      | _ => .next s
    | none => .next s

end Sys2Proof.Machine
end

