-- ==== Sys2Proof/Machine/Slices.lean ====
section
/-!
DEFINITION. Machine/Slices.lean: slices in effect, suspension, the debt rule, context switches and the hot set, slot windows,
and the stall limit (R71 to R75, R136, R214, R424, R432 to R437).
-/
namespace Sys2Proof.Machine

/-- Debt that has been deducted. -/
def EngineState.pay (st : EngineState) (ctx n : Nat) : EngineState := { st with debt := tabPut 0 st.debt ctx (st.owes ctx - n) }

/-! ### What does not count as stall (R71) -/

/-- A stretch begins. -/
def EngineState.openAway (st : EngineState) (key from_ : Nat) : EngineState := { st with away := (key, from_, none) :: st.away }

/-- The stretches of a key end. -/
def EngineState.closeAway (st : EngineState) (key till : Nat) : EngineState :=
  { st with away := st.away.map fun a => if a.1 = key ∧ a.2.2 = none then (a.1, a.2.1, some till) else a }

/-- Counts from `due` to `now` that do not count as stall for entries of a key. -/
def EngineState.waited (st : EngineState) (key due now : Nat) : Nat :=
  (st.away.filter fun a => a.1 = key).foldl (fun n a => n + (min (a.2.2.getD now) now - max a.2.1 due)) 0

/-- Forget ended stretches that no entry still to be dispatched has met. -/
def LevelState.trimAway (ls : LevelState) (img : Image) (eng : Nat) : LevelState :=
  let st := ls.eng eng
  let dueOf (ctx : Nat) : Option Nat := (ls.nextEntry img eng ctx).map fun x => img.dueCount (img.entries.getD x.1 default) x.2
  ls.setEng eng { st with
    away := st.away.filter fun a => match a.2.2, dueOf (if a.1 = 8 then 0 else a.1) with
      | some t, some due => decide (due < t)
      | some _, none => false
      | none, _ => true }

/-- STALL_LIMIT: the stall of the next entry of an engine and context, its slip less its waits for its context, has reached
65,536 counts; reported once for the entry (R71). -/
def execStallLimit (l : Fin 4) (eng : BitVec 8) (ctx : Fin 8) (s : State) : Result :=
  let ls := s.lvl l
  let e := eng.toNat
  let st := ls.eng e
  match ls.image, ls.job with
  | some img, some j =>
    match ls.nextEntry img e ctx.val with
    | some (i, step) =>
      let en := img.entries.getD i default
      let due := img.dueCount en step
      let key := if (img.contextOf en).2 then ctx.val else 8
      let number := tabGet 0 st.dispatched ctx.val + 1
      if j.phase ≠ .running ∨ j.stopDue = true ∨ s.countNow j < due + 65536 + st.waited key due (s.countNow j) ∨
          tabGet 0 st.stalled ctx.val = number then .next s
      else
        let s := s.updEng l e fun st => { st with stalled := tabPut 0 st.stalled ctx.val number }
        if en.waitTally ∧ ls.tallyReady en.tally = false then .next ((s.raise 0x2020 (some l) e en.tally i).stopJob l)
        else .next ((s.raise 0x2011 (some l) e 0 i).stopJob l)
    | none => .next s
  | _, _ => .next s

/-! ### Save areas (R136, R165, R214, R432) -/

/-- Failed blocks inside a range. -/
def failedIn (failed : List Nat) (a n : Nat) : List Nat := failed.filter fun b => decide (a ≤ 64 * b) && decide (64 * b < a + n)

/-- The share entries of a context on a core. -/
def sharesOn (shares : List Share) (ctx core : Nat) : List Share := shares.filter fun sh => sh.context = ctx && sh.core = core

/-- A context is evictable on a core. -/
def evictableOn (shares : List Share) (ctx core : Nat) : Bool := (sharesOn shares ctx core).any Share.evictable

/-- The context is resident on the core. -/
def Job.isResident (j : Job) (core ctx : Nat) : Bool := tabGet false j.resident (core * 8 + ctx)

/-- The general range of a context on a core, at whose start its save area lies (R432). -/
def State.saveShare (s : State) (l : Fin 4) (core ctx : Nat) : Option Share :=
  (s.shares l).find? fun sh => sh.context = ctx && sh.core = core && sh.region = 0

/-- Write bytes to a core store. -/
def State.putCore (s : State) (core addr : Nat) (bs : List Byte) : State :=
  (piecesOf addr bs).foldl (fun (s : State) p => s.applyWrite ⟨0, .core core, p.1, p.2⟩) s

/-- Write bytes at an offset of a save area through the save path, which no share check meets (R290). A context that has been
evicted while one of its engines still ran has its save area in its BACKING (R436; notes/assumptions/64.md). -/
def State.putSaved (s : State) (l : Fin 4) (core : Nat) (sh : Share) (off : Nat) (bs : List Byte) : State :=
  let gone := match (s.lvl l).job with
    | some j => evictableOn (s.shares l) sh.context core && !j.isResident core sh.context
    | none => false
  if gone then (piecesOf (sh.backing + off) bs).foldl (fun (s : State) p => s.applyWrite ⟨0, .near, p.1, p.2⟩) s
  else s.putCore core (sh.start + off) bs

/-- `n` free bytes: what the spec leaves open in a save area. -/
def State.freeBytes (s : State) (n : Nat) : List Byte × State :=
  ((List.range n).map fun i => Config.freeByte (s.freeCtr + i), { s with freeCtr := s.freeCtr + n })

/-- The bytes of V0 to V31, M0 to M7 and P0 to P15 in a save area (R432). -/
def VRegs.saveBytes (g : VRegs) : List Byte :=
  (List.range 8192).flatMap (fun i => leBytes 4 (tabGet 0 g.v i).toNat) ++
    (List.range 8).flatMap (fun i => leBytes 32 (if i = 0 then 2 ^ 256 - 1 else (tabGet 0 g.m i).toNat)) ++
    (List.range 16).flatMap fun i => leBytes 8 (tabGet 0 g.p i).toNat

/-- The registers that saved bytes give back; M0 has none. -/
def VRegs.ofSaved (bs : List Byte) : VRegs :=
  { v := (List.range 8192).foldl (fun t i => tabPut 0 t i (BitVec.ofNat 32 (listLe bs (4 * i) 4))) [],
    m := (List.range 8).foldl (fun t i => if i = 0 then t else tabPut 0 t i (BitVec.ofNat 256 (listLe bs (0x8000 + 32 * i) 32))) [],
    p := (List.range 16).foldl (fun t i => tabPut 0 t i (BitVec.ofNat 64 (listLe bs (0x8100 + 8 * i) 8))) [] }

/-- Live state of a suspended command of a core engine: bytes of the save path (R434). A pass that has accumulated nothing has no
live set. -/
def Running.liveBytes (r : Running) (eng : Nat) : Nat :=
  if eng < 0x10 then if r.progress = 0 then 0 else 196608 * ((List.range 4).filter fun a => bitAt r.arrays a).length
  else if r.ctl.isSome then 33280
  else 64

/-- Save one suspended command of a core engine (R136, R165, R214): the active sets of the arrays a pass uses, bit for bit, a
program's registers and control block, or a stream operation's progress record. What a control block and a progress record hold is
open: free values (notes/assumptions/64.md). -/
def State.saveCommand (s : State) (l : Fin 4) (eng : Nat) (r : Running) : State :=
  let core := eng % 16
  if 0x20 ≤ eng ∨ r.liveBytes eng = 0 then s
  else match s.saveShare l core r.ctx with
  | none => s
  | some sh => match r.after, r.regs with
    | .pass p, _ => (PassDesc.ofNat p.desc).used.foldl (fun (s : State) a =>
        s.putSaved l core sh (0x30000 * a) ((s.core core).setBytes a)) s
    | _, some g =>
      let (k, s) := s.freeBytes 128
      s.putSaved l core sh 0xC0000 (g.saveBytes ++ k)
    | _, none =>
      let (k, s) := s.freeBytes 64
      s.putSaved l core sh 0xC8200 k

/-- Read a core store through the save path: no share check and no guard meets it (R290); a failed block gives zeros, with its
event (R568). -/
def State.readSaved (s : State) (l : Fin 4) (eng : Nat) (r : Running) (addr n : Nat) : List Byte × State :=
  let a := eng % 16 * 2 ^ 26 + addr
  let bad := failedIn s.mem.failedCore a n
  ((List.range n).map fun i => if bad.contains ((a + i) / 64) then 0 else memGet s.coreMem (a + i),
    s.reportFailures ⟨l, eng, r.ctx, r.entry, r.step⟩ { Acc.empty with failedCore := bad.map (64 * ·) })

/-- Restore one suspended command of a core engine from its save area (R136, R165, R214): its cells take the restored sets when the
passes before it have drained. -/
def State.restoreCommand (s : State) (l : Fin 4) (eng : Nat) (r : Running) : State × Running :=
  if 0x20 ≤ eng ∨ r.liveBytes eng = 0 then (s, r)
  else match s.saveShare l (eng % 16) r.ctx with
  | none => (s, r)
  | some sh => match r.after, r.regs with
    | .pass p, _ =>
      let (t, s) := (PassDesc.ofNat p.desc).used.foldl (fun (x : Tab (BitVec 96) × State) a =>
        let (bs, s) := x.2.readSaved l eng r (sh.start + 0x30000 * a) 0x30000
        (loadSet x.1 a bs, s)) ([], s)
      (s, { r with after := .pass { p with restored := some t } })
    | _, some _ =>
      let (bs, s) := s.readSaved l eng r (sh.start + 0xC0000) 0x8180
      (s, { r with regs := some (.ofSaved bs) })
    | _, none => (s, r)

/-! ### Suspension (R74, R136, R214, R249, R281, R296, R319, R404) -/

/-- Commands that run to completion whatever NONPREEMPT says: exchange commands (R369) and SPAN_OPEN (R296). -/
def Entry.neverSuspends (en : Entry) : Bool :=
  decide (en.engine = 0x60) || (decide (0x20 ≤ en.engine) && decide (en.engine < 0x24) && decide (en.opcode = 0x01))

/-- Groups, rows or items of a command: K_GROUPS of a pass, one past the last index at which it writes. -/
def Running.items (r : Running) : Nat :=
  (r.writes.filter fun w => w.at_ ≠ stampAt).foldl (fun n w => max n (w.at_ + 1)) 0

/-- A boundary at which the command can be suspended lies before its end: of `progress` groups, rows or items. -/
def Running.canSuspend (r : Running) (progress : Nat) : Bool :=
  match r.after with
  | .program => true
  | .pass p => decide (max progress r.progress < (PassDesc.ofNat p.desc).kGroups)
  | .deliver d => decide (d.left ≠ 0) || d.more
  | .waiting => false
  | _ => decide (progress < r.items)

/-- The issued groups of a suspended pass are accumulated, and its live sets saved (R136). -/
def State.settleSaved (s : State) (l : Fin 4) (eng : Nat) (r : Running) : State × Running :=
  match r.after with
  | .pass p =>
    if p.saved then (s, r)
    else
      let (s, r) := s.settlePass eng r p
      (s.saveCommand l eng r, r)
  | _ => (s, r)

/-- Suspend a command, which is charged the time it has taken: what it has done so far stays; a pass keeps the slots it has still
to issue, a vector program its control block and registers; its live state is saved (R74). `alone` says that no earlier command
still runs on the engine. -/
def State.suspend (s : State) (l : Fin 4) (eng : Nat) (r : Running) (progress : Nat) (alone : Bool) : State × Running :=
  let s := s.chargeRunning l eng r
  let r := r.charged s.now
  match r.after with
  | .pass p =>
    let (s, r) := s.suspendPass eng r p (max progress r.progress)
    if alone then s.settleSaved l eng r else (s, r)
  | .program =>
    let k := s.core (eng - 0x10)
    let r := { r with ctl := some k.ctl, regs := some k.regs }
    ((s.setCore (eng - 0x10) { k with ctl := .idle }).saveCommand l eng r, r)
  | .deliver d =>
    let (s, r) := s.partWrites r d.next
    let (s, d) := s.stemHold l eng d
    (s, { r with after := .deliver d })
  | _ =>
    let (s, r) := s.partWrites r progress
    (s.saveCommand l eng r, r)

/-- The issued groups of passes that were suspended behind one that has now drained are accumulated, and their sets saved (R136). -/
def State.settleSuspended (s : State) (l : Fin 4) (eng : Nat) : State :=
  let (s, ps) := ((s.lvl l).eng eng).suspended.foldl (fun (x : State × List (Nat × Running)) p =>
    let (s, r) := x.1.settleSaved l eng p.2
    (s, x.2 ++ [(p.1, r)])) (s, [])
  s.updEng l eng fun st => { st with suspended := ps }

/-- A suspended command goes on: it takes the engine again, with the state that its save area gives back. A program that cannot go
on stops (R208). -/
def State.resumeOn (s : State) (l : Fin 4) (eng : Nat) (r : Running) : State :=
  let (s, r) := s.restoreCommand l eng r
  let (s, r) := match r.after with
    | .pass p => s.resumePass l eng r p
    | .deliver d =>
      let (s, d) := s.stemResume l eng d
      (s, { r with after := .deliver d })
    | _ => (s, r)
  let s := match r.ctl, r.regs with
    | some t, some g => s.setCore (eng - 0x10) { s.core (eng - 0x10) with ctl := t, regs := g }
    | _, _ => s
  let s := s.updEng l eng fun st =>
    { st with running := { r with since := s.now, overrun := none, ctl := none, regs := none } :: st.running }
  if r.after = .program then s.settle (eng - 0x10) else s

/-- The commands that a context has suspended on an engine resume (R74). -/
def State.resumeContext (s : State) (l : Fin 4) (eng ctx : Nat) : State :=
  let rs := (((s.lvl l).eng eng).suspended.filter fun p => p.1 = ctx).map Prod.snd
  let s := s.updEng l eng fun st => { st with suspended := st.suspended.filter fun p => p.1 ≠ ctx }
  rs.foldl (fun (s : State) r => s.resumeOn l eng r) s

/-- The newest command of an engine at the effective end of a slice: suspended at its boundary with its run-on as overrun, or
left to complete, as one is that completes before it is suspended (R74, R75). A command that no slice covers runs on (R73). -/
def State.endRunning (s : State) (l : Fin 4) (eng : Nat) (img : Image) (held : Bool) (effEnd budget : Nat) (progress : Option Nat) :
    State :=
  let st := (s.lvl l).eng eng
  let rs := if held then st.slotHeld else st.running
  match rs.getLast? with
  | none => s
  | some r =>
    let en := img.entries.getD r.entry default
    let put (s : State) (xs : List Running) : State :=
      s.updEng l eng fun st => if held then { st with slotHeld := xs } else { st with running := xs }
    let stays := put s (rs.dropLast ++ [{ r with overrun := some (effEnd, budget) }])
    if (img.contextOf en).2 = false then s
    else if en.nonpreempt || en.neverSuspends then stays
    else match progress with
      | none => stays
      | some n =>
        if r.canSuspend n then
          let older := rs.dropLast
          let (s, r') := s.suspend l eng (if held then { r with since := s.now } else r) n older.isEmpty
          let s := (put s older).updEng l eng fun st => { st with suspended := st.suspended ++ [(r.ctx, r')] }
          match older.getLast? with
          | some o => put s (older.dropLast ++ [{ o with overrun := some (effEnd, budget) }])
          | none => s.chargeOverrun l eng r.ctx r.entry effEnd budget
        else stays

/-- The slice in effect on an engine ends, if it has reached its end. At a join it goes on as one with the next slice (R72);
otherwise `progress` says where the running command is suspended, none that it completes. -/
def State.sliceEnd (s : State) (l : Fin 4) (e : Nat) (progress : Option Nat) : State :=
  let ls := s.lvl l
  let st := ls.eng e
  match ls.image, ls.job, st.slice with
  | some img, some j, some (i, step) =>
    let sl := img.slices.getD i default
    let ded := img.deduction e i step (st.owes sl.context)
    let effEnd := img.sliceStop i step - ded
    if j.phase ≠ .running ∨ j.stopDue = true ∨ st.switching = true ∨ s.countNow j < effEnd then s
    else match (if ded = 0 then img.joined e i step else none) with
      | some nx => s.updEng l e fun st => { st with slice := some nx, lastSlice := some nx }
      | none =>
        let s := s.updEng l e fun st => ((({ st with slice := none }.pay sl.context ded).closeAway 8 effEnd).openAway sl.context effEnd)
        let s := s.updLvl l fun ls => ls.trimAway img e
        (s.endRunning l e img true effEnd sl.budget progress).endRunning l e img false effEnd sl.budget progress
  | _, _, _ => s

/-- SLICE_END: the slice in effect on an engine reaches its effective end. -/
def execSliceEnd (l : Fin 4) (eng : BitVec 8) (progress : Nat) (s : State) : Result :=
  .next (s.sliceEnd l eng.toNat (some progress))

/-- Slices whose effective ends a command has run past end before it completes (R75): those joined to the first one, then it. -/
def State.endPast (l : Fin 4) (eng : Nat) (img : Image) (j : Job) : Nat → State → State
  | 0, s => s
  | n + 1, s =>
    if ((s.lvl l).eng eng).pastEnd img eng (s.countNow j) then State.endPast l eng img j n (s.sliceEnd l eng none) else s

/-- What the last command of an engine meets when it completes: the slice that it has run past ends first. -/
def State.endBehind (s : State) (l : Fin 4) (eng : Nat) : State :=
  match (s.lvl l).image, (s.lvl l).job with
  | some img, some j =>
    if ((s.lvl l).eng eng).running.length = 1 then State.endPast l eng img j (img.slices.length + 1) s else s
  | _, _ => s

/-! ### The hot set (R436, R437) -/

/-- Copy a range of one memory into a range of another. -/
def memCopy (src dst : Mem) (a b n : Nat) : Mem :=
  memOverlay (memZero dst b n) ((src.filter fun kv => decide (a ≤ kv.1) && decide (kv.1 < a + n)).map fun kv => (kv.1 - a + b, kv.2))

/-- Write a core-store range back to near memory; failed lines are written as zeros and contain the Level (R443). -/
def State.writeBack (s : State) (l : Fin 4) (eng core start near n : Nat) : State :=
  let a := core * 2 ^ 26 + start
  let bad := failedIn s.mem.failedCore a n
  let m := bad.foldl (fun m b => memZero m (near + (64 * b - a)) 64) (memCopy s.coreMem s.nearMem a near n)
  let s := { s with nearMem := m, mem := { s.mem with failedNear := healRange s.mem.failedNear near n } }
  bad.foldl (fun (s : State) b => (s.raise 0x3003 (some l) eng core 0 (64 * b % 2 ^ 26)).contain l) s

/-- Load a core-store range from near memory. -/
def State.loadRange (s : State) (l : Fin 4) (eng core start near n : Nat) : State :=
  let a := core * 2 ^ 26 + start
  let bad := failedIn s.mem.failedNear near n
  let m := bad.foldl (fun m b => memZero m (a + (64 * b - near)) 64) (memCopy s.nearMem s.coreMem near a n)
  let s := s.countReads (s.weakLines near n)
  let s := { s with coreMem := m, mem := { s.mem with failedCore := healRange s.mem.failedCore a n } }
  bad.foldl (fun (s : State) b => (s.raise 0x3002 (some l) eng (nearDevice (64 * b)) 0 (64 * b)).contain l) s

/-- Ranges of two contexts overlap on a core. -/
def sharesOverlap (shares : List Share) (a b core : Nat) : Bool :=
  (sharesOn shares a core).any fun x => (sharesOn shares b core).any fun y =>
    decide (x.start < y.start + y.size) && decide (y.start < x.start + x.size)

/-- Bytes of a range that eviction writes back: all of a RETAIN range, the save area of a general range. -/
def Share.kept (sh : Share) : Nat := if sh.retain then sh.size else if sh.region = 0 then min sh.size saveBytes else 0

/-- Mark a context resident or evicted. -/
def State.setResident (s : State) (l : Fin 4) (core ctx : Nat) (b : Bool) : State :=
  s.updJob l fun j => { j with resident := tabPut false j.resident (core * 8 + ctx) b }

/-- Charge switch work to a context: it takes `clocks` hub clocks of the engine, behind the switch work that the engine has still to
do, and each cycle is charged what falls in it (R442). -/
def State.chargeSwitch (s : State) (l : Fin 4) (eng ctx clocks near : Nat) : State :=
  s.updLvl l fun ls =>
    let from_ := (ls.switchWork.filter fun w => w.engine = eng).foldl (fun t w => max t w.till) s.now
    { ls with switchWork := ls.switchWork ++ [⟨eng, ctx, from_, from_ + clocks, near⟩] }

/-- Hub clocks that bytes take over a quadrant's near memory at the trained rate (R397): 16 bytes a hub clock per Gb/s. -/
def State.reloadClocks (s : State) (n : Nat) : Nat := if s.mem.rate = 0 then 0 else n / (16 * s.mem.rate)

/-- Bytes that the saved state of a context takes on an engine; none where none is saved. -/
def Job.savedBytes (j : Job) (eng ctx : Nat) : Option Nat :=
  (j.saved.find? fun x => x.engine = eng && x.context = ctx).map Saved.bytes

/-- The switch moves a context's live state on an engine, which its suspension has put into its save area; the time of the save is
charged to it once (R434, R442; notes/assumptions/64.md). -/
def State.saveContext (s : State) (l : Fin 4) (eng ctx : Nat) : State × Nat :=
  match (s.lvl l).job.bind fun j => j.savedBytes eng ctx with
  | some n => (s, n)
  | none =>
    let rs := (((s.lvl l).eng eng).suspended.filter fun p => p.1 = ctx).map Prod.snd
    let n := rs.foldl (fun n r => n + r.liveBytes eng) 0
    if n = 0 then (s, 0)
    else ((s.updJob l fun j => { j with saved := j.saved ++ [⟨eng, ctx, n⟩] }).chargeSwitch l eng ctx (n / 1000) 0, n)

/-- The switch moves a context's saved state back on an engine, whose commands take it up as they resume; the time of the restore is
charged to it (R434, R442). -/
def State.restoreContext (s : State) (l : Fin 4) (eng ctx : Nat) : State × Nat :=
  match (s.lvl l).job.bind fun j => j.savedBytes eng ctx with
  | none => (s, 0)
  | some n =>
    ((s.updJob l fun j =>
      { j with saved := j.saved.filter fun x => !(x.engine = eng && x.context = ctx) }).chargeSwitch l eng ctx (n / 1000) 0, n)

/-- The other engine of a core. -/
def partner (eng : Nat) : Nat := if eng < 0x10 then eng + 0x10 else eng - 0x10

/-- Evict one context from a core: the live state that either engine holds of it is saved before its ranges go (R433, R436). -/
def State.evict (s : State) (l : Fin 4) (eng core ctx : Nat) : State × Nat :=
  let s := ((s.saveContext l core ctx).1.saveContext l (core + 0x10) ctx).1
  let shs := sharesOn (s.shares l) ctx core
  let n := shs.foldl (fun n sh => n + sh.kept) 0
  let s := shs.foldl (fun (s : State) sh => s.writeBack l eng core sh.start sh.backing sh.kept) s
  ((s.setResident l core ctx false).chargeSwitch l eng ctx (s.reloadClocks n) n, n)

/-- Make a context resident on a core: evict what overlaps, in ascending context, then load every range. -/
def State.makeResident (s : State) (l : Fin 4) (eng core ctx : Nat) : State × Nat :=
  let shares := s.shares l
  let out := (List.range 8).filter fun k =>
    k ≠ ctx && evictableOn shares k core && sharesOverlap shares k ctx core && match (s.lvl l).job with
      | some j => j.isResident core k
      | none => false
  let (s, back) := out.foldl (fun (x : State × Nat) k =>
    let (s, n) := x.1.evict l eng core k
    (s, x.2 + n)) (s, 0)
  let shs := sharesOn shares ctx core
  let n := shs.foldl (fun n sh => n + sh.size) 0
  let s := shs.foldl (fun (s : State) sh => s.loadRange l eng core sh.start sh.backing sh.size) s
  ((s.setResident l core ctx true).chargeSwitch l eng ctx (s.reloadClocks n) n, back + n)

/-! ### Switching contexts (R433, R434) -/

/-- A core engine changes its context: save, make resident, restore (R433). -/
def State.switchCore (s : State) (l : Fin 4) (eng ctx : Nat) (reload : Bool) : State :=
  let out := ((s.lvl l).eng eng).ctx
  let (s, saved) := if out = ctx then (s, 0) else s.saveContext l eng out
  let (s, moved) := if reload then s.makeResident l eng (eng % 16) ctx else (s, 0)
  let (s, restored) := s.restoreContext l eng ctx
  s.updEng l eng fun st =>
    { st with ctx := ctx, switching := true, switch := some ⟨s.now, decide (out ≠ ctx), saved + restored, moved⟩ }

/-- The other engine of the core is loading a context's ranges. -/
def LevelState.partnerLoads (ls : LevelState) (eng ctx : Nat) : Bool :=
  let st := ls.eng (partner eng)
  st.switching && decide (st.ctx = ctx) && match st.switch with
    | some x => decide (x.reload ≠ 0)
    | none => false

/-- The slice that comes next on an engine: its index and step. -/
def LevelState.sliceNext (ls : LevelState) (eng : Nat) : Option (Nat × Nat) :=
  match ls.image with
  | some img => img.sliceAfter eng (ls.eng eng).lastSlice
  | none => none

/-- The incoming context takes the engine: its suspended commands resume first (R74). -/
def State.intoEffect (s : State) (l : Fin 4) (eng ctx now_ : Nat) : State :=
  (s.updEng l eng fun st => st.closeAway ctx now_).resumeContext l eng ctx

/-- CONTEXT_SWITCH: slice `slice` reaches its effective start on an engine (R74, R75, R433). A slice that debt or lateness
empties passes without effect. A core engine that changes context or must load it is switching until SWITCH_COMPLETE. -/
def execContextSwitch (l : Fin 4) (eng : BitVec 8) (slice : Nat) (s : State) : Result :=
  let ls := s.lvl l
  let e := eng.toNat
  let st := ls.eng e
  match ls.image, ls.job, ls.sliceNext e with
  | some img, some j, some (i, step) =>
    let sl := img.slices.getD i default
    let effStart := max (img.sliceStart i step) st.overrunEnd
    let free := st.slotHeld.isEmpty && (st.running.isEmpty || (decide (sl.context = 0) && st.running.all fun r =>
      !(img.contextOf (img.entries.getD r.entry default)).2))
    if j.phase ≠ .running ∨ j.stopDue = true ∨ i ≠ slice ∨ st.slice.isSome ∨ st.switching = true ∨ free = false ∨
        s.countNow j < effStart then .next s
    else
      let ded := img.deduction e i step (st.owes sl.context)
      if img.sliceStop i step - ded ≤ effStart then
        .next (s.updEng l e fun st => { st with lastSlice := some (i, step) }.pay sl.context ded)
      else
        let s := s.updEng l e fun st =>
          let st := { st with slice := some (i, step), lastSlice := some (i, step) }
          if sl.context = 0 then st else st.openAway 8 effStart
        let core := e % 16
        let reload := decide (e < 0x20) && evictableOn j.decl.shares sl.context core && !j.isResident core sl.context
        if decide (e < 0x20) && (decide (sl.context ≠ st.ctx) || reload || ls.partnerLoads e sl.context) then
          .next (s.switchCore l e sl.context reload)
        else .next (s.intoEffect l e sl.context (s.countNow j))
  | _, _, _ => .next s

/-- The switch of an engine that began at a hub clock. -/
def LevelState.switchAt (ls : LevelState) (eng t : Nat) : Option Switch :=
  (ls.eng eng).switch.filter fun x => x.since = t

/-- Hub clocks that a switch takes (R434, R437): 0.6 µs once, the save path's bytes of both engines of the core at 2 TB/s, and
on a core that reloads the bytes that all the quadrant's cores write back and load at this switch over its near memory. -/
def State.switchClocks (s : State) (ls : LevelState) (eng : Nat) (x : Switch) : Nat :=
  let both := [some x, ls.switchAt (partner eng) x.since].filterMap id
  let fixed := if both.any Switch.fixed then 1200 else 0
  let bytes := both.foldl (fun n x => n + x.bytes) 0
  let q := eng % 16 / 4
  let reload := if both.all fun x => x.reload = 0 then 0
    else ((List.range 4).flatMap fun i => [4 * q + i, 0x10 + 4 * q + i]).foldl (fun n k =>
      n + ((ls.switchAt k x.since).map Switch.reload).getD 0) 0
  let rate := 16 * s.mem.rate
  if rate = 0 then fixed + ceilDiv bytes 1000 else fixed + ceilDiv (bytes * rate + reload * 1000) (1000 * rate)

/-- The hub clock at which the switch of an engine ends. -/
def State.switchEnd (s : State) (ls : LevelState) (eng : Nat) : Nat :=
  match (ls.eng eng).switch with
  | some x => x.since + s.switchClocks ls eng x
  | none => 0

/-- SWITCH_COMPLETE: the switch of an engine, and a load of its context by the core's other engine, have ended; the incoming
context takes it. -/
def execSwitchComplete (l : Fin 4) (eng : BitVec 8) (s : State) : Result :=
  let ls := s.lvl l
  let e := eng.toNat
  let st := ls.eng e
  match ls.job with
  | some j =>
    if st.switching = false ∨ s.now < s.switchEnd ls e ∨ (ls.partnerLoads e st.ctx = true ∧ s.now < s.switchEnd ls (partner e)) then
      .next s
    else
      let s := s.updEng l e fun st => { st with switching := false }
      .next (if j.phase = .running ∧ j.stopDue = false then s.intoEffect l e st.ctx (s.countNow j) else s)
  | none => .next s

/-! ### Slot windows (R424) -/

/-- Hub clocks since the slot window in which the present angle lies began (R423). -/
def Cadence.intoWindow (c : Cadence) (t : Nat) : Nat :=
  let p := c.dividing
  (c.elapsed t - c.angleAt t / 0x1000 * 0x1000 * p.sum * clockParts / (65536 * p.n)) / clockParts

/-- SLOT_WINDOW_END: at the end of the Level's run of windows on a slot-shared engine a running command is suspended at its next
internal boundary, whether or not NONPREEMPT is set; no output is made there. It is charged no time of the hand-over gap (R442). -/
def execSlotWindowEnd (l : Fin 4) (eng : BitVec 8) (_progress : Nat) (s : State) : Result :=
  let e := eng.toNat
  let ls := s.lvl l
  if slotShared e = false ∨ bitAt (ls.record.slots e).toNat (s.angle / 0x1000) = true then .next s
  else
    let till := s.now - s.cad.intoWindow s.now
    let s := s.asOf till fun s => (ls.eng e).running.foldl (fun (s : State) r => s.chargeRunning l e r) s
    .next (s.updEng l e fun st => { st with slotHeld := st.slotHeld ++ st.running.map fun r => r.charged till, running := [] })

/-- SLOT_WINDOW_START: the suspended command resumes in the Level's next window, past the hand-over gap. -/
def execSlotWindowStart (l : Fin 4) (eng : BitVec 8) (s : State) : Result :=
  let e := eng.toNat
  if slotShared e = false ∨ s.inWindow l e = false then .next s
  else .next (s.updEng l e fun st =>
    { st with running := st.running ++ st.slotHeld.map fun r => { r with since := s.now }, slotHeld := [] })

end Sys2Proof.Machine
end

