-- ==== Sys2Proof/Machine/Complete.lean ====
section
/-!
DEFINITION. Machine/Complete.lean: COMMAND_COMPLETE: a dispatched command ends (R78, R106, R188, R442), with what its kind still
does then.
-/
namespace Sys2Proof.Machine

/-- A Crusher command of the Level is still to deliver. -/
def LevelState.crusherLive (ls : LevelState) : Bool := ls.live.any fun p => decide (0x28 ≤ p.1) && decide (p.1 < 0x32)

/-- How a command on an engine ends now: it completes, or it ends with its stopping job without completing, or not yet. A vector
program completes after END (R208); deliveries come first (R265); a command that can deliver nothing more, after a failed
far-memory read (R254), since no stem engine is left to take its rows or since no Crusher command is left to feed it, ends once
its job is stopping; an exchange command that waits for stamps goes on with STAMP_REREAD. -/
inductive Ending where
  | completes
  | abandoned
  | notYet
  deriving DecidableEq, Repr

/-- The ending of the oldest command of an engine. -/
def LevelState.ending (ls : LevelState) (eng : Nat) (r : Running) : Ending :=
  let draining := decide (ls.job.map Job.phase = some .draining)
  match r.after with
  | .program => .notYet
  | .waiting => .notYet
  | .deliver d =>
    if d.left = 0 then (if !d.dead then .completes else if draining then .abandoned else .notYet)
    else if draining && (d.gives.any fun u => !ls.stemWorks u) then .abandoned
    else if d.takes && draining && !ls.crusherLive && (tabGet [] ls.handed (eng - 0x34)).isEmpty then .abandoned
    else .notYet
  | _ => .completes

/-- A command that no slice covers, the last on its engine, has run past the scheduled start of a slice of another context: that
start, as an overrun without a budget (R73). -/
def State.uncoveredOverrun (s : State) (l : Fin 4) (eng : Nat) (r : Running) : Option (Nat × Nat) :=
  let ls := s.lvl l
  match ls.image, ls.job with
  | some img, some j =>
    if (img.contextOf (img.entries.getD r.entry default)).2 ∨ j.phase ≠ .running then r.overrun
    else match img.nextForeign eng (ls.eng eng).lastSlice with
      | some (i, step) =>
        let start := img.sliceStart i step
        if start ≤ s.countNow j ∧ s.overrunCounts j start ≠ 0 then some (start, 0xFFFF) else r.overrun
      | none => r.overrun
  | _, _ => r.overrun

/-- What the kind of a completed command still does. -/
def State.afterwards (s : State) (l : Fin 4) (eng : Nat) (r : Running) (stamped : Bool) : State :=
  match r.after with
  | .deliver d => s.deliverNotes l eng r.entry d d.next
  | .boundary bs step off => s.updLvl l fun ls => bs.foldl (fun (ls : LevelState) b =>
    { ls with batches := tabPut .fresh ls.batches b
                { tabGet .fresh ls.batches b with due := (tabGet .fresh ls.batches b).due ++ [(step, off)] } }) ls
  | .result block journal => s.resultDone l block journal
  | .roster active auto => s.rosterDone l r.step active auto
  | .snapshot gen slot base digest take_ => s.snapDone l gen slot base digest take_ stamped
  | _ => s

/-- The oldest command of an engine completes: it leaves the engine, a pass drains, and what waited for its drain goes on. -/
def State.completeOldest (s : State) (l : Fin 4) (e : Nat) : State :=
  let s := s.endBehind l e
  match ((s.lvl l).eng e).running with
  | [] => s
  | r :: rest =>
    let r := if rest.isEmpty then { r with overrun := s.uncoveredOverrun l e r } else r
    let stamped := !r.noStamp && !s.isContained l
    let (s, r) := match r.after with
      | .pass p => s.finishPass l e r p
      | _ => (s, r)
    let s := s.updEng l e fun st => { st with running := rest }
    let s := (s.completeRunning l e r).afterwards l e r stamped
    if rest.isEmpty then s.settleSuspended l e else s

/-- COMMAND_COMPLETE: the oldest command of an engine ends. A vector program that cannot go on stops (R208). -/
def execCommandComplete (l : Fin 4) (eng : BitVec 8) (s : State) : Result :=
  let e := eng.toNat
  let s := if e = 0x60 then s.closePassed l else s
  match ((s.lvl l).eng e).running with
  | [] => .next s
  | r :: rest =>
    match (s.lvl l).ending e r with
    | .notYet => .next (if r.after = .program then s.settle (e - 0x10) else s)
    | .abandoned => .next ((s.updEng l e fun st => { st with running := rest }).abandonRunning l e r)
    | .completes => .next (s.completeOldest l e)

end Sys2Proof.Machine
end

