-- ==== Sys2Proof/Machine/Errors.lean ====
section
/-!
DEFINITION. Machine/Errors.lean: errors of the memories and links, scrubbing, and devices added and removed (R16, R400, R401,
R411, R412, R415, R416, R568).
-/
namespace Sys2Proof.Machine

/-- Add an event of a Level and its containment. -/
def State.failFor (s : State) (l : Fin 4) (code unit aux a : Nat) : State := (s.raise code (some l) unit aux 0 a).contain l

/-- A far-memory read of a Crusher command has failed: it delivers nothing more (R254, R266). -/
def Running.failMedia (r : Running) : Running :=
  match r.after with
  | .deliver d => { r with after := .deliver { d with left := 0, dead := true } }
  | _ => r

/-- A far-memory read of the Crusher commands of an engine that meet a condition has failed. -/
def State.failMedia (s : State) (l : Fin 4) (eng : Nat) (p : Running → Bool) : State :=
  let go (r : Running) : Running := if p r then r.failMedia else r
  if inRange eng 0x28 0x31 then
    s.updEng l eng fun st => { st with
      running := st.running.map go, slotHeld := st.slotHeld.map go, suspended := st.suspended.map fun x => (x.1, go x.2) }
  else s

/-- A stretch of far memory meets a window that a link half serves. -/
def State.farOnHalf (s : State) (l : Fin 4) (half addr len : Nat) : Bool :=
  (s.windows l).any fun w => bitAt w.links.toNat half && decide (addr < w.base + w.size) && decide (w.base < addr + len)

/-- The bitstreams of a Crusher command whose outputs are still to be delivered, as its manifest entries give them (R251). -/
def Delivery.bitstreams (d : Delivery) : List (Nat × Nat) :=
  (d.logs.filter fun x => decide (d.next ≤ x.1)).map fun x => (listLe x.2 8 8, listLe x.2 0x10 4)

/-- The manifest or a bitstream that a Crusher command still works on lies on a link half. -/
def State.mediaOn (s : State) (l : Fin 4) (half : Nat) (r : Running) : Bool :=
  match (s.lvl l).image, r.after with
  | some img, .deliver x =>
    let d := MediaDesc.ofNat (img.descNat (img.entries.getD r.entry default) 128)
    s.farOnHalf l half d.manifest (64 * d.items) || x.bitstreams.any fun b => s.farOnHalf l half b.1 b.2
  | _, _ => false

/-- UNCORRECTABLE_ERROR_DETECTED: the block fails, the event names the reader, and the Level is contained (R415, R416, R568); a
Crusher command whose far-memory read it is ends there (R254). -/
def execUncorrectableErrorDetected (l : Fin 4) (eng : BitVec 8) (site : ErrorSite) (s : State) : Result :=
  match site with
  | .near a =>
    .next (if s.nearOk l a.toNat = false then s
      else
        { s with mem := { s.mem with failedNear := addNew (a.toNat / 64) s.mem.failedNear } }.failFor l 0x3002 eng.toNat
          (nearDevice a.toNat) a.toNat)
  | .core n a =>
    .next (if (s.lvl l).ownsCore n.val = false then s
      else
        { s with mem := { s.mem with failedCore := addNew ((n.val * 2 ^ 26 + a.toNat) / 64) s.mem.failedCore } }.failFor l 0x3003
          eng.toNat n.val a.toNat)
  | .hub a =>
    .next (if (s.lvl l).present = false then s
      else
        { s with mem := { s.mem with failedHub := addNew (a.toNat / 64) s.mem.failedHub } }.failFor l 0x3003 eng.toNat 0x00FF
          a.toNat)
  | .far half a => .next (if (s.lvl l).present = false then s else
      (s.failMedia l eng.toNat fun _ => true).failFor l 0x3020 eng.toNat (half.val / 2) a.toNat)

/-- The compute pairs of die-to-die links 4 to 9, ascending (R16, R564; notes/assumptions/50.md). -/
def linkPairs : List (Nat × Nat) := [(0, 1), (0, 2), (0, 3), (1, 2), (1, 3), (2, 3)]

/-- A die-to-die link carries traffic of a Level: of a quadrant's link to the hub the owner's, of a pair's link the traffic of
a Level that owns both. -/
def LevelState.usesLink (ls : LevelState) (link : Nat) : Bool :=
  if link < 4 then ls.ownsQuad link
  else
    let p := linkPairs.getD (link - 4) (0, 0)
    ls.ownsQuad p.1 && ls.ownsQuad p.2

/-- DIE_LINK_FAILURE: one event for the whole part, and containment of every Level whose traffic the link carries. -/
def execDieLinkFailure (link : Fin 10) (s : State) : Result :=
  let s := s.raise 0x3004 none 0 link.val 0
  .next ((List.finRange 4).foldl (fun (s : State) l => if (s.lvl l).usesLink link.val then s.contain l else s) s)

/-- Near-memory address of a byte of a device (R398). -/
def deviceNear (dev addr : Nat) : Nat := dev / 8 * 2 ^ 36 + addr / 256 * 2048 + dev % 8 * 256 + addr % 256

/-- A scrubbed line that cannot be corrected (R401): an event, and containment where a job is open. -/
def State.scrubFailed (s : State) (dev a : Nat) : State :=
  let s := { s with mem := { s.mem with failedNear := addNew (a / 64) s.mem.failedNear } }
  let s := s.raise 0x3002 (s.quadOwner (dev / 8)) 0xFFFF dev 0 a
  match s.quadOwner (dev / 8) with
  | some l => s.contain l
  | none => s

/-- PATROL_SCRUB: one line of one device; a block that has failed reads uncorrected again; a corrected one is written
back corrected (R401). -/
def execPatrolScrub (dev : Fin 32) (addr : Nat) (res : ScrubResult) (s : State) : Result :=
  let a := deviceNear dev.val addr
  if 8 * addr ≥ s.quadBytes then .next s
  else if res = .uncorrected ∨ s.mem.failedNear.contains (a / 64) then .next (s.scrubFailed dev.val a)
  else if res = .corrected then
    .next ({ s with mem := { s.mem with weak := s.mem.weak.filter fun b => b ≠ a / 64 } }.countCorrected dev.val)
  else .next s

/-- DEVICE_ADDED: the firmware enumerates a device; open jobs and their windows stay as they are (R411). -/
def execDeviceAdded (half : Fin 16) (info : LinkInfo) (s : State) : Result :=
  if s.boot.fw ≠ .running ∨ info.up = false then .next s
  else
    let s := s.bringLink half.val info
    .next (if (s.link half.val).type3 then s.raise 0x3022 (s.quadOwner (half.val / 4)) 0 half.val 0 else s)

/-- An open job of the Level has a window on a link half (R412). -/
def LevelState.usesHalf (ls : LevelState) (half : Nat) : Bool :=
  match ls.job with
  | some j => j.decl.windows.any fun w => bitAt w.links.toNat half
  | none => false

/-- A far link has failed at an address (R415): the event, and containment of the Levels that use it, whose Crusher commands on it
read no further (R254; notes/assumptions/20.md). -/
def State.farLinkFailed (s : State) (half : Nat) (addr : BitVec 64) : State :=
  let s := s.raise 0x3021 (s.quadOwner (half / 4)) 0 half 0 addr.toNat
  (List.finRange 4).foldl (fun (s : State) l =>
    if (s.lvl l).usesHalf half then
      ((List.range 10).foldl (fun (s : State) i => s.failMedia l (0x28 + i) (s.mediaOn l half)) s).contain l
    else s) s

/-- Any open job has a window on a link half. -/
def State.halfInUse (s : State) (half : Nat) : Bool := (List.finRange 4).any fun l => (s.lvl l).usesHalf half

/-- DEVICE_REMOVED: without an open window EV_MEM_REMOVED and nothing else, otherwise a far-memory failure, whose far address the spec
leaves open (R412). -/
def execDeviceRemoved (half : Fin 16) (s : State) : Result :=
  if (s.link half.val).up = false then .next s
  else if s.halfInUse half.val then
    let (a, s) := s.free64
    .next ((s.farLinkFailed half.val a).setLink half.val .down)
  else .next ((s.raise 0x3023 (s.quadOwner (half.val / 4)) 0 half.val 0).setLink half.val .down)

/-- CXL_LINK_DOWN: a failure of a link half at a far address, which the part finds (R415); a link that goes down loses its keys
(R505). -/
def execCxlLinkDown (half : Fin 16) (cause : FarFailure) (s : State) : Result :=
  if (s.link half.val).up = false then .next s
  else
    let s := s.farLinkFailed half.val cause.addr
    .next (if cause.cause = .linkDown then s.setLink half.val .down else s)

end Sys2Proof.Machine
end

