-- ==== Sys2Proof/Machine/Power.lean ====
section
/-!
DEFINITION. Machine/Power.lean: load forecast, power and thermal limits, bins, voltages and droop (23_power.md).
-/
namespace Sys2Proof.Machine

/-- Change the power of quadrant `q`. -/
def State.updQuad (s : State) (q : Nat) (f : QuadPower → QuadPower) : State :=
  { s with pwr := { s.pwr with quads := s.pwr.quads.set q (f (s.quad q)) } }

/-- An event of a quadrant's rail or die (R560). -/
def State.quadEvent (s : State) (code q a b : Nat) : State := s.raise code (s.quadOwner q) 0 q 0 a b

/-! ### Current model (R532) -/

/-- The load of one core: arrays issuing, effective target of its fill level, its vector engine runs. -/
structure CoreLoad where
  arrays : Nat
  fill : Nat
  vec : Bool
  deriving DecidableEq, Repr

/-- Modelled current of one core in A at the top bin, without the base: arrays that issue, the dummy pattern on the cells of
the others, the vector engine. -/
def CoreLoad.amps (c : CoreLoad) : Nat := 24 * c.arrays + 6 * c.fill * (4 - c.arrays) + (if c.vec then 8 else 0)

/-- Set bits of an array mask. -/
def maskCount (m : Nat) : Nat := ((List.range 4).filter fun a => bitAt m a).length

/-- The load of core `n` as it stands: the arrays of the passes that still issue, its fill target, its vector engine. -/
def State.coreLoad (s : State) (n : Nat) : CoreLoad :=
  match s.quadOwner (n / 4) with
  | none => ⟨0, 0, false⟩
  | some l =>
    let issuing := ((s.lvl l).eng n).running.filter fun r => decide (s.arith n < r.issued)
    { arrays := maskCount (issuing.foldl (fun m r => m ||| r.arrays) 0), fill := (s.core n).fillTarget,
      vec := !((s.lvl l).eng (0x10 + n)).running.isEmpty }

/-- The loads of the sixteen cores. -/
abbrev Loads := List CoreLoad

/-- The loads as they stand. -/
def State.loads (s : State) : Loads := (List.range 16).map s.coreLoad

/-- Modelled current of quadrant `q` in units of 1/36 A (R532). -/
def State.quadAmps36 (s : State) (q : Nat) (ls : Loads) : Nat :=
  30 * 36 + (s.quad q).bin * ((ls.drop (4 * q)).take 4).foldl (fun n c => n + c.amps) 0

/-! ### Load forecast (R533, R534)

What the Winder forecasts follows from the schedule images: the loads as they stand are carried forward, count by count, through
everything that the images schedule up to 64 counts ahead (notes/assumptions/116.md). -/

/-- A frame: QUAD and KIND, TARGET in units of 4 A rounded up, LEAD 15. -/
def forecastFrame (q kind amps36 : Nat) : BitVec 16 :=
  BitVec.ofNat 16 ((4 * q + kind) * 4096 + ceilDiv amps36 144 % 256 * 16 + 15)

/-- The hub clock at which LF is free. -/
def PowerState.lfFreeAt (p : PowerState) : Nat := (p.lf.getLast?.map fun f => f.1 + 80).getD 0

/-- Send a frame as soon as LF is free; it takes 40 ns (R533, R534, R553). -/
def State.sendFrame (s : State) (f : BitVec 16) : State :=
  { s with pwr := { s.pwr with
      lf := (s.pwr.lf.filter fun x => decide (s.now < x.1 + 80)) ++ [(max s.now s.pwr.lfFreeAt, f)], frames := s.pwr.frames + 1 } }

/-- Counts from the job's beginning to the point that frames sent now are sent for, 64 counts ahead, and the ordinal of the
job's first cycle: of a running job, or of one that begins with the next cycle. -/
def State.forecastPoint (s : State) (j : Job) : Option (Nat × Nat) :=
  if j.phase = .running then some (s.countNow j + 64, j.beginOrdinal)
  else if j.phase = .started ∧ j.startCycle = s.cad.number + 1 ∧ 65536 ≤ s.angle + 64 then
    some (s.angle + 64 - 65536, s.cad.ordinal + 1)
  else none

/-- What the image schedules at count `due` of a step comes at count `at_` of the job. -/
def Image.comesAt (img : Image) (due at_ : Nat) : Bool :=
  decide (0 < img.loop) && decide (due ≤ at_) && decide ((at_ - due) % (img.loop * 65536) = 0)

/-- What tells one happening from another: Level, cycle ordinal, entry or slice, engine. -/
def frameKey (l : Fin 4) (cycle idx eng : Nat) : Nat := ((l.val * 2 ^ 64 + cycle) * 2 ^ 24 + idx) * 256 + eng

/-- A scheduled change of a core's load: a FILL_SET, a pass on some arrays, a vector command, a slice end that debt makes earlier
(R75, R533). -/
inductive LoadChange where
  | fill (target : Nat)
  | arrays (n : Nat)
  | vector
  | stop (eng : Nat)
  deriving DecidableEq, Repr

/-- The load that a change leaves. -/
def LoadChange.on (x : LoadChange) (c : CoreLoad) : CoreLoad :=
  match x with
  | .fill n => { c with fill := n }
  | .arrays n => { c with arrays := n }
  | .vector => { c with vec := true }
  | .stop eng => if eng < 0x10 then { c with arrays := 0 } else { c with vec := false }

/-- A change as an image schedules it: its key, the core, the change. -/
structure Happening where
  key : Nat
  core : Nat
  change : LoadChange
  deriving DecidableEq, Repr

/-- The change that an entry schedules: passes, vector commands and FILL_SET alone have one (R533). -/
def Image.entryChange (img : Image) (en : Entry) : Option LoadChange :=
  if en.engine < 0x10 then
    if en.opcode = 0x01 then some (.fill (min 4 (bitField en.desc 0 3)))
    else some (.arrays (maskCount (PassDesc.ofNat (img.descNat en 64)).arrays))
  else if en.engine < 0x20 then some .vector
  else none

/-- The entries of an image that come at a count of its job. -/
def Image.entriesAt (img : Image) (l : Fin 4) (at_ first : Nat) : List Happening :=
  img.entries.zipIdx.filterMap fun (en, e) =>
    if img.comesAt en.due at_ then
      (img.entryChange en).map fun x => ⟨frameKey l (first + at_ / 65536) e en.engine, en.engine % 16, x⟩
    else none

/-- The slice ends, made earlier by debt, that come at a count of the job (R75, R542). -/
def LevelState.endsAt (ls : LevelState) (img : Image) (l : Fin 4) (at_ first : Nat) : List Happening :=
  img.slices.zipIdx.flatMap fun (sl, i) => (List.range 0x20).filterMap fun eng =>
    let ded := img.deduction eng i 0 ((ls.eng eng).owes sl.context)
    if sl.mask.getLsbD eng && decide (ded ≠ 0) && img.comesAt (sl.stop - ded) at_ then
      some ⟨frameKey l (first + at_ / 65536) (img.entries.length + i) eng, eng % 16, .stop eng⟩
    else none

/-- What the images of all Levels schedule `back` counts before the point that frames sent now are sent for. -/
def State.scheduledAt (s : State) (back : Nat) : List Happening :=
  (List.finRange 4).flatMap fun l =>
    match (s.lvl l).image, (s.lvl l).job with
    | some img, some j => match s.forecastPoint j with
      | some (point, first) =>
        if point < back then []
        else (s.lvl l).endsAt img l (point - back) first ++ img.entriesAt l (point - back) first
      | none => []
    | _, _ => []

/-- The loads after some happenings of one count. -/
def Loads.after (ls : Loads) (hs : List Happening) : Loads :=
  hs.foldl (fun ls h => ls.modify h.core h.change.on) ls

/-- KIND of the frame of happenings of one count (R533). -/
def frameKind (hs : List Happening) : Nat :=
  if hs.all fun h => match h.change with
    | .stop _ => true
    | _ => false then 2
  else if hs.all fun h => match h.change with
    | .fill _ => true
    | _ => false then 1
  else 0

/-- The frame of quadrant `q` for happenings of one count, where its modelled current changes by 8 A or more (R533). -/
def State.forecast (s : State) (q : Nat) (hs : List Happening) (before after : Loads) : State :=
  let x := s.quadAmps36 q before
  let y := s.quadAmps36 q after
  if 8 * 36 ≤ (max x y) - (min x y) then s.sendFrame (forecastFrame q (frameKind hs) y) else s

/-- The frames of one count, those sent already apart: one for each quadrant, in ascending QUAD (R534). -/
def State.framesOf (s : State) (hs : List Happening) (before after : Loads) : State :=
  let due := hs.filter fun h => !s.pwr.framed.contains h.key
  let s := (List.range 4).foldl (fun (s : State) q =>
    let mine := hs.filter fun h => decide (h.core / 4 = q)
    if due.any fun h => decide (h.core / 4 = q) then s.forecast q mine before after else s) s
  { s with pwr := { s.pwr with framed := s.pwr.framed ++ due.map Happening.key } }

/-- Every frame due now, in the order of the counts that they are sent for: what is scheduled up to 64 counts ahead, and has had no
frame. -/
def State.sendForecast (s : State) : State :=
  ((List.range 65).foldl (fun (p : State × Loads) k =>
    let hs := s.scheduledAt (64 - k)
    let after := p.2.after hs
    (p.1.framesOf hs p.2 after, after)) (s, s.loads)).1

/-- An entry of the image, or past the entries a slice whose end debt makes earlier, whose frame is due now and is still to be
sent. -/
def State.frameDue (s : State) (l : Fin 4) (e : Nat) : Bool :=
  (List.range 65).any fun back => (s.scheduledAt back).any fun h =>
    decide (h.key / 256 % 2 ^ 24 = e) && decide (h.key / 2 ^ 96 = l.val) && !s.pwr.framed.contains h.key

/-- LOAD_FORECAST_FRAME: the frame of entry `e` has fallen due, and with it every other that has; none while RESET_L is low
(R558). -/
def execLoadForecastFrame (l : Fin 4) (e : Nat) (s : State) : Result :=
  .next (if s.boot.resetHigh && s.frameDue l e then s.sendForecast else s)

/-! ### Readings and limits (R529, R538 to R540) -/

/-- The current in mA of a rail that the limits use: the reading, or the model's for a rail whose readings are lost (R531). -/
def State.railAmps (s : State) (amps : List Nat) (rail : Nat) : Nat :=
  if s.pwr.railLost.getLsbD rail then
    Config.modelledRail rail ((List.range 4).foldl (fun n q => n + s.quadAmps36 q s.loads) 0)
  else amps.getD rail 0

/-- The voltages in mV of AVSBus rails 4 to 9 (R527). -/
def fixedRails : List Nat := [750, 750, 1200, 900, 1200, 1800]

/-- Hub clocks of a second. -/
def secondClocks : Nat := 2000000000

/-- CURRENT_SAMPLE: the readings of the ten AVSBus rails, and the part's power by them; what is no longer read of a rail stays
(R529, R531, R539). -/
def execCurrentSample (r : RailReadings) (s : State) : Result :=
  let keep {α : Type} (d : α) (old new : List α) : List α :=
    (List.range 10).map fun i => if s.pwr.railLost.getLsbD i then old.getD i d else new.getD i d
  let amps := (List.range 10).map (s.railAmps r.amps)
  let watts := ((List.zip amps (r.volts ++ fixedRails)).map fun p => p.1 * p.2).sum
  .next { s with
    pwr := { s.pwr with
      amps := amps, temps := keep 0 s.pwr.temps r.temps, status := keep 0 s.pwr.status r.status, volts := r.volts,
      power := (s.pwr.power.filter fun x => decide (s.now < x.1 + secondClocks)) ++ [(s.now, watts)],
      firstSample := some (s.pwr.firstSample.getD s.now) } }

/-- Mean part power in microwatts over the samples of the last `clocks` hub clocks; 0 where there is none. -/
def State.meanPower (s : State) (clocks : Nat) : Nat :=
  let xs := (s.pwr.power.filter fun x => decide (s.now < x.1 + clocks)).map Prod.snd
  xs.sum / xs.length

/-- The mean over the last second is below 1,500 W, and there has been a second to take it over (R539). -/
def State.powerLow (s : State) : Bool :=
  (s.pwr.firstSample.any fun t => decide (t + secondClocks ≤ s.now)) && decide (s.meanPower secondClocks < 1500000000)

/-- Set the duty of a quadrant; EV_THROTTLE at a change (R538). -/
def State.setDuty (s : State) (q duty : Nat) : State :=
  if (s.quad q).duty = duty then s
  else (s.updQuad q fun p => { p with duty := duty }).quadEvent 0x8004 q duty 0

/-- THERMTRIP_L goes low (R540): dispatch stops, jobs end without events, Pit Logs and unsent notices are lost. -/
def State.thermtrip (s : State) : State :=
  let s := s.updBoot fun b => { b with thermtripHigh := false }
  let s := (List.finRange 4).foldl (fun (s : State) l => s.updLvl l fun ls =>
    { ls with job := none, log := .fresh, engines := [], batches := [], requests := [], handed := [], deferred := [], invalid := [] }) s
  (List.range 5).foldl (fun (s : State) n => s.updFn n fun f => { f with waiting := [] }) s

/-- The next lower and the next higher bin (R3). -/
def binDown (b : Nat) : Nat := max 30 (b - 3)

/-- The next higher bin a quadrant may take. -/
def QuadPower.binUp (p : QuadPower) : Nat := min (min Config.topBin (p.bin + 3)) (max 30 (p.limitBin.getD 36))

/-- The next higher duty. -/
def dutyUp (d : Nat) : Nat := if d < 6 then 6 else min 8 (d + 1)

/-- The quadrant that power sheds from: the highest current of those above the lowest bin, the lowest-numbered of equals. -/
def State.shedQuad (s : State) : Option Nat :=
  ((List.range 4).filter fun q => decide (30 < (s.quad q).bin)).foldl (fun b q => match b with
    | none => some q
    | some x => if s.pwr.amps.getD x 0 < s.pwr.amps.getD q 0 then some q else some x) none

/-- Decide a bin for a quadrant: a change pending in the same direction goes on; one up gives way to a decision that is not up (R537,
R539). -/
def State.decideBin (s : State) (q b : Nat) : State :=
  s.updQuad q fun p =>
    let goal := if b = p.bin then none else some b
    match p.pendingBin with
    | none => { p with pendingBin := goal }
    | some x => if p.bin < x ∧ b ≤ p.bin then { p with pendingBin := goal } else p

/-- The rows of R539 below the first, for one quadrant; `shed` is the quadrant that power sheds from. -/
def State.limitQuad (s : State) (r : LimitReadings) (shed : Option Nat) (q : Nat) : State :=
  let p := s.quad q
  let temp := max (r.temps.getD q 0) r.hubTemp
  if 2100000000 < s.meanPower (secondClocks / 1000) then
    ((s.decideBin q p.bin).updQuad q fun p => { p with dutyHold := s.now + 2000000 }).setDuty q 4
  else if 110 ≤ temp then (s.decideBin q p.bin).setDuty q 4
  else if 100 ≤ temp then s.decideBin q (binDown p.bin)
  else if 1600000000 < s.meanPower (secondClocks / 10) then s.decideBin q (if shed = some q then binDown p.bin else p.bin)
  else if temp < 90 ∧ s.powerLow = true then
    if p.duty < 8 then (if p.dutyHold ≤ s.now ∧ p.limitBin ≠ some 0 then s.setDuty q (dutyUp p.duty) else s)
    else s.decideBin q (max p.bin p.binUp)
  else s

/-- LIMIT_EVALUATION: once a millisecond, the first row of R539 that holds decides for each quadrant. -/
def execLimitEvaluation (r : LimitReadings) (s : State) : Result :=
  if (r.temps.take 4).any (fun t => decide (125 ≤ t)) || decide (125 ≤ r.hubTemp) then .next s.thermtrip
  else
    let shed := s.shedQuad
    .next ((List.range 4).foldl (fun (s : State) q => s.limitQuad r shed q) s)

/-! ### Bins and voltages (R530, R531, R537) -/

/-- BIN_CHANGE: one step towards the bin decided; the voltage follows to V(b) unless the rail has failed, and the arithmetic clock
pauses for 0.5 µs. -/
def execBinChange (q : Fin 4) (s : State) : Result :=
  let p := s.quad q.val
  match p.pendingBin with
  | some b =>
    let next := if b < p.bin then max b (p.bin - 3) else min b (p.bin + 3)
    let s := s.updQuad q.val fun p =>
      { p with
        bin := next, pendingBin := if next = b then none else some b, pausedUntil := s.now + 1000,
        millivolts := if p.limitBin.isSome then p.millivolts else Config.binVolts q.val next }
    .next (s.quadEvent 0x8003 q.val p.bin next)
  | none => .next s

/-- ADAPTIVE_VOLTAGE_ADJUST: 5 mV up or down, at most once a millisecond, within V(b) - 50 mV to V(b) + 30 mV and 0.60 to
0.85 V (R530). -/
def execAdaptiveVoltageAdjust (q : Fin 4) (up : Bool) (s : State) : Result :=
  let p := s.quad q.val
  let v := Config.binVolts q.val p.bin
  let goal := if up then p.millivolts + 5 else p.millivolts - 5
  let rested := match p.adjustedAt with
    | some t => decide (t + 2000000 ≤ s.now)
    | none => true
  if rested && p.limitBin.isNone && decide (v - 50 ≤ goal) && decide (goal ≤ v + 30) && decide (600 ≤ goal) && decide (goal ≤ 850) then
    .next (s.updQuad q.val fun p => { p with millivolts := goal, adjustedAt := some s.now })
  else .next s

/-- The highest bin of the part whose V(b) a voltage reaches (R531); 0 where none does. -/
def reachedBin (q mv : Nat) : Nat :=
  (([36, 33, 30].filter fun b => decide (b ≤ Config.topBin)).find? fun b => decide (Config.binVolts q b ≤ mv)).getD 0

/-- AVSBUS_FAILURE: a transaction has failed beyond its retries (R531, R542). -/
def execAvsbusFailure (rail : Fin 10) (status : BitVec 16) (s : State) : Result :=
  if rail.val < 4 then
    let q := rail.val
    let p := s.quad q
    let b := reachedBin q p.millivolts
    let limit := max 30 b
    let s := s.quadEvent 0x8001 q status.toNat 0
    let s := s.updQuad q fun p => { p with limitBin := some b, pendingBin := if limit < p.bin then some limit else none }
    .next (if b = 0 then s.setDuty q 4 else s)
  else
    let s := s.raise 0x8001 none 0 rail.val 0 status.toNat
    .next { s with pwr := { s.pwr with railLost := s.pwr.railLost ||| BitVec.ofNat 16 (2 ^ rail.val) } }

/-! ### Droop (R536) -/

/-- DROOP_DETECT: the arithmetic clock skips cycles; EV_DROOP once per quadrant per cycle. -/
def execDroopDetect (q : Fin 4) (s : State) : Result :=
  let fresh := decide ((s.quad q.val).droopCycle ≠ s.cad.ordinal + 1)
  let s := s.updQuad q.val fun p => { p with drooping := true, droopCycle := s.cad.ordinal + 1 }
  .next (if fresh then s.quadEvent 0x8002 q.val 0 0 else s)

/-- DROOP_RECOVERY: the rail has recovered. -/
def execDroopRecovery (q : Fin 4) (s : State) : Result := .next (s.updQuad q.val fun p => { p with drooping := false })

/-! ### Output pins (R546, R548, R553, R555, R558) -/

/-- The level of an output: driven low or high, or left to the board, as an open drain that is released is. -/
inductive PinLevel where
  | low
  | high
  | floating
  deriving DecidableEq, Repr

/-- An open-drain output: low, or released; with VAUX absent it is high-impedance. -/
def Boot.openDrain (b : Boot) (low : Bool) : PinLevel := if b.vaux && low then .low else .floating

/-- PE_CLKREQ_L. -/
def Boot.peClkreqL (b : Boot) : PinLevel := b.openDrain true

/-- THERMTRIP_L. -/
def Boot.thermtripL (b : Boot) : PinLevel := b.openDrain (!b.thermtripHigh)

/-- CXp_PERST_L: low from part reset until port `p` is trained. -/
def Boot.cxPerstL (b : Boot) (p : Fin 8) : PinLevel := b.openDrain (!b.cxTrained.getLsbD p.val)

/-- The frame on LF, and the hub clocks since it began. -/
def State.lfFrame (s : State) : Option (Nat × BitVec 16) :=
  (s.pwr.lf.find? fun f => decide (f.1 ≤ s.now) && decide (s.now < f.1 + 80)).map fun f => (s.now - f.1, f.2)

/-- The nibble of a frame on LF[3:0], each for 10 ns, and LF_STB, which rises 5 ns into a nibble and falls 3 ns later; 0 between
frames (R553). -/
def State.lfDrives (s : State) : BitVec 4 × Bool :=
  match s.lfFrame with
  | some (t, w) => ((w >>> (12 - 4 * (t / 20))).setWidth 4, decide (10 ≤ t % 20) && decide (t % 20 < 16))
  | none => (0, false)

/-- LF[3:0] and LF_STB; none where VAUX is absent and they are high-impedance. -/
def State.lfPins (s : State) : Option (BitVec 4 × Bool) := if s.boot.vaux then some s.lfDrives else none

end Sys2Proof.Machine
end

