-- ==== Sys2Proof/Machine/Dispatch.lean ====
section
/-!
DEFINITION. Machine/Dispatch.lean: one arm for every command of the table.
-/
namespace Sys2Proof.Machine

def exec (i : Instr) (s : State) : Host.Outcome State Fault Refusal :=
  match i with
  | .powerUp => Sys2Proof.Machine.execPowerUp s
  | .railOutOfTolerance rail => Sys2Proof.Machine.execRailOutOfTolerance rail s
  | .resetLLow => Sys2Proof.Machine.execResetLLow s
  | .resetLRise faults => Sys2Proof.Machine.execResetLRise faults s
  | .pePerstLRise => Sys2Proof.Machine.execPePerstLRise s
  | .pcieLinkDown => Sys2Proof.Machine.execPcieLinkDown s
  | .functionLevelResetPf => Sys2Proof.Machine.execFunctionLevelResetPf s
  | .functionLevelResetVf lvl => Sys2Proof.Machine.execFunctionLevelResetVf lvl s
  | .firmwareWindowWrite fn off size data => Sys2Proof.Machine.execFirmwareWindowWrite fn off size data s
  | .commit fn value => Sys2Proof.Machine.execCommit fn value s
  | .bringupComplete found => Sys2Proof.Machine.execBringupComplete found s
  | .ideKeyRefresh half => Sys2Proof.Machine.execIdeKeyRefresh half s
  | .debugUnlockToken token => Sys2Proof.Machine.execDebugUnlockToken token s
  | .referenceEdge => Sys2Proof.Machine.execReferenceEdge s
  | .cycleWord sync number flags check => Sys2Proof.Machine.execCycleWord sync number flags check s
  | .flywheelEdge => Sys2Proof.Machine.execFlywheelEdge s
  | .holdoverBoundary => Sys2Proof.Machine.execHoldoverBoundary s
  | .evHoldoverExpired lvl => Sys2Proof.Machine.execEvHoldoverExpired lvl s
  | .jobBegin lvl env => Sys2Proof.Machine.execJobBegin lvl env s
  | .jobStop lvl => Sys2Proof.Machine.execJobStop lvl s
  | .jobStopped lvl => Sys2Proof.Machine.execJobStopped lvl s
  | .stallLimit lvl eng ctx => Sys2Proof.Machine.execStallLimit lvl eng ctx s
  | .sliceEnd lvl eng progress => Sys2Proof.Machine.execSliceEnd lvl eng progress s
  | .contextSwitch lvl eng slice => Sys2Proof.Machine.execContextSwitch lvl eng slice s
  | .switchComplete lvl eng => Sys2Proof.Machine.execSwitchComplete lvl eng s
  | .slotWindowEnd lvl eng progress => Sys2Proof.Machine.execSlotWindowEnd lvl eng progress s
  | .commandComplete lvl eng => Sys2Proof.Machine.execCommandComplete lvl eng s
  | .ledgerRecordClose lvl tensor => Sys2Proof.Machine.execLedgerRecordClose lvl tensor s
  | .fillLevelStep core => Sys2Proof.Machine.execFillLevelStep core s
  | .nop lvl e => Sys2Proof.Machine.execNop lvl e s
  | .tallyInit lvl e => Sys2Proof.Machine.execTallyInit lvl e s
  | .tallySignal lvl e => Sys2Proof.Machine.execTallySignal lvl e s
  | .timerStart lvl e => Sys2Proof.Machine.execTimerStart lvl e s
  | .timerStop lvl e => Sys2Proof.Machine.execTimerStop lvl e s
  | .timerClear lvl e => Sys2Proof.Machine.execTimerClear lvl e s
  | .timerBind lvl e => Sys2Proof.Machine.execTimerBind lvl e s
  | .fillSet lvl e => Sys2Proof.Machine.execFillSet lvl e s
  | .passFull lvl e => Sys2Proof.Machine.execPassFull lvl e s
  | .passFullT lvl e => Sys2Proof.Machine.execPassFullT lvl e s
  | .passPacked lvl e => Sys2Proof.Machine.execPassPacked lvl e s
  | .passPackedT lvl e => Sys2Proof.Machine.execPassPackedT lvl e s
  | .passWide lvl e => Sys2Proof.Machine.execPassWide lvl e s
  | .program lvl e => Sys2Proof.Machine.execProgram lvl e s
  | .cvtBf16F32 lvl e => Sys2Proof.Machine.execCvtBf16F32 lvl e s
  | .cvtF32Bf16 lvl e => Sys2Proof.Machine.execCvtF32Bf16 lvl e s
  | .cvtA96F32 lvl e => Sys2Proof.Machine.execCvtA96F32 lvl e s
  | .cvtA96Bf16 lvl e => Sys2Proof.Machine.execCvtA96Bf16 lvl e s
  | .cvtMxF32 lvl e => Sys2Proof.Machine.execCvtMxF32 lvl e s
  | .cvtMxBf16 lvl e => Sys2Proof.Machine.execCvtMxBf16 lvl e s
  | .cvtF32Mx lvl e => Sys2Proof.Machine.execCvtF32Mx lvl e s
  | .cvtBf16Mx lvl e => Sys2Proof.Machine.execCvtBf16Mx lvl e s
  | .cvtF32Split lvl e => Sys2Proof.Machine.execCvtF32Split lvl e s
  | .accCombine lvl e => Sys2Proof.Machine.execAccCombine lvl e s
  | .vadd core f => Sys2Proof.Machine.execVadd core f s
  | .vsub core f => Sys2Proof.Machine.execVsub core f s
  | .vmul core f => Sys2Proof.Machine.execVmul core f s
  | .vfma core f => Sys2Proof.Machine.execVfma core f s
  | .vmin core f => Sys2Proof.Machine.execVmin core f s
  | .vmax core f => Sys2Proof.Machine.execVmax core f s
  | .vabs core f => Sys2Proof.Machine.execVabs core f s
  | .vneg core f => Sys2Proof.Machine.execVneg core f s
  | .vdiv core f => Sys2Proof.Machine.execVdiv core f s
  | .vsqrt core f => Sys2Proof.Machine.execVsqrt core f s
  | .vrsqrt core f => Sys2Proof.Machine.execVrsqrt core f s
  | .vrcp core f => Sys2Proof.Machine.execVrcp core f s
  | .vexp2 core f => Sys2Proof.Machine.execVexp2 core f s
  | .vlog2 core f => Sys2Proof.Machine.execVlog2 core f s
  | .vcmpEq core f => Sys2Proof.Machine.execVcmpEq core f s
  | .vcmpLt core f => Sys2Proof.Machine.execVcmpLt core f s
  | .vcmpLe core f => Sys2Proof.Machine.execVcmpLe core f s
  | .vcmpUn core f => Sys2Proof.Machine.execVcmpUn core f s
  | .vsel core f => Sys2Proof.Machine.execVsel core f s
  | .vmovi core f => Sys2Proof.Machine.execVmovi core f s
  | .viadd core f => Sys2Proof.Machine.execViadd core f s
  | .visub core f => Sys2Proof.Machine.execVisub core f s
  | .vimul core f => Sys2Proof.Machine.execVimul core f s
  | .vand core f => Sys2Proof.Machine.execVand core f s
  | .vor core f => Sys2Proof.Machine.execVor core f s
  | .vxor core f => Sys2Proof.Machine.execVxor core f s
  | .vshl core f => Sys2Proof.Machine.execVshl core f s
  | .vshr core f => Sys2Proof.Machine.execVshr core f s
  | .vcvtW core f => Sys2Proof.Machine.execVcvtW core f s
  | .vcvtN core f => Sys2Proof.Machine.execVcvtN core f s
  | .vtag core f => Sys2Proof.Machine.execVtag core f s
  | .vperm core f => Sys2Proof.Machine.execVperm core f s
  | .vbcast core f => Sys2Proof.Machine.execVbcast core f s
  | .vredAdd core f => Sys2Proof.Machine.execVredAdd core f s
  | .vredAddx core f => Sys2Proof.Machine.execVredAddx core f s
  | .vredMax core f => Sys2Proof.Machine.execVredMax core f s
  | .vredMin core f => Sys2Proof.Machine.execVredMin core f s
  | .vld core f => Sys2Proof.Machine.execVld core f s
  | .vst core f => Sys2Proof.Machine.execVst core f s
  | .vlds core f => Sys2Proof.Machine.execVlds core f s
  | .vsts core f => Sys2Proof.Machine.execVsts core f s
  | .vgather core f => Sys2Proof.Machine.execVgather core f s
  | .vscatter core f => Sys2Proof.Machine.execVscatter core f s
  | .pset core f => Sys2Proof.Machine.execPset core f s
  | .padd core f => Sys2Proof.Machine.execPadd core f s
  | .loop core f => Sys2Proof.Machine.execLoop core f s
  | .endloop core f => Sys2Proof.Machine.execEndloop core f s
  | .fence core f => Sys2Proof.Machine.execFence core f s
  | .endProgram core f => Sys2Proof.Machine.execEndProgram core f s
  | .spanOpen lvl e => Sys2Proof.Machine.execSpanOpen lvl e s
  | .stage lvl e => Sys2Proof.Machine.execStage lvl e s
  | .sweep1 lvl e => Sys2Proof.Machine.execSweep1 lvl e s
  | .finalise lvl e => Sys2Proof.Machine.execFinalise lvl e s
  | .sweep2 lvl e => Sys2Proof.Machine.execSweep2 lvl e s
  | .clip lvl e env => Sys2Proof.Machine.execClip lvl e env s
  | .imageBatch lvl e env => Sys2Proof.Machine.execImageBatch lvl e env s
  | .audioBatch lvl e env => Sys2Proof.Machine.execAudioBatch lvl e env s
  | .crusherOutputDelivery lvl eng => Sys2Proof.Machine.execCrusherOutputDelivery lvl eng s
  | .stemConv lvl e => Sys2Proof.Machine.execStemConv lvl e s
  | .stemItemDelivery lvl eng => Sys2Proof.Machine.execStemItemDelivery lvl eng s
  | .sample lvl e => Sys2Proof.Machine.execSample lvl e s
  | .route lvl e => Sys2Proof.Machine.execRoute lvl e s
  | .detect lvl e => Sys2Proof.Machine.execDetect lvl e s
  | .move lvl e => Sys2Proof.Machine.execMove lvl e s
  | .zrcPack lvl e => Sys2Proof.Machine.execZrcPack lvl e s
  | .zrcUnpack lvl e => Sys2Proof.Machine.execZrcUnpack lvl e s
  | .fill lvl e => Sys2Proof.Machine.execFill lvl e s
  | .tapGather lvl e => Sys2Proof.Machine.execTapGather lvl e s
  | .contribute lvl e => Sys2Proof.Machine.execContribute lvl e s
  | .reduce lvl e env => Sys2Proof.Machine.execReduce lvl e env s
  | .gather lvl e env => Sys2Proof.Machine.execGather lvl e env s
  | .rosterSync lvl e env => Sys2Proof.Machine.execRosterSync lvl e env s
  | .journalRead lvl e env changed => Sys2Proof.Machine.execJournalRead lvl e env changed s
  | .farRead lvl e env => Sys2Proof.Machine.execFarRead lvl e env s
  | .farWrite lvl e => Sys2Proof.Machine.execFarWrite lvl e s
  | .snapWrite lvl e env => Sys2Proof.Machine.execSnapWrite lvl e env s
  | .exchangeClose lvl => Sys2Proof.Machine.execExchangeClose lvl s
  | .stampReread lvl env => Sys2Proof.Machine.execStampReread lvl env s
  | .admission lvl batch env => Sys2Proof.Machine.execAdmission lvl batch env s
  | .batchBoundary lvl batch => Sys2Proof.Machine.execBatchBoundary lvl batch s
  | .slotOwnerWrite fn off size data => Sys2Proof.Machine.execSlotOwnerWrite fn off size data s
  | .slotScan fn => Sys2Proof.Machine.execSlotScan fn s
  | .noticePost fn => Sys2Proof.Machine.execNoticePost fn s
  | .msixVectorUnmask fn vec => Sys2Proof.Machine.execMsixVectorUnmask fn vec s
  | .wcycleLoRead fn => Sys2Proof.Machine.execWcycleLoRead fn s
  | .lstepLoRead fn lvl => Sys2Proof.Machine.execLstepLoRead fn lvl s
  | .timerLoRead fn lvl n => Sys2Proof.Machine.execTimerLoRead fn lvl n s
  | .registerWrite fn off size data => Sys2Proof.Machine.execRegisterWrite fn off size data s
  | .hello fn slot => Sys2Proof.Machine.execHello fn slot s
  | .levelSet fn slot => Sys2Proof.Machine.execLevelSet fn slot s
  | .jobOpen fn slot decl env => Sys2Proof.Machine.execJobOpen fn slot decl env s
  | .jobStart fn slot => Sys2Proof.Machine.execJobStart fn slot s
  | .jobClose fn slot => Sys2Proof.Machine.execJobClose fn slot s
  | .schedLoad fn slot image => Sys2Proof.Machine.execSchedLoad fn slot image s
  | .reqSubmit fn slot => Sys2Proof.Machine.execReqSubmit fn slot s
  | .reqCancel fn slot => Sys2Proof.Machine.execReqCancel fn slot s
  | .reqStreamRead fn slot => Sys2Proof.Machine.execReqStreamRead fn slot s
  | .reqStreamSetNotify fn slot => Sys2Proof.Machine.execReqStreamSetNotify fn slot s
  | .reqPages fn slot => Sys2Proof.Machine.execReqPages fn slot s
  | .snapTake fn slot => Sys2Proof.Machine.execSnapTake fn slot s
  | .snapRestore fn slot env => Sys2Proof.Machine.execSnapRestore fn slot env s
  | .snapFill fn slot env faults => Sys2Proof.Machine.execSnapFill fn slot env faults s
  | .rosterJoin fn slot => Sys2Proof.Machine.execRosterJoin fn slot s
  | .rosterLeave fn slot => Sys2Proof.Machine.execRosterLeave fn slot s
  | .ledgerRead fn slot => Sys2Proof.Machine.execLedgerRead fn slot s
  | .assayReadNew fn slot => Sys2Proof.Machine.execAssayReadNew fn slot s
  | .assayReadBySeq fn slot => Sys2Proof.Machine.execAssayReadBySeq fn slot s
  | .assayReadLog fn slot => Sys2Proof.Machine.execAssayReadLog fn slot s
  | .assayReadCert fn slot => Sys2Proof.Machine.execAssayReadCert fn slot s
  | .attestQuote fn slot => Sys2Proof.Machine.execAttestQuote fn slot s
  | .logExport fn slot => Sys2Proof.Machine.execLogExport fn slot s
  | .tallyLogEntry lvl => Sys2Proof.Machine.execTallyLogEntry lvl s
  | .replayStart fn slot log => Sys2Proof.Machine.execReplayStart fn slot log s
  | .uncorrectableErrorDetected lvl eng site => Sys2Proof.Machine.execUncorrectableErrorDetected lvl eng site s
  | .dieLinkFailure link => Sys2Proof.Machine.execDieLinkFailure link s
  | .patrolScrub dev addr res => Sys2Proof.Machine.execPatrolScrub dev addr res s
  | .deviceAdded half info => Sys2Proof.Machine.execDeviceAdded half info s
  | .deviceRemoved half => Sys2Proof.Machine.execDeviceRemoved half s
  | .loadForecastFrame lvl e => Sys2Proof.Machine.execLoadForecastFrame lvl e s
  | .currentSample r => Sys2Proof.Machine.execCurrentSample r s
  | .limitEvaluation r => Sys2Proof.Machine.execLimitEvaluation r s
  | .binChange quad => Sys2Proof.Machine.execBinChange quad s
  | .adaptiveVoltageAdjust quad up => Sys2Proof.Machine.execAdaptiveVoltageAdjust quad up s
  | .avsbusFailure rail status => Sys2Proof.Machine.execAvsbusFailure rail status s
  | .droopDetect quad => Sys2Proof.Machine.execDroopDetect quad s
  | .assayFrame => Sys2Proof.Machine.execAssayFrame s
  | .frameMissing => Sys2Proof.Machine.execFrameMissing s
  | .missingCycleTick => Sys2Proof.Machine.execMissingCycleTick s
  | .railSample volts amps => Sys2Proof.Machine.execRailSample volts amps s
  | .mramCommit => Sys2Proof.Machine.execMramCommit s
  | .recordSigned => Sys2Proof.Machine.execRecordSigned s
  | .vasyLost => Sys2Proof.Machine.execVasyLost s
  | .vasyRestored => Sys2Proof.Machine.execVasyRestored s
  | .undefinedLinkFrame kind => Sys2Proof.Machine.execUndefinedLinkFrame kind s
  | .newRecord chan => Sys2Proof.Machine.execNewRecord chan s
  | .loadRecord chan => Sys2Proof.Machine.execLoadRecord chan s
  | .loadLog => Sys2Proof.Machine.execLoadLog s
  | .loadCert => Sys2Proof.Machine.execLoadCert s
  | .calibration cmd => Sys2Proof.Machine.execCalibration cmd s
  | .asyLoRead reg => Sys2Proof.Machine.execAsyLoRead reg s
  | .i3cRegisterWrite off data => Sys2Proof.Machine.execI3cRegisterWrite off data s
  | .entdaa addr => Sys2Proof.Machine.execEntdaa addr s
  | .setdasa addr => Sys2Proof.Machine.execSetdasa addr s
  | .rstdaa => Sys2Proof.Machine.execRstdaa s
  | .getpid => Sys2Proof.Machine.execGetpid s
  | .getbcr => Sys2Proof.Machine.execGetbcr s
  | .getdcr => Sys2Proof.Machine.execGetdcr s
  | .getstatus => Sys2Proof.Machine.execGetstatus s
  | .replyPosted fn slot env => Sys2Proof.Machine.execReplyPosted fn slot env s
  | .slotWindowStart lvl eng => Sys2Proof.Machine.execSlotWindowStart lvl eng s
  | .cxlLinkDown half cause => Sys2Proof.Machine.execCxlLinkDown half cause s
  | .droopRecovery quad => Sys2Proof.Machine.execDroopRecovery quad s

end Sys2Proof.Machine
end

