-- ==== Sys2Proof/Safety.lean ====
section
/-!
DEFINITION. Safety.lean: what counts as a good state and a good run, and what a command may leave behind, in the terms
statements use.
-/
namespace Sys2Proof.Machine

/-- Every memory of the part is in canonical form: addresses rise strictly and no listed byte is the one an unlisted address
reads as. -/
def State.memOk (s : State) : Bool :=
  Memory.wf s.coreMem && Memory.wf s.hubMem && Memory.wf s.stemMem && Memory.wf s.nearMem && Memory.wf s.farMem &&
    Memory.wf s.hostMem && Memory.wf s.barMem && Memory.wf s.boot.window && Memory.wf s.boot.sram

/-- The memories are in canonical form, the part has its four quadrants, and every message taken stands in one of the sixteen inbound
slots of its function. -/
def State.wellFormed (s : State) : Bool :=
  s.memOk && decide (s.pwr.quads.length = 4) && s.fns.all fun f => f.2.taken.all fun y => decide (y.slot < 16)

/-! ### Noting: events, log entries, stops and containment -/

/-- A job with some pending stop, containment and wrap mark. -/
def Job.marked (j : Job) (p c w : Bool) : Job := { j with stopPending := p, contained := c, wrapRaised := w }

/-- A job differs at most in its pending stop, its containment and its wrap mark. -/
def JobNoted (a b : Option Job) : Prop := ∃ p c w, b = a.map fun j => j.marked p c w

/-- `t` differs from `s` at most in events raised, notices, Pit Logs, and the pending stops and marks of jobs. -/
structure Noted (s t : State) : Prop where
  rest : t = { s with raised := t.raised, levels := t.levels, fns := t.fns }
  lvl : ∀ k, t.lvl k = { s.lvl k with log := (t.lvl k).log, job := (t.lvl k).job }
  job : ∀ k, JobNoted (s.lvl k).job (t.lvl k).job
  fn : ∀ n, t.fn n = { s.fn n with
    noticeSeq := (t.fn n).noticeSeq, waiting := (t.fn n).waiting, noticeLost := (t.fn n).noticeLost,
    lostSince := (t.fn n).lostSince }

/-- Noting that touches no Level but one. -/
structure NotedIn (l : Fin 4) (s t : State) : Prop extends Noted s t where
  others : ∀ k, k ≠ l → t.lvl k = s.lvl k

/-- Contributions to the ledger of Level `l` may have been applied between `s` and `t` (R186 to R189, R201): its records, the
contributions that wait, what of R181 is still to be reported, the bytes of its ledger area and which of its blocks read as failed
(R568) may differ, and what noting changes; nothing else does. -/
structure Recorded (l : Fin 4) (s t : State) : Prop where
  rest : t = { s with raised := t.raised, levels := t.levels, fns := t.fns, nearMem := t.nearMem,
                      mem := { s.mem with failedNear := t.mem.failedNear } }
  others : ∀ k, k ≠ l → t.lvl k = s.lvl k
  level : t.lvl l = { s.lvl l with
    ledger := (t.lvl l).ledger, deferred := (t.lvl l).deferred, invalid := (t.lvl l).invalid,
    invalidRaised := (t.lvl l).invalidRaised, log := (t.lvl l).log, job := (t.lvl l).job }
  job : ∃ p c w g r, (t.lvl l).job = (s.lvl l).job.map fun j => { j.marked p c w with rangeRaised := g, replay := r }
  fn : ∀ n, t.fn n = { s.fn n with
    noticeSeq := (t.fn n).noticeSeq, waiting := (t.fn n).waiting, noticeLost := (t.fn n).noticeLost,
    lostSince := (t.fn n).lostSince }
  near : ∀ a, (∀ base n, (s.lvl l).ledgerArea = some (base, n) → a < base ∨ base + 2048 * n ≤ a) →
    memGet t.nearMem a = memGet s.nearMem a
  failed : ∀ b, (∀ base n, (s.lvl l).ledgerArea = some (base, n) → 64 * b + 64 ≤ base ∨ base + 2048 * n ≤ 64 * b) →
    (b ∈ t.mem.failedNear ↔ b ∈ s.mem.failedNear)

/-! ### Dispatches (R64, R68, R70, R78) -/

/-- The Tally that an entry waits on, after the dispatch: in CONSUME mode COUNT falls by TARGET (R78). -/
def Ready.tallyAfter (r : Ready) (ls : LevelState) (n : Nat) : TallyState :=
  let x := ls.tally n
  if r.en.waitTally ∧ n = r.en.tally ∧ x.level = false then { x with count := x.count - x.target } else x

/-- Entry `e` of Level `l` has been dispatched between `s` and `t`: its engine has dispatched one entry more in its context
and holds `add` behind the commands it held; the Tally it waits on is consumed; slip may have been counted; events, notices,
log entries, stops and containment of this Level may have been noted; nothing else differs. -/
structure Dispatches (s t : State) (l : Fin 4) (r : Ready) (add : List Running) : Prop where
  rest : t = { s with raised := t.raised, levels := t.levels, fns := t.fns }
  others : ∀ k, k ≠ l → t.lvl k = s.lvl k
  level : t.lvl l = { s.lvl l with
    engines := (t.lvl l).engines, tallies := (t.lvl l).tallies, job := (t.lvl l).job, log := (t.lvl l).log,
    slipCount := (t.lvl l).slipCount, slipMax := (t.lvl l).slipMax, slipFirst := (t.lvl l).slipFirst }
  job : JobNoted (s.lvl l).job (t.lvl l).job
  fn : ∀ n, t.fn n = { s.fn n with
    noticeSeq := (t.fn n).noticeSeq, waiting := (t.fn n).waiting, noticeLost := (t.fn n).noticeLost,
    lostSince := (t.fn n).lostSince }
  engines : ∀ g, g ≠ r.en.engine → (t.lvl l).eng g = (s.lvl l).eng g
  engine : ∃ slip, (t.lvl l).eng r.en.engine = { (s.lvl l).eng r.en.engine with
    dispatched := tabPut 0 ((s.lvl l).eng r.en.engine).dispatched r.ctx
      (tabGet 0 ((s.lvl l).eng r.en.engine).dispatched r.ctx + 1),
    running := ((s.lvl l).eng r.en.engine).running ++ add, slipCycle := slip }
  tally : ∀ n, (t.lvl l).tally n = r.tallyAfter (s.lvl l) n

/-- The record of a command that entry `e` has just begun, for a step. -/
def Running.begun (q : Running) (s : State) (e : Nat) (r : Ready) (step : Nat) : Prop :=
  q.entry = e ∧ q.ctx = r.ctx ∧ q.step = step ∧ q.since = s.now ∧ q.overrun = none ∧ q.noStamp = false ∧ q.progress = 0

/-- The command `q` has begun on an engine of Level `l` between `u` and `t`: it stands behind the commands the engine held, and what
its reads met may have been noted in the Level; nothing else differs. -/
def Begins (u t : State) (l : Fin 4) (eng : Nat) (q : Running) : Prop :=
  NotedIn l (u.updEng l eng fun st => { st with running := st.running ++ [q] }) t

/-- A command that met no refused access, no poison and no failed block. -/
def Acc.clean (a : Acc) : Bool :=
  a.refused.isEmpty && a.nearBad.isNone && a.farBad.isNone && a.frozenBad.isNone && a.failedNear.isEmpty &&
    a.failedCore.isEmpty && a.failedHub.isEmpty && a.failedFar.isEmpty

/-- Between `s` and `t` the event `e` has been raised, and no event that stood before has been lost. -/
def Raises (s t : State) (e : Event) : Prop := ∃ pre post, t.raised = post ++ e :: (pre ++ s.raised)

end Sys2Proof.Machine
end

