-- ==== Sys2Proof/Certificates/Slice0/Obligations.lean ====
section
/-!
DEFINITION. Certificates/Slice0/Obligations.lean: the statements for the provers.

Almost every statement says that a command answers a next state, and which one, under hypotheses on the state and the
operands alone. `Dispatches` (Safety.lean) says what the dispatch of a schedule entry changes and that nothing else differs;
`Noted` says the same of what events, notices, log entries and stops change. A record update of `s` by fields of `t` names the
fields that may differ: every other field, and so every byte of memory and every register in it, is as before.
-/
open Sys2Proof Sys2Proof.Machine

/-! ### The queue, the clock, reset, and what holds of every command -/

/-- One step takes the command at the front of the queue and runs it on the state with the rest of the queue. -/
def Obligations.StepRunsFront : Prop :=
  ∀ (c : Instr) (rest : List Instr) (s : State), s.pending = c :: rest → step s = exec c { s with pending := rest }

/-- On an empty queue one hub clock passes (the model's choice, notes/assumptions/1.md): every timer that is held or runs
advances by one unless it is all ones (R81), the arithmetic clock of a quadrant advances by its bin and duty unless it is paused
(R88, R536 to R538), the Assay's clock on VASY advances, and nothing else changes. -/
def Obligations.IdleStepTicks : Prop :=
  ∀ s : State, s.pending = [] →
    ∃ t, step s = .next t ∧ t = { s with now := s.now + 1, levels := t.levels, asy := t.asy, pwr := t.pwr } ∧
      t.pwr = { s.pwr with quads := s.pwr.quads.map fun q =>
        if q.drooping = true ∨ s.now < q.pausedUntil then q else { q with arith := q.arith + q.bin * q.duty } } ∧
      (∀ l, t.lvl l = { s.lvl l with timers := (t.lvl l).timers }) ∧
      (∀ l n, (t.lvl l).timer n =
        let x := (s.lvl l).timer n
        let on := match x.bound with
          | some (eng, cause) => s.timerHeld l eng cause
          | none => x.running
        if on = true ∧ x.count ≠ BitVec.allOnes 64 then { x with count := x.count + 1 } else x) ∧
      t.asy = (if s.asy.vasy = true then { s.asy with tot := { s.asy.tot with time := s.asy.tot.time + 1 } } else s.asy)

/-- What the part is at power-up: the Winder UNLOCKED at the default period with every count of its mirror zero, no Level, no job,
no function negotiated and nothing waiting, RESET_L and PE_PERST_L low, no firmware, an anti-rollback counter of at most 64, and the
Assay sealed, its totals those of MRAM; and the state is well formed. That every byte of memory is 0 is the model's choice
(notes/assumptions/13.md), and so are the NOTICE_VECTOR 0xFF and the rest state of a core (notes/assumptions/16.md): the spec gives no
reset value for them. -/
def Obligations.ResetState : Prop :=
  let s := State.reset
  s.pending = [] ∧ s.raised = [] ∧
    s.cad.state = .unlocked ∧ s.cad.number = 0 ∧ s.cad.goodRun = 0 ∧ s.cad.badRun = 0 ∧ s.cad.glitches = 0 ∧
    s.cad.rsvFlags = 0 ∧ s.cad.wordValid = false ∧ s.cad.history = [] ∧ s.cad.lastAccepted = none ∧
    s.cad.current = .tenMs ∧
    (∀ l, (s.lvl l).present = false ∧ (s.lvl l).job = none ∧ (s.lvl l).image = none ∧ (s.lvl l).lstep = 0) ∧
    (∀ n, (s.fn n).version = 0 ∧ (s.fn n).noticeVector = 0xFF ∧ (s.fn n).waiting = [] ∧ (s.fn n).taken = []) ∧
    (∀ n, (s.core n).fillLevel = 0 ∧ (s.core n).ctl.running = false) ∧
    (∀ h, (s.link h).up = false) ∧ s.boot.resetHigh = false ∧ s.boot.perstHigh = false ∧ s.boot.romDone = false ∧
    s.boot.fw = .awaiting ∧ s.boot.rollback ≤ 64 ∧ s.aditUp = false ∧
    (∀ a, memGet s.coreMem a = 0 ∧ memGet s.hubMem a = 0 ∧ memGet s.nearMem a = 0 ∧ memGet s.farMem a = 0) ∧
    s.asy.vasy = true ∧ s.asy.sealed_ = true ∧ s.asy.tot = s.asy.mram ∧ s.rosterMsg = none ∧ s.wellFormed = true

/-- Every step keeps the canonical form of the memories, the four quadrants, and every taken message in one of its function's sixteen
slots, from every state that has them. -/
def Obligations.WellFormedKept : Prop :=
  ∀ s t : State, s.wellFormed = true → step s = .next t → t.wellFormed = true

/-- Every command answers a next state, in every state: the spec gives each an effect and none a stop. None touches the queue or
the model's clock, none uses a number of a free value twice, and none, a reset included, lowers the anti-rollback counter or
restores a revoked key (R501). -/
def Obligations.EveryCommandGoesOn : Prop :=
  ∀ (c : Instr) (s : State), ∃ t, exec c s = .next t ∧ t.pending = s.pending ∧ t.now = s.now ∧ s.freeCtr ≤ t.freeCtr ∧
    s.boot.rollback ≤ t.boot.rollback ∧ ∀ k, s.boot.revoked.getLsbD k = true → t.boot.revoked.getLsbD k = true

/-! ### Cadence -/

/-- A cycle boundary leaves `v` of a Level `u` (R43, R67, R442): its job, its place in the loop and its log may differ, the counts
of the cycle go into the frame and start anew, and the commands of its engines stand as they stood but for what they have been
charged. -/
def levelBounded (u v : LevelState) : Prop :=
  let uncharged (r : Running) : Running := { r with since := 0, nearBytes := 0, farBytes := 0 }
  v = { u with job := v.job, offset := v.offset, lstep := v.lstep, log := v.log, acct := .zero, frame := v.frame,
               switchWork := v.switchWork, engines := v.engines } ∧
    ∀ g, v.eng g = { u.eng g with running := (v.eng g).running } ∧
      (v.eng g).running.map uncharged = (u.eng g).running.map uncharged

/-- The cycle that ended between `s` and `t` has turned, at hub clock `at_`: its entry has been noted, then each Level has been
counted and taken through its boundary, and each JOB.START taken before; then events have been noted. `lost`, `stopEx` and
`stopStarted` are the marks of `LevelState.boundary` (R43, R44, R45, R52, R67). -/
def cycleTurns (s t : State) (at_ : Nat) (lost stopEx stopStarted : Bool) : Prop :=
  ∃ u v : State, Noted s u ∧ Noted v t ∧ v.cad = t.cad ∧
    (∀ l, v.lvl l = ((u.lvl l).countCycle at_).boundary t.cad lost stopEx stopStarted ∧ levelBounded (s.lvl l) (t.lvl l)) ∧
    ∀ n, v.fn n = { u.fn n with taken := (u.fn n).taken.map fun x => x.atBoundary t.cad stopStarted }

/-- The cadence events that have been raised, newest first: code, A, B and hub clock. -/
def cadenceEvents (s : State) : List (Nat × BitVec 64 × BitVec 64 × Nat) :=
  (s.raised.filter fun e => decide (0x2001 ≤ e.code) && decide (e.code ≤ 0x2005)).map fun e => (e.code, e.a, e.b, e.time)

/-- A LOCKED edge in its window, or the flywheel's edge, ends the cycle `t` after `s`: which words were valid, and the run
counts, the history, the number and the state of the Winder afterwards; the events it raises, EV_CADENCE_MISS, EV_CADENCE_LOST,
EV_CADENCE_DISCONTINUITY and EV_PERIOD_CHANGE; and what it does to every Level (R42, R44, R45, R48, R50). Which cycle
EV_PERIOD_CHANGE numbers is the model's choice (notes/assumptions/32.md). -/
def lockedCycleEnds (s t : State) (at_ : Nat) (edge : Bool) : Prop :=
  let old := s.cad.number
  let valid := s.cad.validWords at_
  let word : Option CycleWord := match valid with
    | [w] => some w
    | _ => none
  let good : Bool := edge && word.any fun w => decide (w.number = old + 1)
  let change : Bool := word.any fun w => w.flags.getLsbD 2
  let disc : Bool := word.any fun w => decide (w.number ≠ old + 1)
  let bad : Nat := min 0xFFFF (s.cad.badRun + 1)
  let lost : Bool := !good && decide (4 ≤ bad)
  let measures : Bool := edge && decide (s.cad.lastEdge = s.cad.lastAccepted)
  let raised (c : Bool) (e : Nat × BitVec 64 × BitVec 64 × Nat) : List (Nat × BitVec 64 × BitVec 64 × Nat) :=
    if c = true then [e] else []
  t = { s with cad := t.cad, levels := t.levels, raised := t.raised, fns := t.fns } ∧
    t.cad.ordinal = s.cad.ordinal + 1 ∧ t.cad.cycleStart = at_ ∧ t.cad.lastEdge = some at_ ∧ t.cad.ended = old ∧
    t.cad.words = (s.cad.words.filter fun w => at_ < w.ended) ∧
    t.cad.lastAccepted = (if edge = true then some at_ else s.cad.lastAccepted) ∧
    t.cad.number = ((word.map CycleWord.number).getD (old + 1)) ∧
    t.cad.goodRun = (if good = true ∧ change = false then min 0xFFFF (s.cad.goodRun + 1) else 0) ∧
    t.cad.badRun = (if good = true then 0 else bad) ∧
    t.cad.state = (if change = true ∨ lost = true then .holdover else .locked) ∧
    t.cad.history = (if change = true then [] else if measures = true then
      ((at_ - s.cad.lastAccepted.getD at_) :: s.cad.history).take 16 else s.cad.history) ∧
    t.cad.glitches = s.cad.glitches ∧
    cadenceEvents t = raised change (0x2005, old, 0, at_) ++ raised disc (0x2004, t.cad.number, old, at_) ++
      raised lost (0x2003, old, 0, at_) ++ raised (!good) (0x2002, old, BitVec.ofNat 64 bad, at_) ++ cadenceEvents s ∧
    cycleTurns s t at_ (lost || change) (disc || change) disc

/-- In LOCKED, an edge in its window ends the reference cycle (REFERENCE_EDGE), and a predicted edge whose window has passed
is supplied at its predicted time (FLYWHEEL_EDGE); before that the flywheel supplies nothing. -/
def Obligations.LockedCycleEnds : Prop :=
  ∀ (s : State) (p : Period), s.cad.state = .locked → s.cad.measured = some p →
    (∀ acc, s.boot.fw = .running → s.cad.lastAccepted = some acc → 10000 ≤ s.now - acc →
      inWindowOf p (s.cad.lastEdge.getD acc) s.now = (true, 1) →
      ∃ t, exec .referenceEdge s = .next t ∧ lockedCycleEnds s t s.now true) ∧
    (∀ e, s.cad.lastEdge = some e →
      p.sum * 65536 + max (20 * p.n * 65536) p.sum < (s.now - e) * p.n * 65536 →
      ∃ t, exec .flywheelEdge s = .next t ∧ lockedCycleEnds s t (e + ceilDiv p.sum p.n) false) ∧
    (∀ e, s.cad.lastEdge = some e →
      (s.now - e) * p.n * 65536 ≤ p.sum * 65536 + max (20 * p.n * 65536) p.sum →
      exec .flywheelEdge s = .next s)

/-- R30, R44, R45, R47 to R49: an edge less than 5 µs (10,000 hub clocks) after an accepted edge is ignored and counted as a glitch;
the count stays at all ones. The first edge of all is accepted and judges nothing; while LOCKED an edge outside its window changes
nothing (the flywheel supplies it); outside LOCKED an edge judges the cycle it ends. A good cycle takes UNLOCKED or HOLDOVER to
ACQUIRING, the 16th in a row to LOCKED, where the edge begins a new cycle and EV_CADENCE_LOCKED is raised; a bad one takes ACQUIRING
back to the state it came from; a period change and a discontinuity raise their events. That no edge and no word counts before
bring-up has ended is the model's reading (notes/assumptions/100.md), and so are the first edge (notes/assumptions/78.md) and the
cycle that EV_PERIOD_CHANGE numbers (notes/assumptions/32.md). -/
def Obligations.OtherEdges : Prop :=
  (∀ (s : State) (sync : BitVec 8) (number : BitVec 64) (flags check : BitVec 16), s.boot.fw ≠ .running →
     exec .referenceEdge s = .next s ∧ exec (.cycleWord sync number flags check) s = .next s) ∧
  (∀ (s : State) (acc : Nat), s.boot.fw = .running → s.cad.lastAccepted = some acc → s.now - acc < 10000 →
     exec .referenceEdge s = .next { s with cad := { s.cad with
       glitches := if s.cad.glitches = BitVec.allOnes 32 then s.cad.glitches else s.cad.glitches + 1 } }) ∧
  ((∀ s : State, s.boot.fw = .running → s.cad.lastAccepted = none →
     exec .referenceEdge s = .next { s with cad := { s.cad with
       lastAccepted := some s.now, lastEdge := some s.now, words := [] } }) ∧
   (∀ (s : State) (acc : Nat) (p : Period), s.boot.fw = .running → s.cad.lastAccepted = some acc → 10000 ≤ s.now - acc →
     s.cad.state = .locked → s.cad.measured = some p → inWindowOf p (s.cad.lastEdge.getD acc) s.now ≠ (true, 1) →
     exec .referenceEdge s = .next s) ∧
   (∀ (s : State) (acc : Nat), s.boot.fw = .running → s.cad.lastAccepted = some acc → 10000 ≤ s.now - acc →
     s.cad.state ≠ .locked →
     let j := match s.cad.measured with
       | some p => s.cad.judge s.now (inWindowOf p acc s.now).1 (decide ((inWindowOf p acc s.now).2 = 1))
       | none => s.cad.judge s.now (decide (100000 ≤ s.now - acc)) (decide (100000 ≤ s.now - acc))
     let old := s.cad.number
     let new := (j.word.map CycleWord.number).getD (old + 1)
     let back := if s.cad.state = .acquiring then s.cad.acqFrom else s.cad.state
     let skips := match j.word, s.cad.prevNamed with
       | some w, some p => decide (w.number ≠ p + 1)
       | _, _ => false
     ∃ t, exec .referenceEdge s = .next t ∧
       t = { s with cad := t.cad, levels := t.levels, raised := t.raised, fns := t.fns } ∧
       t.cad.lastEdge = some s.now ∧ t.cad.words = (s.cad.words.filter fun w => s.now < w.ended) ∧
       -- the 16th good cycle: LOCKED, and a cycle begins
       (j.periodChange = false → j.good = true → 16 ≤ j.cad.goodRun →
         t.cad.state = .locked ∧ t.cad.ordinal = s.cad.ordinal + 1 ∧ t.cad.cycleStart = s.now ∧ t.cad.number = new ∧
           cadenceEvents t = (if new = old + 1 then [] else [(0x2004, new, old, s.now)]) ++ [(0x2001, old, 0, s.now)] ++ cadenceEvents s ∧
           cycleTurns s t s.now false (decide (new ≠ old + 1) || s.cad.stopAtBoundary)
             (decide (new ≠ old + 1) || s.cad.dropAtBoundary)) ∧
       -- any other edge: the cycle in progress goes on
       (¬(j.periodChange = false ∧ j.good = true ∧ 16 ≤ j.cad.goodRun) →
         Noted { s with cad := t.cad } t ∧ t.cad.ordinal = s.cad.ordinal ∧ t.cad.number = old) ∧
       (j.periodChange = false → j.good = true → j.cad.goodRun < 16 →
         t.cad.state = .acquiring ∧ t.cad.acqFrom = back ∧ t.cad.goodRun = min 0xFFFF (s.cad.goodRun + 1) ∧
           cadenceEvents t = cadenceEvents s) ∧
       (j.periodChange = true ∨ j.good = false →
         t.cad.state = back ∧ t.cad.goodRun = 0 ∧ (j.periodChange = true → t.cad.history = []) ∧
           (t.cad.stopAtBoundary = true ↔ s.cad.stopAtBoundary = true ∨ skips = true ∨ j.periodChange = true) ∧
           (t.cad.dropAtBoundary = true ↔ s.cad.dropAtBoundary = true ∨ skips = true) ∧
           cadenceEvents t = (if j.periodChange = true then [(0x2005, old, 0, s.now)] else []) ++
             (if skips = true then [(0x2004, new, s.cad.prevNamed.getD 0, s.now)] else []) ++ cadenceEvents s)))

/-- R33, R35: once bring-up has ended, a word with the sync pattern, the check over number and flags, and a number that is not all
ones is kept for the edge that ends its cycle; every other word, one that carries all ones as its number among them, changes
nothing. -/
def Obligations.CycleWordKept : Prop :=
  ∀ (s : State) (sync : BitVec 8) (number : BitVec 64) (flags check : BitVec 16), s.boot.fw = .running →
    let kept := sync = 0x9A ∧ check = cycleWordCheck number flags ∧ number ≠ BitVec.allOnes 64
    (kept → exec (.cycleWord sync number flags check) s =
        .next { s with cad := { s.cad with words := s.cad.words ++ [⟨s.now, number, flags⟩] } }) ∧
    (¬kept → exec (.cycleWord sync number flags check) s = .next s)

/-- R51, R52: outside LOCKED the holdover timebase ends a cycle once its period has passed (`holdoverEnd`, which counts on in parts
of a hub clock), numbers the next as the previous plus one, takes every Level through its boundary, and raises no cadence event of
its own; before that it does nothing. A job whose grace has run out at a boundary has its event raised once, with the time of
that boundary and the last cycle of grace. -/
def Obligations.HoldoverBoundaries : Prop :=
  ∀ s : State,
    let x := s.cad.holdoverEnd
    (s.cad.state ≠ .locked → x ≤ s.now * clockParts →
      ∃ t, exec .holdoverBoundary s = .next t ∧
        t = { s with cad := t.cad, levels := t.levels, raised := t.raised, fns := t.fns } ∧
        t.cad.number = s.cad.number + 1 ∧ t.cad.ordinal = s.cad.ordinal + 1 ∧ t.cad.state = s.cad.state ∧
        t.cad.cycleStart = ceilDiv x clockParts ∧ t.cad.early = ceilDiv x clockParts * clockParts - x ∧
        t.cad.cyclePeriod = s.cad.holdPeriod ∧ cadenceEvents t = cadenceEvents s ∧
        cycleTurns s t (ceilDiv x clockParts) false s.cad.stopAtBoundary s.cad.dropAtBoundary) ∧
    (¬(s.cad.state ≠ .locked ∧ x ≤ s.now * clockParts) → exec .holdoverBoundary s = .next s) ∧
    (∀ l j at_ number ended, (s.lvl l).job = some j → j.graceExpired = some (at_, number, ended) →
      ∃ t e, exec (.evHoldoverExpired l) s = .next t ∧ Noted (s.updJob l fun j => { j with graceExpired := none }) t ∧
        Raises s t e ∧ e.code = 0x2006 ∧ e.level = some l ∧ e.a = ended ∧ e.time = at_ ∧
        e.cycle = (s.lvl l).replayCycle.getD number ∧ e.holdover = true) ∧
    (∀ l, (∀ j, (s.lvl l).job = some j → j.graceExpired = none) → exec (.evHoldoverExpired l) s = .next s)

/-- R43, R44, R45, R52, R67, R71: what a cycle boundary does to a Level. A running job goes to the next cycle of its loop, and to the
next step after its last one, unless it stops at the boundary; then offset and step stay and its stop is due. A started job
begins when its start cycle has begun, unless it stops first (that lock lost before does not stop it is the model's choice,
notes/assumptions/77.md). A replay whose last step has ended is marked. Outside LOCKED the grace of a job that does not run stands;
in LOCKED it is whole. -/
def Obligations.LevelAtBoundary : Prop :=
  ∀ (ls : LevelState) (cad : Cadence) (lost stopEx stopStarted : Bool) (img : Image) (j : Job),
    ls.image = some img → ls.job = some j →
    let u := ls.boundary cad lost stopEx stopStarted
    let ex := img.usesExchange = true ∧ j.replay = none
    let held := if cad.state = .locked then j.grace else j.graceLeft
    (j.phase = .running → j.stopDue = true → u = ls) ∧
    (j.phase = .running → j.stopDue = false →
    let left := if cad.state = .locked ∨ lost = true ∨ ¬ex then j.grace else j.graceLeft - 1
    let wraps := img.loop ≤ ls.offset + 1
    let replayEnds := wraps ∧ ∃ r, j.replay = some r ∧ r.last ≤ ls.lstep.toNat
    let stop := j.stopPending = true ∨ (ex ∧ cad.state ≠ .locked ∧ left = 0) ∨
      (wraps ∧ j.stepLimit ≠ 0 ∧ j.stepLimit ≤ ls.lstep.toNat) ∨ replayEnds ∨ (stopEx = true ∧ ex)
    u = { ls with job := u.job, offset := u.offset, lstep := u.lstep } ∧
      (stop → u.offset = ls.offset ∧ u.lstep = ls.lstep) ∧
      (¬stop → ls.offset + 1 < img.loop → u.offset = ls.offset + 1 ∧ u.lstep = ls.lstep) ∧
      (¬stop → img.loop ≤ ls.offset + 1 → u.offset = 0 ∧ u.lstep = ls.lstep + 1) ∧
      ∃ j', u.job = some j' ∧ (j'.stopDue = true ↔ stop) ∧ j'.stopPending = false ∧ j'.graceLeft = left ∧ j'.phase = .running ∧
        (∀ r, j.replay = some r → ∃ r', j'.replay = some r' ∧ (r'.done = true ↔ r.done = true ∨ replayEnds)) ∧
        j'.graceExpired =
          if ex ∧ cad.state ≠ .locked ∧ left = 0 then some (cad.cycleStart, cad.number, cad.ended) else j.graceExpired) ∧
    (j.phase = .started → j.stopDue = false →
      (j.stopPending = true ∨ (stopStarted = true ∧ ex) → u = { ls with job := some { j with stopPending := false, stopDue := true } }) ∧
      (¬(j.stopPending = true ∨ (stopStarted = true ∧ ex)) → j.beginDue = none →
        u = if j.startCycle ≤ cad.number then { ls with job := some { j with beginDue := some cad.ordinal } } else ls)) ∧
    (j.phase = .opened →
      u = { ls with job := some { j with stopPending := false, stopDue := j.stopDue || j.stopPending, graceLeft := held } }) ∧
    (j.phase = .opening ∨ j.phase = .draining ∨ j.phase = .stopped → u = { ls with job := some { j with graceLeft := held } })

/-! ### Dispatch -/

/-- R68 spelt out: entry `e` of the bound image meets every condition of a dispatch on its own engine, its turn among the entries
of one edge apart. -/
def meetsR68 (s : State) (l : Fin 4) (e : Nat) (img : Image) (j : Job) (step : Nat) : Prop :=
  let en := img.entries.getD e default
  let ctx := (img.contextOf en).1
  let st := (s.lvl l).eng en.engine
  let due := img.dueCount en step
  let compressed := s.compressedDue j due = true
  -- the entry is the next of its engine and context
  e < img.entries.length ∧ (s.lvl l).nextEntry img en.engine ctx = some (e, step) ∧
    -- its time has come, in a running job; or it lay in counts compressed into the present edge (R39)
    j.phase = .running ∧ ((j.stopDue = false ∧ due ≤ s.countNow j) ∨ compressed) ∧
    -- THERMTRIP is not asserted; the engine has completed its previous command, and holds and switches nothing
    s.boot.thermtripHigh = true ∧ st.free en.engine (s.arith en.engine) = true ∧ st.switching = false ∧ st.slotHeld = [] ∧
    (∀ p ∈ st.suspended, p.1 ≠ ctx) ∧
    (compressed → st.sliceAllows img en.engine ctx (img.contextOf en).2 due = true) ∧
    (¬compressed → st.sliceAllows img en.engine ctx (img.contextOf en).2 (s.countNow j) = true) ∧
    (slotShared en.engine = true → (compressed → s.compressedWindow l en.engine en.angle = true) ∧
      (¬compressed → s.inWindow l en.engine = true)) ∧
    -- and the Tally it waits on has reached its target (R78)
    (en.waitTally = true → ((s.lvl l).tally en.tally).target ≤ ((s.lvl l).tally en.tally).count)

/-- Place of an entry of the step among all that fall due: its count, which puts what is compressed into an edge before it, then its
index (R38, R39). -/
def placeOf (img : Image) (i step : Nat) : Nat := img.dueCount (img.entries.getD i default) step * 2 ^ 24 + i

/-- R63, R79: entry `i` of the Winder, or one behind it in its context that goes on the same edge since all before it go, sets or
signals Tally `n`. -/
def setsNow (s : State) (l : Fin 4) (img : Image) (j : Job) (i n : Nat) : Prop :=
  let es := img.entriesOf 0xF0 (img.contextOf (img.entries.getD i default)).1
  let k := tabGet 0 ((s.lvl l).eng 0xF0).dispatched (img.contextOf (img.entries.getD i default)).1
  let at_ (m : Nat) : Entry := img.entries.getD (es.getD ((k + m) % es.length) 0) default
  let due (m : Nat) : Nat := img.dueCount (at_ m) ((k + m) / es.length)
  let goes (m : Nat) : Prop := (due m ≤ s.countNow j ∨ s.compressedDue j (due m) = true) ∧
    ((at_ m).waitTally = true → ((s.lvl l).tally (at_ m).tally).target ≤ ((s.lvl l).tally (at_ m).tally).count)
  (img.entries.getD i default).engine = 0xF0 ∧
    ∃ m, m < es.length ∧ (∀ b, b ≤ m → goes b) ∧ (at_ m).setsTally = true ∧ (at_ m).tally = n

/-- What an entry is ordered by, least first: its place; for an entry of the Winder also, just before it, the place of every waiter
that could be dispatched now on a Tally it is about to set or signal (R79; among entries of several engines that is the model's
choice, notes/assumptions/102.md). -/
def orderedBy (s : State) (l : Fin 4) (img : Image) (j : Job) (i step x : Nat) : Prop :=
  x = 2 * placeOf img i step + 1 ∨
    ∃ w stepW, meetsR68 s l w img j stepW ∧ (img.entries.getD w default).waitTally = true ∧
      setsNow s l img j i (img.entries.getD w default).tally ∧ x = 2 * placeOf img w stepW

/-- R38, R39, R79: of two entries that may be dispatched on one edge, entry `i` goes before entry `k`. -/
def goesBefore (s : State) (l : Fin 4) (img : Image) (j : Job) (i stepI k stepK : Nat) : Prop :=
  ∃ x, orderedBy s l img j i stepI x ∧ ∀ y, orderedBy s l img j k stepK y → x < y

/-- Entry `e` may be dispatched now by a row of an opcode: it is of that row, meets R68, and no other entry goes before it. -/
def mayDispatch (s : State) (l : Fin 4) (e : Nat) (engOk : Nat → Bool) (opcode : Nat) (img : Image) (j : Job) (step : Nat) : Prop :=
  engOk (img.entries.getD e default).engine = true ∧ (img.entries.getD e default).opcode = opcode ∧ meetsR68 s l e img j step ∧
    ∀ i stepI, i ≠ e → meetsR68 s l i img j stepI → ¬goesBefore s l img j i stepI e step

/-- R38, R39, R68, R70, R79: an entry is ready exactly where the rules let it be dispatched, with its context, step, LSTEP and slip;
what the bookkeeping of its dispatch changes; and slip beyond its budget is counted, goes into LSLIP_MAX and, the first, LSLIP_FIRST,
and raises EV_SLIP once for each engine and cycle. -/
def Obligations.ReadyWhenR68Says : Prop :=
  ∀ (s : State) (l : Fin 4) (e : Nat) (engOk : Nat → Bool) (opcode : Nat) (img : Image) (j : Job),
    (s.lvl l).image = some img → (s.lvl l).job = some j →
    ((s.ready l e engOk opcode).isSome = true ↔ ∃ step, mayDispatch s l e engOk opcode img j step) ∧
    (∀ r, s.ready l e engOk opcode = some r →
      r.img = img ∧ r.job = j ∧ r.en = img.entries.getD e default ∧ r.ctx = (img.contextOf r.en).1 ∧
        mayDispatch s l e engOk opcode img j r.step ∧
        r.slip = (if s.compressedDue j (img.dueCount r.en r.step) = true then 0
          else s.countNow j - img.dueCount r.en r.step) ∧
        r.lstep = (if s.compressedDue j (img.dueCount r.en r.step) = true then r.step + j.firstStep else (s.lvl l).lstep.toNat) ∧
        Dispatches s (s.dispatched l e r) l r [] ∧
        let u := s.dispatched l e r
        let beyond := r.en.budget ≠ 0xFFFF ∧ r.en.budget < r.slip
        (¬beyond → u.raised = s.raised ∧ (u.lvl l).slipCount = (s.lvl l).slipCount ∧ (u.lvl l).slipMax = (s.lvl l).slipMax ∧
          (u.lvl l).slipFirst = (s.lvl l).slipFirst) ∧
        (beyond → (u.lvl l).slipCount = satInc32 (s.lvl l).slipCount ∧
          (u.lvl l).slipMax.toNat = min (2 ^ 32 - 1) (max (s.lvl l).slipMax.toNat r.slip) ∧
          (u.lvl l).slipFirst = some ((s.lvl l).slipFirst.getD e) ∧
          ((u.lvl l).eng r.en.engine).slipCycle = s.cad.ordinal + 1 ∧
          (((s.lvl l).eng r.en.engine).slipCycle = s.cad.ordinal + 1 → u.raised = s.raised) ∧
          (((s.lvl l).eng r.en.engine).slipCycle ≠ s.cad.ordinal + 1 →
            ∃ ev, Raises s u ev ∧ ev.code = 0x2010 ∧ ev.level = some l ∧ ev.unit = r.en.engine ∧
              ev.entry = e ∧ ev.a = BitVec.ofNat 64 r.slip)))

/-- A row that dispatches a schedule entry: its command, the engines it runs on, its opcode, and when its descriptor is valid
(in the state just after the bookkeeping of the dispatch). -/
structure EntryRow where
  command : Fin 4 → Nat → FarEnv → Instr
  engines : Nat → Bool
  opcode : Nat
  valid : State → Fin 4 → Nat → Ready → Bool

/-- The Ore Pass rules: the descriptor, the span state it must agree with (R294), and the command's own condition. -/
def oreValid (isOpen stage : Bool) (cond : OreCtx → Bool) (u : State) (l : Fin 4) (r : Ready) : Bool :=
  let d := OreDesc.ofNat (r.img.descNat r.en 128)
  let x : OreCtx := ⟨d, (u.passArea l).1, SpanHeader.ofBytes (readHub u .empty ((u.passArea l).1 + d.state) 64).1⟩
  d.ok (u.passArea l).2 stage && (isOpen || x.agrees) && cond x

/-- The exchange rules: a job with the exchange, and R368. -/
def exchangeValid (opcode : Nat) (u : State) (l : Fin 4) (e : Nat) (r : Ready) : Bool :=
  match exchCtx u l e (r.step + r.job.firstStep) with
  | some x => x.d.ok u l x.exch.region opcode
  | none => false

/-- The rules of SAMPLE: its descriptor, and a segment table that covers the vocabulary. -/
def sampleValid (u : State) (l : Fin 4) (e : Nat) (r : Ready) : Bool :=
  let d := SampleDesc.ofNat (r.img.descNat r.en 64)
  let b := (readNear u (r.cmd l e) .empty d.segAddr (16 * d.segs)).1
  d.ok && segmentsCover d.vocab ((List.range d.segs).map fun i => Segment.ofNat (listLe b (16 * i) 16))

/-- The rules of a program descriptor (R208). -/
def programValid (r : Ready) : Bool :=
  let d := r.img.descNat r.en 64
  reservedClear d programFields && decide (bitField d 0 26 % 8 = 0) && decide (bitField d 32 16 ≠ 0) &&
    decide (bitField d 64 26 % 64 = 0)

/-- Array passes. -/
def passRow (command : Fin 4 → Nat → Instr) (opcode : Nat) (f : Form) (trans : Bool) : EntryRow :=
  ⟨fun l e _ => command l e, isCoreEng, opcode, fun _ _ _ r => (PassDesc.ofNat (r.img.descNat r.en 64)).ok f trans⟩

/-- Stream operations; `mx` where an operand is in MX blocks. -/
def streamRow (command : Fin 4 → Nat → Instr) (opcode : Nat) (mx : Bool) : EntryRow :=
  ⟨fun l e _ => command l e, isVecEng, opcode, fun _ _ _ r => (StreamDesc.ofNat (r.img.descNat r.en 64)).ok mx⟩

/-- Copy commands. -/
def copyRow_ (command : Fin 4 → Nat → Instr) (opcode : Nat) (op : CopyOp) : EntryRow :=
  ⟨fun l e _ => command l e, isCopyEng, opcode, fun _ _ _ r => (CopyDesc.ofNat (r.img.descNat r.en 64)).ok op⟩

/-- Rows of the Winder, which are always valid. -/
def winderRow (command : Fin 4 → Nat → Instr) (opcode : Nat) : EntryRow :=
  ⟨fun l e _ => command l e, isWinder, opcode, fun _ _ _ _ => true⟩

/-- Every row that dispatches a schedule entry, except LOAD_FORECAST_FRAME, which only sends a frame. -/
def entryRows : List EntryRow :=
  [winderRow .nop 0x00, winderRow .tallyInit 0x01, winderRow .tallySignal 0x02, winderRow .timerStart 0x03,
   winderRow .timerStop 0x04, winderRow .timerClear 0x05, winderRow .timerBind 0x06,
   ⟨fun l e _ => .fillSet l e, isCoreEng, 0x01, fun _ _ _ _ => true⟩,
   passRow .passFull 0x10 .full false, passRow .passFullT 0x11 .full true, passRow .passPacked 0x12 .packed false,
   passRow .passPackedT 0x13 .packed true, passRow .passWide 0x14 .wide false,
   ⟨fun l e _ => .program l e, isVecEng, 0x01, fun _ _ _ r => programValid r⟩,
   streamRow .cvtBf16F32 0x20 false, streamRow .cvtF32Bf16 0x21 false, streamRow .cvtA96F32 0x22 false,
   streamRow .cvtA96Bf16 0x23 false, streamRow .cvtMxF32 0x24 true, streamRow .cvtMxBf16 0x25 true,
   streamRow .cvtF32Mx 0x26 true, streamRow .cvtBf16Mx 0x27 true, streamRow .cvtF32Split 0x28 false,
   streamRow .accCombine 0x29 false,
   ⟨fun l e _ => .spanOpen l e, isOreEng, 0x01, fun u l _ r => oreValid true false (fun _ => true) u l r⟩,
   ⟨fun l e _ => .stage l e, isOreEng, 0x02, fun u l _ r => oreValid false true (fun _ => true) u l r⟩,
   ⟨fun l e _ => .sweep1 l e, isOreEng, 0x03, fun u l _ r => oreValid false false (fun x => decide (x.d.chunk = x.head.next)) u l r⟩,
   ⟨fun l e _ => .finalise l e, isOreEng, 0x04,
     fun u l _ r => oreValid false false (fun x => decide (x.d.chunks ≤ x.head.next) && !x.head.final) u l r⟩,
   ⟨fun l e _ => .sweep2 l e, isOreEng, 0x05, fun u l _ r => oreValid false false (fun x => x.head.final) u l r⟩,
   ⟨fun l e env => .clip l e env, isVideo, 0x01, fun _ _ _ r => (MediaDesc.ofNat (r.img.descNat r.en 128)).ok .clip⟩,
   ⟨fun l e env => .imageBatch l e env, fun x => decide (x = 0x30), 0x01,
     fun _ _ _ r => (MediaDesc.ofNat (r.img.descNat r.en 128)).ok .image⟩,
   ⟨fun l e env => .audioBatch l e env, fun x => decide (x = 0x31), 0x01,
     fun _ _ _ r => (MediaDesc.ofNat (r.img.descNat r.en 128)).ok .audio⟩,
   ⟨fun l e _ => .stemConv l e, isStem, 0x01, fun _ _ _ r => (StemDesc.ofNat (r.img.descNat r.en 64)).ok⟩,
   ⟨fun l e _ => .sample l e, isBelt, 0x01, sampleValid⟩,
   ⟨fun l e _ => .route l e, isBelt, 0x02, fun _ _ _ r => (RouteDesc.ofNat (r.img.descNat r.en 64)).ok⟩,
   ⟨fun l e _ => .detect l e, isBelt, 0x03, fun _ _ _ r => (DetectDesc.ofNat (r.img.descNat r.en 64)).ok⟩,
   copyRow_ .move 0x01 .move, copyRow_ .zrcPack 0x02 .pack, copyRow_ .zrcUnpack 0x03 .unpack, copyRow_ .fill 0x04 .fill,
   ⟨fun l e _ => .tapGather l e, isCopyEng, 0x30, fun _ _ _ r => (GatherDesc.ofNat (r.img.descNat r.en 64)).ok⟩,
   ⟨fun l e _ => .contribute l e, isExchange, 0x01, exchangeValid 1⟩,
   ⟨fun l e env => .reduce l e env, isExchange, 0x02, exchangeValid 2⟩,
   ⟨fun l e env => .gather l e env, isExchange, 0x03, exchangeValid 3⟩,
   ⟨fun l e env => .rosterSync l e env, isExchange, 0x04, exchangeValid 4⟩,
   ⟨fun l e env => .journalRead l e env true, isExchange, 0x05, exchangeValid 5⟩,
   ⟨fun l e env => .journalRead l e env false, isExchange, 0x05, exchangeValid 5⟩,
   ⟨fun l e env => .farRead l e env, isExchange, 0x10,
     fun u l _ r => (MoveDesc.ofNat (r.img.descNat r.en 128)).ok (u.windows l) false⟩,
   ⟨fun l e _ => .farWrite l e, isExchange, 0x11,
     fun u l _ r => (MoveDesc.ofNat (r.img.descNat r.en 128)).ok (u.windows l) true⟩,
   ⟨fun l e env => .snapWrite l e env, isExchange, 0x20, fun u l _ r => (snapDesc u l r.img r.en).isSome⟩]

/-- R68, R135, R208, R368, R403: an entry that may not be dispatched yet is held: nothing changes. A ready entry with an invalid
descriptor is dispatched but not executed: no command begins, no byte of memory and no register changes, EV_DESCRIPTOR_INVALID
names its engine and entry, and the job stops at the next cycle boundary. -/
def Obligations.EntriesHeldOrInvalid : Prop :=
  (∀ row ∈ entryRows, ∀ (s : State) (l : Fin 4) (e : Nat) (env : FarEnv),
     s.ready l e row.engines row.opcode = none → exec (row.command l e env) s = .next s) ∧
  (∀ row ∈ entryRows, ∀ (s : State) (l : Fin 4) (e : Nat) (env : FarEnv) (r : Ready),
     s.ready l e row.engines row.opcode = some r → row.valid (s.dispatched l e r) l e r = false →
     ∃ t, exec (row.command l e env) s = .next t ∧ Dispatches s t l r [] ∧
       Raises s t (s.event 0x2012 (some l) r.en.engine 0 e 0 0 0) ∧
       ∃ j, (t.lvl l).job = some j ∧ j.stopPending = true)

/-! ### The Winder's opcodes, Tallies and timers -/

/-- R78, R79: Tally `n` of Level `l` is signalled once between `u` and `t`: COUNT rises by one, and nothing else differs; at 0xFFFF
it stays, EV_TALLY_OVERFLOW is raised and the running job stops at the next cycle boundary. On the hub clock of a TALLY_INIT the
signal acts on the COUNT that the INIT has replaced, and the INIT stands over it. -/
def signalled (u t : State) (l : Fin 4) (n entry : Nat) : Prop :=
  let x := (u.lvl l).tally n
  let overwritten := x.initAt = u.now + 1
  let count := if overwritten then x.was else x.count
  (count ≠ 0xFFFF → t = u.updLvl l fun ls =>
      ls.setTally n (if overwritten then { x with was := x.was + 1 } else { x with count := x.count + 1 })) ∧
    (count = 0xFFFF → Noted u t ∧ Raises u t (u.event 0x2021 (some l) 0 n entry 0 0 0) ∧
      ∀ j, (t.lvl l).job = some j → j.phase = .running → j.stopPending = true)

/-- A command that completes at its dispatch signals its Tally where its entry has SIGNAL_TALLY. -/
def completesNow (u t : State) (l : Fin 4) (e : Nat) (r : Ready) : Prop :=
  (r.en.signalTally = true → signalled u t l r.en.tally e) ∧ (r.en.signalTally = false → t = u)

/-- R63, R78, R79, R81: the opcodes of the Winder in a ready entry: the dispatch, then NOP does nothing, TALLY_INIT gives its Tally
COUNT, TARGET (0 is treated as 1 and reported) and MODE over every signal of the same hub clock, its own too, TALLY_SIGNAL signals
it once, and the timer opcodes leave their timer as the table says; no other timer changes, and no count but that of TIMER_CLEAR. -/
def Obligations.WinderOpcodes : Prop :=
  (∀ (s : State) (l : Fin 4) (e : Nat) (r : Ready),
     (s.ready l e isWinder 0x00 = some r →
       ∃ u t, exec (.nop l e) s = .next t ∧ Dispatches s u l r [] ∧ completesNow u t l e r) ∧
     (s.ready l e isWinder 0x01 = some r →
       let target := bitField r.en.desc 16 16
       let x (old : TallyState) : TallyState :=
         ⟨BitVec.ofNat 16 (bitField r.en.desc 0 16), BitVec.ofNat 16 (if target = 0 then 1 else target),
           decide (bitField r.en.desc 32 1 = 1), s.now + 1, if old.initAt = s.now + 1 then old.was else old.count⟩
       ∃ u v t, exec (.tallyInit l e) s = .next t ∧ Dispatches s u l r [] ∧ completesNow u v l e r ∧
         let set := v.updLvl l fun ls => ls.setTally r.en.tally (x (ls.tally r.en.tally))
         (target ≠ 0 → t = set) ∧ (target = 0 → Noted set t ∧ Raises v t (v.event 0x2022 (some l) 0 r.en.tally e 0 0 0))) ∧
     (s.ready l e isWinder 0x02 = some r →
       ∃ u t, exec (.tallySignal l e) s = .next t ∧ Dispatches s u l r [] ∧ signalled u t l r.en.tally e)) ∧
  (∀ p ∈ [((fun l e => Instr.timerStart l e : Fin 4 → Nat → Instr), 0x03,
             fun (_ : Ready) (x : PhaseTimer) => { x with running := true, bound := none }),
          (fun l e => .timerStop l e, 0x04, fun _ x => { x with running := false, bound := none }),
          (fun l e => .timerClear l e, 0x05, fun _ _ => ⟨0, false, none⟩),
          (fun l e => .timerBind l e, 0x06,
             fun r x => { x with running := false, bound := some (bitField r.en.desc 6 8, bitField r.en.desc 14 2) })],
     ∀ (s : State) (l : Fin 4) (e : Nat) (r : Ready), s.ready l e isWinder p.2.1 = some r →
       let n := bitField r.en.desc 0 6
       ∃ u t, exec (p.1 l e) s = .next t ∧ Dispatches s u l r [] ∧
         completesNow (u.updLvl l fun ls => ls.setTimer n (p.2.2 r ((s.lvl l).timer n))) t l e r)

/-- R108, R109: FILL_SET of a ready entry sets TARGET (5 to 7 are treated as 4 and reported) and STEP of its core, whose interval
counts from then, and a STEP of 0 jumps; FILL_LEVEL_STEP moves the effective level one step towards TARGET once STEP x 64
arithmetic cycles have passed, and changes nothing else of the part; until then, and at TARGET, it changes nothing. -/
def Obligations.FillLevels : Prop :=
  (∀ (s : State) (l : Fin 4) (e : Nat) (r : Ready), s.ready l e isCoreEng 0x01 = some r →
    let t := bitField r.en.desc 0 3
    let step := bitField r.en.desc 8 8
    let core := { s.core r.en.engine with
      fillTarget := min t 4, fillStep := step, fillFrom := s.arith r.en.engine,
      fillLevel := if step = 0 then min t 4 else (s.core r.en.engine).fillLevel }
    ∃ u v t', exec (.fillSet l e) s = .next t' ∧ Dispatches s u l r [] ∧
      (t ≤ 4 → v = u.setCore r.en.engine core) ∧
      (4 < t → Noted (u.setCore r.en.engine core) v ∧ Raises u v (u.event 0x2012 (some l) r.en.engine 0 e 0 0 0)) ∧
      completesNow v t' l e r) ∧
  (∀ (s : State) (n : Fin 16),
    let k := s.core n.val
    let next := k.fillFrom + k.fillStep * 64 * arithParts
    (k.fillLevel ≠ k.fillTarget → next ≤ s.arith n.val → exec (.fillLevelStep n) s = .next (s.setCore n.val { k with
      fillLevel := if k.fillLevel < k.fillTarget then k.fillLevel + 1 else k.fillLevel - 1, fillFrom := next })) ∧
    (k.fillLevel = k.fillTarget ∨ s.arith n.val < next → exec (.fillLevelStep n) s = .next s))

/-- LJOB as R86 gives it: OPEN, RUNNING, EXCHANGE and STOP_PENDING of a job whose opening has ended. That a stop by STEP_LIMIT,
LAST_STEP or the end of the grace does not show before its boundary is the model's choice (notes/assumptions/47.md). -/
def ljobWord (s : State) (l : Fin 4) (j : Job) : Nat :=
  let ex := (s.lvl l).usesExchange && j.replay.isNone
  let ahead := !j.stopDue && match j.phase with
    | .running => j.stopPending || (ex && s.cad.stopAtBoundary)
    | .opened => j.stopPending
    | .started => j.stopPending || (ex && s.cad.dropAtBoundary)
    | _ => false
  if j.phase = .opening then 0
  else 1 + (if j.phase = .running ∨ (j.phase = .draining ∧ (s.lvl l).lstep ≠ 0) then 2 else 0) +
    (if (s.lvl l).usesExchange = true then 4 else 0) + (if ahead = true then 8 else 0)

/-- R83, R85, R86, R475, R476, R525: what function `fn` reads in the Winder status mirror, the identity block and the Assay mirror. A
latched word reads as its latch while that holds (R84). The blocks and timers of a Level read zero for a function that may not see
them, and so do the Assay's channels. -/
def registersRead (s : State) (fn : Fin 5) : Prop :=
    let r (o : Nat) : Nat := s.barWord fn.val o
    let f := s.fn fn.val
    let c := s.cad
    (r 0x100000 = c.state.code + 4 * ((c.lastFlags s.now).getLsbD 0).toNat ∧
      r 0x100004 = (f.wflags.map BitVec.toNat).getD ((c.lastFlags s.now).toNat + 2 ^ 16 * (c.wordBefore s.now).toNat) ∧
      r 0x100008 = c.number.toNat % 2 ^ 32 ∧ r 0x10000C = (f.wcycleHi.map BitVec.toNat).getD (c.number.toNat / 2 ^ 32) ∧
      r 0x100010 = (2 * c.current.sum + c.current.n) / (2 * c.current.n) ∧
      r 0x100014 = min 0xFFFF c.goodRun + 2 ^ 16 * min 0xFFFF c.badRun ∧ r 0x100018 = c.glitches.toNat ∧
      r 0x10001C = min (2 ^ 32 - 1)
        (c.rsvFlags.toNat + ((c.validWords s.now).filter fun w => decide (w.flags &&& 0xF8#16 ≠ 0#16)).length)) ∧
    (∀ l : Fin 4,
      let ls := s.lvl l
      let b := 0x100100 + 0x100 * l.val
      let held (x : BitVec 33) (live : Nat) : Nat := if x.getLsbD 32 = true then (x.extractLsb' 0 32).toNat else live
      let below (g : LevelRecord → Nat) : Nat := (((List.finRange 4).filter fun k => k < l).map fun k => g (s.lvl k).record).sum
      (fn.val = 0 ∨ fn.val = l.val + 1 →
        r b = ((ls.job.map (ljobWord s l)).getD 0) ∧ r (b + 0x04) = ls.offset + 2 ^ 16 * s.angle ∧
          r (b + 0x08) = ls.lstep.toNat % 2 ^ 32 ∧
          r (b + 0x0C) = held (tabGet 0 f.lstepHi l.val) (ls.lstep.toNat / 2 ^ 32) ∧
          r (b + 0x10) = ls.slipCount.toNat ∧ r (b + 0x14) = ls.slipMax.toNat ∧
          r (b + 0x18) = ((ls.slipFirst.map fun e => e % 2 ^ 20 + 2 ^ 31).getD 0) ∧
          r (b + 0x1C) = (ls.engines.map fun e => (e.2.debt.map Prod.snd).sum).sum ∧
          r (b + 0x20) = (if ls.record.tallyBlocks = 0 then 0
            else 256 * below LevelRecord.tallyBlocks + 2 ^ 16 * (256 * ls.record.tallyBlocks)) ∧
          (ls.job = none → r (b + 0x24) = ls.graceHeld) ∧
          (∀ j, ls.job = some j → r (b + 0x24) = if c.state = .locked then j.grace else j.graceLeft) ∧
          r (b + 0x28) = ((ls.image.map fun i => i.major + 2 ^ 16 * i.minor).getD 0) ∧
          ∀ n : Fin 64, r (0x101000 + 0x400 * l.val + 8 * n.val) = (ls.timer n.val).count.toNat % 2 ^ 32 ∧
            r (0x101004 + 0x400 * l.val + 8 * n.val) =
              held (tabGet 0 f.timerHi (l.val * 64 + n.val)) ((ls.timer n.val).count.toNat / 2 ^ 32)) ∧
      (¬(fn.val = 0 ∨ fn.val = l.val + 1) →
        (∀ o, o < 0x100 → r (b + o) = 0) ∧ ∀ o, o < 0x400 → r (0x101000 + 0x400 * l.val + o) = 0)) ∧
    (r 0x00 = 0x4816 + 2 ^ 16 * Config.topBin + 2 ^ 24 * 0xB0 ∧
      r 0x04 = s.mem.density + 2 ^ 8 * s.mem.rate + 2 ^ 16 * s.mem.quads.toNat ∧ r 0x08 = s.boot.fw.code + 2 ^ 8 * 3 ∧
      (fn.val = 0 → r 0x0C = 8) ∧
      (∀ l : Fin 4, fn.val = l.val + 1 → r 0x0C = fn.val + 8 * ((s.lvl l).present).toNat) ∧
      r 0x10 = f.version ∧ r 0x14 = f.features.toNat % 2 ^ 32 ∧ r 0x18 = f.features.toNat / 2 ^ 32 ∧
      r 0x1C = f.filtered.toNat ∧ r 0x20 = f.noticeLost.toNat ∧ r 0x24 = f.scanMax.toNat) ∧
    r 0x200000 = s.asy.status ∧
    ∀ (ch : Fin 5) (o : Nat), o < 0x80 →
      r (0x200100 + 0x80 * ch.val + o) =
        if fn.val = 0 ∨ fn.val = ch.val + 1 then listLe (s.asy.mirror.getD ch.val []) o 4 else 0

/-- R83 to R86, R475, R476, R525: what every read of the status registers answers (`registersRead`), and the latching reads. Each of
those answers the low 32 bits and holds the high ones, WCYCLE_LO also WFLAGS; a function that may
not read a Level reads zero and latches nothing; no other function and nothing else of the part changes. While the Adit does not answer
(R558) there is no read. -/
def Obligations.LatchingReads : Prop :=
  (∀ (s : State) (fn : Fin 5), registersRead s fn) ∧
  (∀ (s : State) (fn : Fin 5), s.aditUp = true → exec (.wcycleLoRead fn) s = .next (s.setFn fn.val { s.fn fn.val with
    rdata := s.cad.number.extractLsb' 0 32, wcycleHi := some (s.cad.number.extractLsb' 32 32),
    wflags := some (BitVec.ofNat 32 ((s.cad.lastFlags s.now).toNat + 2 ^ 16 * (s.cad.wordBefore s.now).toNat)) })) ∧
  (∀ (s : State) (fn : Fin 5) (l : Fin 4), s.aditUp = true →
    let v := (s.lvl l).lstep
    (fn.val = 0 ∨ fn.val = l.val + 1 → exec (.lstepLoRead fn l) s = .next (s.setFn fn.val { s.fn fn.val with
      rdata := v.extractLsb' 0 32, lstepHi := tabPut 0 (s.fn fn.val).lstepHi l.val (1#1 ++ v.extractLsb' 32 32) })) ∧
    (¬(fn.val = 0 ∨ fn.val = l.val + 1) → exec (.lstepLoRead fn l) s = .next (s.setFn fn.val { s.fn fn.val with rdata := 0 }))) ∧
  (∀ (s : State) (fn : Fin 5) (l : Fin 4) (n : Fin 64), s.aditUp = true →
    let v := ((s.lvl l).timer n.val).count
    (fn.val = 0 ∨ fn.val = l.val + 1 → exec (.timerLoRead fn l n) s = .next (s.setFn fn.val { s.fn fn.val with
      rdata := v.extractLsb' 0 32,
      timerHi := tabPut 0 (s.fn fn.val).timerHi (l.val * 64 + n.val) (1#1 ++ v.extractLsb' 32 32) })) ∧
    (¬(fn.val = 0 ∨ fn.val = l.val + 1) → exec (.timerLoRead fn l n) s = .next (s.setFn fn.val { s.fn fn.val with rdata := 0 }))) ∧
  (∀ (s : State) (fn : Fin 5) (l : Fin 4) (n : Fin 64), s.aditUp = false →
    exec (.wcycleLoRead fn) s = .next s ∧ exec (.lstepLoRead fn l) s = .next s ∧ exec (.timerLoRead fn l n) s = .next s)

/-! ### Core engines: passes and streams -/

/-- R94 to R96, R112, R114 to R118, R128, R129, R187: a ready entry with a valid descriptor begins a pass: its operands are read at
once, mask and all, their slots join the row and column feeders of its arrays behind those that wait there, of which a feeder's queue
holds at most 32 (R87), its arrays are marked
with their operand format, and it stands to feed one ledger record; nothing is written before it completes, and no byte of memory,
no accumulator, no other core and no other engine changes. -/
def Obligations.PassesBegin : Prop :=
  ∀ p ∈ [((fun l e => Instr.passFull l e : Fin 4 → Nat → Instr), 0x10, Form.full, false),
         (fun l e => .passFullT l e, 0x11, .full, true), (fun l e => .passPacked l e, 0x12, .packed, false),
         (fun l e => .passPackedT l e, 0x13, .packed, true), (fun l e => .passWide l e, 0x14, .wide, false)],
    ∀ (s : State) (l : Fin 4) (e : Nat) (r : Ready), s.ready l e isCoreEng p.2.1 = some r →
      let d := PassDesc.ofNat (r.img.descNat r.en 64)
      let n := r.en.engine
      d.ok p.2.2.1 p.2.2.2 = true →
      let u := s.dispatched l e r
      let feeds := (readPass u (r.cmd l e) d p.2.2.1 p.2.2.2 n).1.feeds d p.2.2.1 (u.firstIssue l n d p.2.2.1 / arithParts)
      let waits (x : Tab Feeder) (k : Nat) : List Slot := (tabGet ⟨[], []⟩ x k).queue ++ (tabGet ⟨[], []⟩ x k).behind
      ∃ t q, exec (p.1 l e) s = .next t ∧ Dispatches { s with cores := t.cores } t l r [q] ∧ q.begun s e r r.lstep ∧
        q.writes = [] ∧ q.contribs = [(Contribution.start d.tensor).format d.outFormat] ∧ q.arrays = d.arrays ∧
        q.after = .pass ⟨r.img.descNat r.en 64, p.2.1, [], [], [], 0, false, none⟩ ∧
        (∀ k, k ≠ n → t.core k = s.core k) ∧
        t.core n = { s.core n with
          lastFormat := (t.core n).lastFormat, rowFeed := (t.core n).rowFeed, colFeed := (t.core n).colFeed } ∧
        (∀ k < 512, waits (t.core n).rowFeed k = waits (s.core n).rowFeed k ++ tabGet [] feeds.1 k ∧
          waits (t.core n).colFeed k = waits (s.core n).colFeed k ++ tabGet [] feeds.2 k ∧
          (tabGet ⟨[], []⟩ (t.core n).rowFeed k).queue.length ≤ 32 ∧ (tabGet ⟨[], []⟩ (t.core n).colFeed k).queue.length ≤ 32) ∧
        ∀ a, tabGet 0 (t.core n).lastFormat a =
          if a < 4 ∧ bitAt d.arrays a = true then d.format else tabGet 0 (s.core n).lastFormat a

/-- R205 to R207: a ready entry with a valid descriptor begins a stream operation: its writes and its one contribution are those of
its operation on the elements in order, which has the bit of its output format in FORMATS_SEEN even where COUNT is 0 (R190) and an
explicit STEP where the descriptor has one, while its command belongs to the step of its dispatch (R187), every write stands in the
core's own store and waits for the completion, and nothing else changes but the dispatch. -/
def Obligations.StreamsBegin : Prop :=
  ∀ p ∈ [((fun l e => Instr.cvtBf16F32 l e : Fin 4 → Nat → Instr), 0x20, 1, false, cvtElems .bf16 .f32),
         (fun l e => .cvtF32Bf16 l e, 0x21, 0, false, cvtElems .f32 .bf16),
         (fun l e => .cvtA96F32 l e, 0x22, 1, false, cvtWords .f32), (fun l e => .cvtA96Bf16 l e, 0x23, 0, false, cvtWords .bf16),
         (fun l e => .cvtMxF32 l e, 0x24, 1, true, cvtFromMx .f32), (fun l e => .cvtMxBf16 l e, 0x25, 0, true, cvtFromMx .bf16),
         (fun l e => .cvtF32Mx l e, 0x26, 3, true, cvtToMx .f32), (fun l e => .cvtBf16Mx l e, 0x27, 3, true, cvtToMx .bf16),
         (fun l e => .cvtF32Split l e, 0x28, 0, false, cvtSplit), (fun l e => .accCombine l e, 0x29, 2, false, combineWords)],
    ∀ (s : State) (l : Fin 4) (e : Nat) (r : Ready), s.ready l e isVecEng p.2.1 = some r →
      let d := StreamDesc.ofNat (r.img.descNat r.en 64)
      d.ok p.2.2.2.1 = true →
      let step := if d.explicit = true then some d.step else none
      let x : StreamCtx := ⟨d, r.en.engine - 0x10, r.job.seed, BitVec.ofNat 64 (step.getD r.lstep)⟩
      let outs := p.2.2.2.2 (s.dispatched l e r) (r.cmd l e) x (.empty, (Contribution.start d.tensor).format p.2.2.1)
      ∃ t q, exec (p.1 l e) s = .next t ∧ Dispatches s t l r [q] ∧ q.begun s e r r.lstep ∧
        q.writes = outs.1.writes.reverse ∧ q.contribs = [{ (outs.2.count 13 1) with warmUp := d.warmUp, step := step }] ∧
        q.after = .none ∧ ∀ w ∈ q.writes, w.space = .core (r.en.engine - 0x10)

/-- R208: PROGRAM of a ready entry with a valid descriptor: the vector and mask registers of its core read zero, P0 to P15 hold
the argument block, instruction 0 is next, and its command runs until END; where the core cannot go on from there, the program
has stopped: its command is gone and the job stops. The conversion context before a VTAG is a free value
(notes/assumptions/2.md): one is used. -/
def Obligations.ProgramBegins : Prop :=
  ∀ (s : State) (l : Fin 4) (e : Nat) (r : Ready), s.ready l e isVecEng 0x01 = some r → programValid r = true →
    let d := r.img.descNat r.en 64
    let n := r.en.engine - 0x10
    let args := (readCore (s.dispatched l e r) (r.cmd l e) .empty n (bitField d 64 26) 128).1
    ∃ t q, exec (.program l e) s = .next t ∧
      t.core n = { s.core n with regs := ⟨[], [], (t.core n).regs.p⟩, ctl := (t.core n).ctl } ∧
      (∀ i : BitVec 4, (t.core n).regs.ptr i = BitVec.ofNat 64 (listLe args (8 * i.toNat) 8)) ∧
      (∀ k, k ≠ n → t.core k = s.core k) ∧
      q.begun s e r r.lstep ∧ q.after = .program ∧ q.writes = [] ∧ q.contribs = [] ∧
      let ctl := (t.core n).ctl
      let u : State := { s.dispatched l e r with cores := t.cores, freeCtr := s.freeCtr + 1 }
      (ctl.running = true → ctl.ip = 0 ∧ ctl.code = bitField d 0 26 ∧ ctl.length = bitField d 32 16 ∧ ctl.loops = [] ∧
        ctl.level = l.val ∧ ctl.context = r.ctx ∧ ctl.entry = e ∧
        ctl.step = (if bitAt d 90 = true then some (BitVec.ofNat 64 (bitField d 128 64)) else none) ∧
        Begins u t l r.en.engine q) ∧
      (ctl.running = false → Recorded l ((u.updEng l r.en.engine fun st => { st with running := [] }).chargeRunning l r.en.engine q) t ∧
        ctl = .idle ∧ ∃ j, (t.lvl l).job = some j ∧ j.stopPending = true)

/-! ### Vector instructions -/

/-- Core `n` runs the program of command `r` of Level `l`, which stands at an instruction of opcode `o` with fields `f` and can
go on (R208, R209). -/
def atInstr (s : State) (n : Fin 16) (o : Nat) (f : VFields) (l : Fin 4) (r : Running) (rest : List Running) : Prop :=
  let k := s.core n.val
  let w := (fetchWord s ⟨l, 0x10 + n.val, r.ctx, r.entry, r.step⟩ .empty n.val k.ctl).1
  k.ctl.running = true ∧ k.ctl.level = l.val ∧ ((s.lvl l).eng (0x10 + n.val)).running = r :: rest ∧
    w % 256 = o ∧ vfieldsOf w = f ∧ programStuck k.ctl w = false

/-- What an instruction of that command leaves, from `b` (the state with the stores made and free values used): registers
`regs` and control block `ctl`, and its command goes on with conversions `cs`; where the program cannot go on from there (R208,
R210) it has stopped, its command is gone, its engine time charged, and the job stops. No other core, Level or engine differs. -/
def instrDone (b t : State) (n : Fin 16) (l : Fin 4) (r : Running) (rest : List Running) (regs : VRegs) (ctl : Control)
    (cs : List Contribution) : Prop :=
  let stuck := programStuck ctl (fetchWord b ⟨l, 0x10 + n.val, r.ctx, r.entry, r.step⟩ .empty n.val ctl).1
  let u (x : Control) : State := b.setCore n.val { b.core n.val with regs := regs, ctl := x }
  (stuck = false → ∃ rf, NotedIn l
    ((u ctl).updEng l (0x10 + n.val) fun st => { st with running := { r with refused := rf, contribs := cs } :: rest }) t) ∧
  (stuck = true → Recorded l
      (((u .idle).updEng l (0x10 + n.val) fun st => { st with running := rest }).chargeRunning l (0x10 + n.val) r) t ∧
    ∀ j, (t.lvl l).job = some j → j.phase = .running → j.stopPending = true)

/-- The next instruction. -/
def nextCtl (s : State) (n : Fin 16) : Control := { (s.core n.val).ctl with ip := (s.core n.val).ctl.ip + 1 }

/-- Enabled lanes of VD hold `val`; every other lane, register, mask and pointer is as before (R209). -/
def lanesWritten (g g' : VRegs) (f : VFields) (val : Nat → BitVec 32) : Prop :=
  g'.m = g.m ∧ g'.p = g.p ∧ ∀ (x : BitVec 5) (i : Fin 256),
    g'.lane x i.val = if x = f.vd ∧ (g.mask f.mask).getLsbD i.val = true then val i.val else g.lane x i.val

/-- R209 to R211, R213: the instructions that compute each enabled lane of VD from lanes of VA, VB and VC: what the lane takes,
and that nothing but those lanes and the instruction pointer changes. -/
def Obligations.LaneInstructions : Prop :=
  ∀ p ∈ [((fun n f => Instr.vadd n f : Fin 16 → VFields → Instr), 0x00,
            fun (g : VRegs) (f : VFields) (i : Nat) => fadd (g.lane f.va i) (g.lane f.vb i)),
         (fun n f => .vsub n f, 0x01, fun g f i => fsub (g.lane f.va i) (g.lane f.vb i)),
         (fun n f => .vmul n f, 0x02, fun g f i => fmul (g.lane f.va i) (g.lane f.vb i)),
         (fun n f => .vfma n f, 0x03, fun g f i => ffma (g.lane f.va i) (g.lane f.vb i) (g.lane f.vc i)),
         (fun n f => .vmin n f, 0x04, fun g f i => (minCand (g.lane f.va i, 0) (g.lane f.vb i, 1)).1),
         (fun n f => .vmax n f, 0x05, fun g f i => (maxCand (g.lane f.va i, 0) (g.lane f.vb i, 1)).1),
         (fun n f => .vabs n f, 0x06, fun g f i => fabs (g.lane f.va i)),
         (fun n f => .vneg n f, 0x07, fun g f i => fneg (g.lane f.va i)),
         (fun n f => .vdiv n f, 0x10, fun g f i => fdiv (g.lane f.va i) (g.lane f.vb i)),
         (fun n f => .vsqrt n f, 0x11, fun g f i => fsqrt (g.lane f.va i)),
         (fun n f => .vrsqrt n f, 0x12, fun g f i => frsqrt (g.lane f.va i)),
         (fun n f => .vrcp n f, 0x13, fun g f i => frcp (g.lane f.va i)),
         (fun n f => .vexp2 n f, 0x14, fun g f i => fexp2 (g.lane f.va i)),
         (fun n f => .vlog2 n f, 0x15, fun g f i => flog2 (g.lane f.va i)),
         (fun n f => .vsel n f, 0x24, fun g f i =>
            if (g.mask (f.vc.extractLsb' 0 3)).getLsbD i = true then g.lane f.va i else g.lane f.vb i),
         (fun n f => .vmovi n f, 0x25, fun _ f _ => f.imm ++ 0#4),
         (fun n f => .viadd n f, 0x30, fun g f i => g.lane f.va i + g.lane f.vb i),
         (fun n f => .visub n f, 0x31, fun g f i => g.lane f.va i - g.lane f.vb i),
         (fun n f => .vimul n f, 0x32, fun g f i => g.lane f.va i * g.lane f.vb i),
         (fun n f => .vand n f, 0x33, fun g f i => g.lane f.va i &&& g.lane f.vb i),
         (fun n f => .vor n f, 0x34, fun g f i => g.lane f.va i ||| g.lane f.vb i),
         (fun n f => .vxor n f, 0x35, fun g f i => g.lane f.va i ^^^ g.lane f.vb i),
         (fun n f => .vshl n f, 0x36, fun g f i => g.lane f.va i <<< (f.imm.extractLsb' 0 5).toNat),
         (fun n f => .vshr n f, 0x37, fun g f i => g.lane f.va i >>> (f.imm.extractLsb' 0 5).toNat),
         (fun n f => .vcvtW n f, 0x40, fun g f i =>
            let h := if f.imm.getLsbD 0 = true then (g.lane f.va i).extractLsb' 16 16 else (g.lane f.va i).extractLsb' 0 16
            if h.extractLsb' 7 8 = 0xFF ∧ h.extractLsb' 0 7 ≠ 0 then 0x7FC00000 else h ++ 0#16),
         (fun n f => .vperm n f, 0x50, fun g f i => g.lane f.va (i ^^^ (f.imm.extractLsb' 0 8).toNat)),
         (fun n f => .vbcast n f, 0x51, fun g f _ => g.lane f.va (f.imm.extractLsb' 0 8).toNat)],
    ∀ (s : State) (n : Fin 16) (f : VFields) (l : Fin 4) (r : Running) (rest : List Running), atInstr s n p.2.1 f l r rest →
      ∃ t, exec (p.1 n f) s = .next t ∧
        lanesWritten (s.core n.val).regs (t.core n.val).regs f (p.2.2 (s.core n.val).regs f) ∧
        instrDone s t n l r rest (t.core n.val).regs (nextCtl s n) r.contribs

/-- A binary32 code's place in the order of R184: -Inf, negative finite, -0, +0, positive finite, +Inf. -/
def codeOrder (x : BitVec 32) : Int := if x.msb = true then -(x.toNat % 2 ^ 31 : Nat) - 1 else x.toNat

/-- R183, R184, R209, R210, R212: a comparison in the order of R184, in which -0 is below +0, is false of a NaN; it writes the
enabled bits of mask register VD[2:0] (M0 is never written) and nothing else; a reduction writes its result to lane 0 of VD (and the
winner's lane to lane 1), zeroes every other lane, and changes nothing else. With no lane enabled VRED_MAX and VRED_MIN have no
winner: the two lanes are a free value (notes/assumptions/2.md). -/
def Obligations.ComparesAndReductions : Prop :=
  (∀ p ∈ [((fun n f => Instr.vcmpEq n f : Fin 16 → VFields → Instr), 0x20, fun a b => !isNan32 a && !isNan32 b && decide (a = b)),
          (fun n f => .vcmpLt n f, 0x21, fun a b => !isNan32 a && !isNan32 b && decide (codeOrder a < codeOrder b)),
          (fun n f => .vcmpLe n f, 0x22, fun a b => !isNan32 a && !isNan32 b && decide (codeOrder a ≤ codeOrder b)),
          (fun n f => .vcmpUn n f, 0x23, fun a b => isNan32 a || isNan32 b)],
     ∀ (s : State) (n : Fin 16) (f : VFields) (l : Fin 4) (r : Running) (rest : List Running), atInstr s n p.2.1 f l r rest →
       let g := (s.core n.val).regs
       ∃ t, exec (p.1 n f) s = .next t ∧ instrDone s t n l r rest (t.core n.val).regs (nextCtl s n) r.contribs ∧
         (t.core n.val).regs.v = g.v ∧ (t.core n.val).regs.p = g.p ∧
         ∀ (m : BitVec 3) (i : Fin 256), ((t.core n.val).regs.mask m).getLsbD i.val =
           if m = f.vd.extractLsb' 0 3 ∧ m ≠ 0 ∧ (g.mask f.mask).getLsbD i.val = true
           then p.2.2 (g.lane f.va i.val) (g.lane f.vb i.val) else (g.mask m).getLsbD i.val) ∧
  (∀ (s : State) (n : Fin 16) (f : VFields) (l : Fin 4) (r : Running) (rest : List Running),
     let g := (s.core n.val).regs
     let enabled := (List.range 256).filter fun i => (g.mask f.mask).getLsbD i
     let reduced (t : State) (x y : BitVec 32) : Prop :=
       (t.core n.val).regs.m = g.m ∧ (t.core n.val).regs.p = g.p ∧ ∀ (v : BitVec 5) (i : Fin 256),
         (t.core n.val).regs.lane v i.val =
           if v = f.vd then (if i.val = 0 then x else if i.val = 1 then y else 0) else g.lane v i.val
     let done (b t : State) : Prop := instrDone b t n l r rest (t.core n.val).regs (nextCtl s n) r.contribs
     (atInstr s n 0x60 f l r rest → ∃ t, exec (.vredAdd n f) s = .next t ∧ reduced t (treeSum (g.masked f)) 0 ∧ done s t) ∧
     (atInstr s n 0x61 f l r rest → ∃ t, exec (.vredAddx n f) s = .next t ∧ reduced t (exactSum (g.masked f)) 0 ∧ done s t) ∧
     (∀ p ∈ [(Instr.vredMax n f, 0x62, maxCand), (Instr.vredMin n f, 0x63, minCand)], atInstr s n p.2.1 f l r rest →
       (∀ i is, enabled = i :: is →
         let w := is.foldl (fun b j => p.2.2 b (g.lane f.va j, j)) (g.lane f.va i, i)
         ∃ t, exec p.1 s = .next t ∧ reduced t (if isNan32 w.1 = true then qnan else w.1) (BitVec.ofNat 32 w.2) ∧ done s t) ∧
       (enabled = [] →
         ∃ t x y, exec p.1 s = .next t ∧ reduced t x y ∧ done { s with freeCtr := s.freeCtr + 1 } t)))

/-- The address of lane `i` of each load or store (R210). -/
def laneAddr (kind : Nat) (f : VFields) (g : VRegs) (i : Nat) : Nat :=
  let p := (g.ptr f.pa).toNat
  if kind = 0 then p + f.imm.toNat + 4 * i else if kind = 1 then p + i * f.imm.toNat else p + 4 * (g.lane f.va i).toNat

/-- R204, R210, R221: a load takes each enabled lane from its address; a store writes each enabled lane of VA (VSCATTER: of VB;
which register is stored is the model's reading, notes/assumptions/11.md), in ascending order, and no byte of any memory
outside the four bytes of an enabled lane changes. -/
def Obligations.LoadsAndStores : Prop :=
  ∀ (s : State) (n : Fin 16) (f : VFields) (l : Fin 4) (r : Running) (rest : List Running),
    let c : Cmd := ⟨l, 0x10 + n.val, r.ctx, r.entry, r.step⟩
    let g := (s.core n.val).regs
    (∀ p ∈ [(Instr.vld n f, 0x70, 0), (Instr.vlds n f, 0x72, 1), (Instr.vgather n f, 0x74, 2)], atInstr s n p.2.1 f l r rest →
      ∃ t, exec p.1 s = .next t ∧ instrDone s t n l r rest (t.core n.val).regs (nextCtl s n) r.contribs ∧
        lanesWritten g (t.core n.val).regs f
          fun i => BitVec.ofNat 32 (leNat (readCore s c .empty n.val (laneAddr p.2.2 f g i) 4).1)) ∧
    (∀ p ∈ [(Instr.vst n f, 0x71, 0, f.va), (Instr.vsts n f, 0x73, 1, f.va), (Instr.vscatter n f, 0x75, 2, f.vb)],
      atInstr s n p.2.1 f l r rest →
      let ws := (((g.enabled f).foldl (fun a i =>
        writeCore s c a 0 n.val (laneAddr p.2.2.1 f g i) (leBytes 4 (g.lane p.2.2.2 i).toNat)) .empty).writes).reverse
      ∃ t, exec p.1 s = .next t ∧ instrDone (s.applyWrites ws) t n l r rest g (nextCtl s n) r.contribs ∧
        t.nearMem = s.nearMem ∧ t.hubMem = s.hubMem ∧ t.farMem = s.farMem ∧
        ∀ a, (∀ i ∈ g.enabled f, a < n.val * 2 ^ 26 + laneAddr p.2.2.1 f g i ∨
            n.val * 2 ^ 26 + laneAddr p.2.2.1 f g i + 4 ≤ a) → memGet t.coreMem a = memGet s.coreMem a)

/-- R210, R213: pointers, loops, FENCE and VTAG: what each leaves in P[PA], the open loops and the conversion context; no lane,
no mask and no byte of memory changes. That a LOOP with IMM 0 skips its body, and that a fifth nested LOOP or an ENDLOOP without a loop
stops the program, is the model's choice (notes/assumptions/11.md). -/
def Obligations.ControlInstructions : Prop :=
  ∀ (s : State) (n : Fin 16) (f : VFields) (l : Fin 4) (r : Running) (rest : List Running),
    let g := (s.core n.val).regs
    let ctl := nextCtl s n
    let done (i : Instr) (regs : VRegs) (ctl' : Control) : Prop :=
      ∃ t, exec i s = .next t ∧ instrDone s t n l r rest regs ctl' r.contribs
    (atInstr s n 0x80 f l r rest → done (.pset n f) (g.setPtr f.pa (f.imm.setWidth 64)) ctl) ∧
    (atInstr s n 0x81 f l r rest → done (.padd n f) (g.setPtr f.pa (g.ptr f.pa + f.imm.signExtend 64)) ctl) ∧
    (atInstr s n 0x82 f l r rest → f.imm ≠ 0 →
      done (.loop n f) g { ctl with loops := (ctl.ip, f.imm.toNat) :: ctl.loops }) ∧
    (atInstr s n 0x82 f l r rest → f.imm = 0 →
      done (.loop n f) g { ctl with
        ip := (skipLoop s ⟨l, 0x10 + n.val, r.ctx, r.entry, r.step⟩ n.val ctl ctl.length ctl.ip 0 .empty).1 }) ∧
    (∀ start left more, ctl.loops = (start, left) :: more → atInstr s n 0x83 f l r rest →
      done (.endloop n f) g
        (if 1 < left then { ctl with ip := start, loops := (start, left - 1) :: more } else { ctl with loops := more })) ∧
    (atInstr s n 0x84 f l r rest → done (.fence n f) g ctl) ∧
    (atInstr s n 0x42 f l r rest → done (.vtag n f) g { ctl with
      tensor := f.imm.toNat % 2 ^ 16, row := (g.ptr f.pa).toNat % 2 ^ 22, col := (g.ptr f.pa).toNat / 2 ^ 32 % 2 ^ 20 }) ∧
    (∀ (p : BitVec 4) (x : BitVec 64) (q : BitVec 4), (g.setPtr p x).ptr q = if q = p then x else g.ptr q)

/-- R208, R213: VCVT_N narrows each enabled lane of VA to bfloat16 with the options of IMM and the conversion context, bits [31:16]
zero, and its counts join the command's contribution to the context's tensor; with no lane enabled it converts nothing. END: the
program is over, the registers stay, the core is at rest, and its command waits only for its completion, its conversions one
contribution each; no byte of memory changes. -/
def Obligations.NarrowAndEnd : Prop :=
  (∀ (s : State) (n : Fin 16) (f : VFields) (l : Fin 4) (r : Running) (rest : List Running) (j : Job),
     (s.lvl l).job = some j → atInstr s n 0x41 f l r rest →
     let k := s.core n.val
     let o : CvtOpt := ⟨f.imm.getLsbD 2, f.imm.getLsbD 0, f.imm.getLsbD 1⟩
     let step := k.ctl.step.getD (BitVec.ofNat 64 r.step)
     let lane (i : Nat) (ct : Contribution) : Nat × Contribution :=
       narrowElem o j.seed step k.ctl.tensor ⟨0xFFFF, k.ctl.row, k.ctl.col + i⟩ (k.regs.lane f.va i).toNat ct
     let all := (k.regs.enabled f).foldl (fun ct i => (lane i ct).2)
       { Contribution.start k.ctl.tensor with step := k.ctl.step.map BitVec.toNat }
     ∃ t, exec (.vcvtN n f) s = .next t ∧
       lanesWritten k.regs (t.core n.val).regs f (fun i => BitVec.ofNat 32 (lane i (.start 0)).1) ∧
       instrDone s t n l r rest (t.core n.val).regs (nextCtl s n)
         (if k.regs.enabled f = [] then r.contribs else addConv r.contribs (some all))) ∧
  (∀ (s : State) (n : Fin 16) (f : VFields) (l : Fin 4) (r : Running) (rest : List Running), atInstr s n 0x85 f l r rest →
     ∃ t rf, exec (.endProgram n f) s = .next t ∧ NotedIn l
       ((s.setCore n.val { s.core n.val with ctl := .idle }).updEng l (0x10 + n.val) fun st => { st with
         running := { r with after := .none, refused := rf, contribs := r.contribs.map fun x => x.count 13 1 } :: rest }) t)

/-! ### Ore Pass, stem, Crusher, Picking Belt and copy engines -/

/-- A write that a command makes: its index, its space, its address there and its bytes, before it is cut at 64-byte lines. -/
abbrev Held := Nat × Space × Nat × List Byte

/-- A command may write a line of a core store or of near memory (R106, R290, R399, R439). -/
def mayHold (u : State) (c : Cmd) (space : Space) (addr : Nat) : Bool :=
  match space with
  | .core n => mayWrite (u.shares c.lvl) (u.chutes c.lvl) c.ctx n (addr / 64 * 64) false
  | .near => u.nearOk c.lvl addr && !u.isFrozen c.lvl addr
  | .hub => true
  | .far => false

/-- The writes that a command holds, cut at 64-byte lines, in order; what it may not write is discarded. -/
def heldWrites (u : State) (c : Cmd) (ws : List Held) : List Write :=
  ws.flatMap fun x => ((piecesOf x.2.2.1 x.2.2.2).filter fun p => mayHold u c x.2.1 p.1).map fun p => ⟨x.1, x.2.1, p.1, p.2⟩

/-- The gradient of token `i` of a SWEEP2, one element for each column of the chunk (R305, R306, R310). -/
def gradRow (u : State) (c : Cmd) (x : OreCtx) (i : Nat) : List (BitVec 32) :=
  let d := x.d
  let t := (readToken u x .empty i).1
  let zs := (readTile u x .empty d.studentTile i).1
  let zt := if d.top then [] else (readTile u x .empty d.teacher i).1
  let row := CacheRow.ofBytes (if d.top then (readHub u .empty (x.cacheAt i) d.cacheRow).1 else [])
  let stat (o : Nat) : BitVec 32 := BitVec.ofNat 32 (listLe (readCore u c .empty d.dstCore (d.stats + 64 * i) 64).1 o 4)
  let w := BitVec.ofNat 32 (leNat (if d.useWeight then (readCore u c .empty d.dstCore (d.weight + 4 * i) 4).1 else []))
  (List.range d.width).map fun j =>
    if t.masked = true then 0
    else if t.nonfinite = true ∨ t.badTarget = true ∨ (d.useWeight = true ∧ isFinite32 w = false) then qnan
    else gradEntry d (stat 0x0C) (stat 0x08) (stat 0x24) (if d.useWeight then fmul d.wCe w else d.wCe) t.target.toNat
      (4096 * d.chunk + j) (zs.getD j 0) (zt.getD j 0) (if d.top then some (cacheProb d row (4096 * d.chunk + j)) else none)

/-- R293 to R306: a ready entry that meets the rules begins its Ore Pass command, which holds its writes for the completion; nothing
else of the part changes. SPAN_OPEN writes the span header, a fresh state for each token, masked or with its target judged, and in
top-K mode an empty cache. STAGE copies each source row into its tile columns bit for bit. SWEEP1 takes each token that is still
counted through the chunk (`sweepToken`, and in top-K mode `mergeTop`) and raises NEXT_CHUNK. FINALISE writes each token's statistics
(`statRecord`) into the student core, prepares the cache (`finalCache`), and sets FINAL. SWEEP2 writes the gradient of each token
(`gradRow`) in its element format into the student core, and makes one contribution, of every element's conversion. -/
def Obligations.OrePassBegins : Prop :=
  ∀ (s : State) (l : Fin 4) (e : Nat) (r : Ready),
    let d := OreDesc.ofNat (r.img.descNat r.en 128)
    let u := s.dispatched l e r
    let c := r.cmd l e
    let base := (u.passArea l).1
    let head := SpanHeader.ofBytes (readHub u .empty (base + d.state) 64).1
    let x : OreCtx := ⟨d, base, head⟩
    let token (i : Nat) : TokenState := (readToken u x .empty i).1
    let cache (i : Nat) : CacheRow := CacheRow.ofBytes (readHub u .empty (x.cacheAt i) d.cacheRow).1
    let tokens (f : Nat → List Held) : List Held := (List.range d.tokens).flatMap f
    let begins (i : Instr) (ws : List Held) (cs : List Contribution) : Prop :=
      ∃ t q, exec i s = .next t ∧ Dispatches s t l r [q] ∧ q.begun s e r r.lstep ∧ q.after = .none ∧
        q.writes = heldWrites u c ws ∧ q.contribs = cs
    (s.ready l e isOreEng 0x01 = some r → oreValid true false (fun _ => true) u l r = true →
      begins (.spanOpen l e)
        ((0, .hub, base + d.state, SpanHeader.bytes ⟨0, d.vocab, d.tokens, d.k, d.mode, false⟩) :: tokens fun i =>
          let y := leNat (readCore u c .empty d.dstCore (d.target + 4 * i) 4).1
          let t : TokenState :=
            { mtT := none, mt1 := none, msT := none, ms1 := none, stT := .zero, st1 := .zero, ssT := .zero, ss1 := .zero,
              xf := .zero, xr := .zero, zt := 0, zs := 0, target := BitVec.ofNat 32 y, masked := decide (y = 0xFFFFFFFF),
              nonfinite := false, badTarget := decide (y ≠ 0xFFFFFFFF) && decide (d.vocab ≤ y) }
          [(0, .hub, x.tokenAt i, t.parts.1), (0, .hub, x.tokenAt i + 0x60, t.parts.2)] ++
            if d.mode = 1 then [(0, .hub, x.cacheAt i, List.replicate 16 0)] else []) []) ∧
    (s.ready l e isOreEng 0x02 = some r → oreValid false true (fun _ => true) u l r = true →
      begins (.stage l e) (tokens fun i =>
        [(i, .hub, base + (if d.student = true then d.studentTile else d.teacher) + (i * 4096 + d.colFirst) * d.e,
          (readCore u c .empty d.srcCore (d.src + i * d.srcStride) (d.colCount * d.e) (!d.student)).1)]) []) ∧
    (s.ready l e isOreEng 0x03 = some r → oreValid false false (fun x => decide (x.d.chunk = x.head.next)) u l r = true →
      begins (.sweep1 l e) ((tokens fun i =>
        let zt := (readTile u x .empty d.teacher i).1
        let t := sweepToken d (token i) zt (readTile u x .empty d.studentTile i).1
        if (token i).out = true then []
        else (i, .hub, x.tokenAt i, t.bytes) ::
          if d.mode = 1 ∧ t.nonfinite = false then
            [(i, .hub, x.cacheAt i, { cache i with entries := mergeTop d.k (4096 * d.chunk) (cache i).entries zt }.bytes)]
          else []) ++ [(d.tokens, .hub, base + d.state, leBytes 4 (head.next + 1))]) []) ∧
    (s.ready l e isOreEng 0x04 = some r →
      oreValid false false (fun x => decide (x.d.chunks ≤ x.head.next) && !x.head.final) u l r = true →
      begins (.finalise l e) ((tokens fun i =>
        let t := token i
        let f := finalCache d (lse2 t.mtT t.stT) (cache i)
        if d.mode = 1 ∧ t.out = false then
          [(i, .hub, x.cacheAt i, f.1.bytes), (i, .core d.dstCore, d.stats + 64 * i, statRecord d t f.2)]
        else [(i, .core d.dstCore, d.stats + 64 * i, statRecord d t 0)]) ++
        [(d.tokens, .hub, base + d.state, SpanHeader.bytes { head with final := true })]) []) ∧
    (s.ready l e isOreEng 0x05 = some r → oreValid false false (fun x => x.head.final) u l r = true →
      let enc : Encoding := if d.gradF32 = true then .f32 else .bf16
      let conv (g : BitVec 32) : Conv := convertNum enc ⟨false, false, false⟩ 0 (f32Num g)
      let all := (List.range d.tokens).foldl (fun ct i => (gradRow u c x i).zipIdx.foldl (fun ct g =>
        ct.converted enc ⟨d.chunk, d.rowOrigin + i, 4096 * d.chunk + g.2⟩ (conv g.1)) ct) (Contribution.start d.tensor)
      begins (.sweep2 l e) (tokens fun i =>
        [(i, .core d.dstCore, d.grad + i * d.gradStride,
          (gradRow u c x i).flatMap fun g => leBytes (if d.gradF32 = true then 4 else 2) (conv g).code)]) [all.count 13 1])

/-- R277 to R280, R400: STEM_CONV of a ready entry with a valid descriptor loads the filter into the engine's own weight memory and
begins a command that delivers its items one by one; with SRC 0 it takes each from the Crusher and holds no write; otherwise every
item is worked at the dispatch: it is read, each output is a full-form pass over its tap row (`StemDesc.output`), and the rows and the
mask that `StemDesc.putItem` makes of it are held. Its corrected reads of near memory are counted. No other engine's weight memory
and no byte of another memory changes. -/
def Obligations.StemConvBegins : Prop :=
  ∀ (s : State) (l : Fin 4) (e : Nat) (r : Ready), s.ready l e isStem 0x01 = some r →
    let d := StemDesc.ofNat (r.img.descNat r.en 64)
    d.ok = true →
    let n := 2 * d.outC * (d.kh * d.kw * d.cIn)
    let u := s.dispatched l e r
    let c := r.cmd l e
    let wb := readNear u c .empty d.wt n
    ∃ t q, exec (.stemConv l e) s = .next t ∧
      let v : State := { u with stemMem := t.stemMem }
      let a := if d.src = 0 then wb.2 else (List.range d.items).foldl (fun a n =>
        d.putItem v c (d.readItem v c a n).2 n (v.stemWeights r.en.engine d) (d.readItem v c a n).1) wb.2
      Begins (v.countReads a.weak) t l r.en.engine q ∧ q.begun s e r r.lstep ∧ q.contribs = [] ∧ q.writes = a.writes.reverse ∧
      (d.src = 0 → q.writes = []) ∧
      q.after = .deliver { tally := d.tally, next := 0, left := d.items, dead := false, fail := none, logs := [], hands := [],
                           gives := none, more := false, takes := decide (d.src = 0), filter := wb.1 } ∧
      (∀ i < n, memGet t.stemMem (stemKey r.en.engine + i) = wb.1.getD i 0) ∧
      ∀ a, (a < stemKey r.en.engine ∨ stemKey r.en.engine + n ≤ a) → memGet t.stemMem a = memGet s.stemMem a

/-- R247, R254, R263, R265, R266: CLIP, IMAGE_BATCH and AUDIO_BATCH of a ready entry with a valid descriptor begin a command that
holds the writes of its items, decoded in order, and delivers one output after another. Where no read of far memory fails it has all
its outputs. From the read that fails onward it has none: of a batch, what it holds belongs to the outputs before it, and they are
delivered. Far memory is as other agents have left it, and no other byte of memory changes. What the standards make of a bitstream
is open to the model (notes/assumptions/19.md). -/
def Obligations.CrusherBegins : Prop :=
  ∀ p ∈ [((fun l e env => Instr.clip l e env : Fin 4 → Nat → FarEnv → Instr), isVideo, CrusherKind.clip),
         (fun l e env => .imageBatch l e env, fun x => decide (x = 0x30), .image),
         (fun l e env => .audioBatch l e env, fun x => decide (x = 0x31), .audio)],
    ∀ (s : State) (l : Fin 4) (e : Nat) (env : FarEnv) (r : Ready), s.ready l e p.2.1 0x01 = some r →
      let d := MediaDesc.ofNat (r.img.descNat r.en 128)
      d.ok p.2.2 = true →
      let u := (s.dispatched l e r).withEnv env
      let c := r.cmd l e
      let log := u.replayLog l
      let none_ : Crushing := ⟨.empty, none, [], [], false, 0, false, false⟩
      let w := match p.2.2 with
        | .clip => clipItem u c d log none_
        | .image => (List.range d.items).foldl (fun w n => w.step fun w => imageItem u c d log w n) none_
        | .audio => (List.range d.items).foldl (fun w n => w.step fun w => audioItem u c d log w n) none_
      let outs := if p.2.2 = .clip then d.frames else d.items
      ∃ t q, exec (p.1 l e env) s = .next t ∧ Begins u t l r.en.engine q ∧ q.begun s e r r.lstep ∧
        q.contribs = [] ∧ q.writes = w.acc.writes.reverse ∧
        q.after = .deliver { tally := d.tally, next := 0, left := w.outs, dead := w.dead, fail := w.fail, logs := w.logs,
                             hands := w.hands, gives := if d.dest = 2 then some d.unit else none, more := w.more, takes := false,
                             filter := [] } ∧
        w.outs ≤ outs ∧ ((∀ key, u.far.fails key = none) → w.dead = false ∧ w.outs = outs) ∧
        (w.dead = true → p.2.2 ≠ .clip → ∀ x ∈ q.writes, x.at_ < w.outs)

/-- The engine's command `r`, which delivers outputs as `d` says, delivers the next one between `s` and `t` (R265, R280): what
it holds for that output becomes visible, one output fewer is left, what is handed to a stem engine joins its queue, what the log and
the events take at it is noted, EV_MEDIA_ERROR where it is the output of a failed item, and PROGRESS_TALLY is signalled once. No byte
outside that output's writes changes. -/
def deliversNext (s t : State) (l : Fin 4) (eng : Nat) (r : Running) (rest : List Running) (d : Delivery) : Prop :=
  let (ws, later) := r.writes.partition fun w => decide (w.at_ < d.next + 1)
  let r' := { r with writes := later, progress := max r.progress (d.next + 1),
                     after := .deliver { d with next := d.next + 1, left := d.left - 1 } }
  let hs := (d.hands.filter fun x => x.1 = d.next).map Prod.snd
  let v := (s.applyWrites ws).updEng l eng fun st => { st with running := r' :: rest }
  let w := match d.gives with
    | some k => v.updLvl l fun ls => { ls with handed := tabPut [] ls.handed k (tabGet [] ls.handed k ++ hs) }
    | none => v
  let entries := d.logs.filter fun x => x.1 = d.next
  let failed := d.fail.any fun x => x.1 = d.next
  ∃ u, NotedIn l w u ∧ (entries = [] → failed = false → u = w) ∧
    (∀ item status, d.fail = some (d.next, item, status) → ∃ ev, Raises s u ev ∧ ev.code = 0x5001 ∧ ev.level = some l ∧ ev.unit = eng ∧
      ev.aux = status ∧ ev.entry = r.entry ∧ ev.a = BitVec.ofNat 64 item) ∧ signalled u t l d.tally r.entry

/-- R265, R280, R281: a delivery of a Crusher engine, or of a stem engine, while outputs are left; with none left nothing happens.
The Crusher holds back the rows of an output while the stem engine they go to does not take them. A stem command that takes its
rows from the Crusher waits while nothing is handed over, and otherwise works the oldest output handed over (`StemDesc.putItem`, on
its rows and none beyond) and delivers it; one of another shape makes the command invalid, and it is abandoned with its time
charged. -/
def Obligations.Deliveries : Prop :=
  ∀ (s : State) (l : Fin 4) (eng : BitVec 8) (r : Running) (rest : List Running) (d : Delivery),
    ((s.lvl l).eng eng.toNat).running = r :: rest → r.after = .deliver d →
    let handed := tabGet [] (s.lvl l).handed (eng.toNat - 0x34)
    (d.left = 0 → exec (.crusherOutputDelivery l eng) s = .next s ∧ exec (.stemItemDelivery l eng) s = .next s) ∧
    (0x28 ≤ eng.toNat → eng.toNat < 0x32 → d.left ≠ 0 →
      ((∀ k, d.gives = some k → (s.lvl l).stemTakes k = true) →
        ∃ t, exec (.crusherOutputDelivery l eng) s = .next t ∧ deliversNext s t l eng.toNat r rest d) ∧
      (∀ k, d.gives = some k → (s.lvl l).stemTakes k = false → exec (.crusherOutputDelivery l eng) s = .next s)) ∧
    (isStem eng.toNat = true → d.left ≠ 0 → d.gives = none →
      (d.takes = false → ∃ t, exec (.stemItemDelivery l eng) s = .next t ∧ deliversNext s t l eng.toNat r rest d) ∧
      (d.takes = true → handed = [] → exec (.stemItemDelivery l eng) s = .next s) ∧
      (∀ x more img, d.takes = true → handed = x :: more → (s.lvl l).image = some img →
        let sd := StemDesc.ofNat (img.descNat (img.entries.getD r.entry default) 64)
        let suits := x.channels = sd.cIn ∧ x.classH = sd.inH ∧ x.classW = sd.inW ∧ x.format = 0
        let taken := s.updLvl l fun ls => { ls with handed := tabPut [] ls.handed (eng.toNat - 0x34) more }
        let inp : StemInput := (List.range sd.inH).map fun y =>
          if y < x.rows then some ((x.codes.drop (y * sd.inW * sd.cIn)).take (sd.inW * sd.cIn)) else none
        let a := sd.putItem taken ⟨l, eng.toNat, r.ctx, r.entry, r.step⟩ .empty d.next (s.stemWeights eng.toNat sd) inp
        ∃ t, exec (.stemItemDelivery l eng) s = .next t ∧
          (suits → ∃ v,
            let r' := { r with writes := r.writes ++ a.writes.reverse, refused := a.refused.foldl (fun xs y => addLine y xs) r.refused }
            NotedIn l (taken.updEng l eng.toNat fun st => { st with running := r' :: rest }) v ∧
              deliversNext v t l eng.toNat r' rest d) ∧
          (¬suits → Raises s t (s.event 0x2012 (some l) eng.toNat 0 r.entry 0 0 0) ∧
            Recorded l ((taken.updEng l eng.toNat fun st => { st with running := rest }).chargeRunning l eng.toNat r) t)))

/-- The work of a SAMPLE (R324 to R328): each row in order (`workRow`), its token to the token cores, then the masks of the rows that
have stopped, by group of the form's rows, to the mask cores. -/
def sampleWork (u : State) (c : Cmd) (d : SampleDesc) (seed : BitVec 64) : Acc :=
  let sb := readNear u c .empty d.segAddr (16 * d.segs)
  let segs := (List.range d.segs).map fun i => Segment.ofNat (listLe sb.1 (16 * i) 16)
  let p := (List.range d.rows).foldl (fun (p : Acc × List Bool) i =>
    let w := workRow u c d segs seed p.1 i
    ((coresOf d.tokenCores).foldl (fun a n => writeCore u c a i n (d.token + 4 * i) (leBytes 4 w.token)) w.acc, p.2 ++ [w.stopped]))
    (sb.2, [])
  (List.range (ceilDiv d.rows d.span)).foldl (fun a g =>
    (coresOf d.maskCores).foldl (fun a n => writeCore u c a (min ((g + 1) * d.span) d.rows - 1) n (d.mask + 32 * g)
      (maskOf fun k => decide (k < d.span) && p.2.getD (g * d.span + k) false)) a) p.1

/-- The gating logits of token `t` of a ROUTE, none where it is masked (R329, R330). -/
def routeLogits (u : State) (c : Cmd) (d : RouteDesc) (t : Nat) : Option (List (BitVec 32)) :=
  let tm := if d.useMask then (readCore u c .empty d.srcCore d.tmask (ceilDiv d.tokens 8)).1 else []
  if d.useMask = true ∧ bitAt (tm.getD (t / 8) 0).toNat (t % 8) = true then none
  else
    let lb := (readCore u c .empty d.srcCore (d.src + t * d.stride) ((if d.f32 then 4 else 2) * d.experts)).1
    some ((List.range d.experts).map fun i =>
      if d.f32 then BitVec.ofNat 32 (listLe lb (4 * i) 4) else widenBf16 (BitVec.ofNat 16 (listLe lb (2 * i) 2)))

/-- The output of image `i` of a DETECT (R332 to R334): its candidates' boxes, the pairs at or above SCORE_MIN of a class that is not
the background and a box that is finite, the first PRE_K of them, suppressed. -/
def detectImage (u : State) (c : Cmd) (d : DetectDesc) (i : Nat) : List Byte :=
  let w := if d.f32 then 4 else 2
  let anchors := if d.deltas then (readQuads u c .empty d.anchor d.n).1 else []
  let boxes := (readQuads u c .empty (d.box + 16 * d.n * i) d.n).1.zipIdx.map fun b => d.decodeBox b.1 (anchors.getD b.2 [])
  let scores := (readEntries u c .empty (d.score + d.n * d.classes * w * i) w (d.n * d.classes)).1.map fun x =>
    if d.f32 then BitVec.ofNat 32 x else widenBf16 (BitVec.ofNat 16 x)
  let pairs := scores.zipIdx.filter fun p =>
    decide (p.2 % d.classes ≠ d.bg) && ordLe d.scoreMin p.1 && (boxes.getD (p.2 / d.classes) default).finite
  d.output boxes (d.keep boxes (pairs.foldl (fun cs p => (rankInsert p cs).take d.preK) [])) pairs.length
    (boxes.countP fun b => !b.finite)

/-- R320 to R340, R329 to R334, R400: SAMPLE, ROUTE and DETECT of a ready entry that meets the rules begin a command that holds its
writes for the completion, and its corrected reads of near memory are counted. SAMPLE's are those of `sampleWork`; its completion is
the step boundary of every batch whose rows it samples, in the step and cycle of its schedule entry. ROUTE's are the slot table of
each expert, filled choice by choice, at the place the map gives it, and the reverse entries. DETECT's are the output of each
image. -/
def Obligations.BeltBegins : Prop :=
  ∀ (s : State) (l : Fin 4) (e : Nat) (r : Ready),
    let u := s.dispatched l e r
    let c := r.cmd l e
    let begins (i : Instr) (after : After) (ws : List Write) : Prop :=
      ∃ t q weak, exec i s = .next t ∧ Begins (u.countReads weak) t l r.en.engine q ∧ q.begun s e r r.lstep ∧ q.after = after ∧
        q.contribs = [] ∧ q.writes = ws ∧ ∀ a ∈ weak, a / 64 ∈ s.mem.weak
    (s.ready l e isBelt 0x01 = some r → sampleValid u l e r = true →
      let d := SampleDesc.ofNat (r.img.descNat r.en 64)
      let bs := (List.range r.job.decl.batches.length).filter fun i =>
        listLe (r.job.decl.batches.getD i default).raw 0x20 8 = d.rowAddr
      begins (.sample l e) (if bs = [] then .none else .boundary bs (r.step + r.job.firstStep) r.en.cycle)
        (sampleWork u c d r.job.seed).writes.reverse) ∧
    (s.ready l e isBelt 0x02 = some r →
      let d := RouteDesc.ofNat (r.img.descNat r.en 64)
      d.ok = true →
      let biases := if d.useBias then (readEntries u c .empty d.bias 4 d.experts).1.map (BitVec.ofNat 32) else []
      let tables := fillSlots d ((List.range d.tokens).map fun t =>
        match routeLogits u c d t with
        | some gs => routeToken d biases gs
        | none => [])
      let places := (readEntries u c .empty d.map 8 d.experts).1
      begins (.route l e) .none (heldWrites u c
        ((places.zipIdx.map fun m => (ceilDiv d.tokens 64, .core (bitField m.1 0 4), bitField m.1 4 26,
          (tabGet ⟨[], 0⟩ tables.1 m.2).bytes d m.2 r.lstep)) ++
        [(ceilDiv d.tokens 64, .core d.revCore, d.rev,
          (List.range (d.tokens * d.k)).flatMap fun i => leBytes 4 (tabGet 0xFFFFFFFF tables.2 i))]))) ∧
    (s.ready l e isBelt 0x03 = some r →
      let d := DetectDesc.ofNat (r.img.descNat r.en 64)
      d.ok = true → begins (.detect l e) .none (heldWrites u c ((List.range d.images).map fun i =>
        (i, .near, d.out + (16 + 32 * d.maxOut) * i, detectImage u c d i))))

/-- R400, R402 to R404, R237 to R240, R268 to R273: a copy command, or a TAP_GATHER, of a ready entry with a valid descriptor begins;
its writes are those of its rows in ascending order, of a copy each read finding what the command has written before, and they wait
for the completion. A TAP_GATHER writes each tap row's element codes (`gatherRow`), transposed or packed, with their scales, and one
bit for each pixel. Reads of near memory that the devices corrected are counted. A row with a wrong ZRC form is reported and the Level
contained (R240). -/
def Obligations.CopiesBegin : Prop :=
  (∀ p ∈ [((fun l e => Instr.move l e : Fin 4 → Nat → Instr), 0x01, CopyOp.move),
          (fun l e => .zrcPack l e, 0x02, .pack), (fun l e => .zrcUnpack l e, 0x03, .unpack), (fun l e => .fill l e, 0x04, .fill)],
    ∀ (s : State) (l : Fin 4) (e : Nat) (r : Ready), s.ready l e isCopyEng p.2.1 = some r →
      let d := CopyDesc.ofNat (r.img.descNat r.en 64)
      d.ok p.2.2 = true →
      let u := s.dispatched l e r
      let k := (List.range d.rows).foldl (copyRow p.2.2 (r.cmd l e) d) ⟨u, .empty, []⟩
      ∃ t q, exec (p.1 l e) s = .next t ∧ Begins (u.countReads k.acc.weak) t l r.en.engine q ∧ q.begun s e r r.lstep ∧ q.after = .none ∧
        q.contribs = [] ∧ q.writes = k.acc.writes.reverse ∧
        (∀ w ∈ q.writes, w.space = if d.dstKind = 1 then .near else .core d.dstCore) ∧
        (k.badRows ≠ [] → t.isContained l = true) ∧
        ∀ row ∈ k.badRows, ∃ ev, Raises s t ev ∧ ev.code = 0x3005 ∧ ev.level = some l ∧ ev.unit = r.en.engine ∧ ev.entry = e ∧
          ev.a = BitVec.ofNat 64 row) ∧
  (∀ (s : State) (l : Fin 4) (e : Nat) (r : Ready), s.ready l e isCopyEng 0x30 = some r →
    let d := GatherDesc.ofNat (r.img.descNat r.en 64)
    d.ok = true →
    let u := s.dispatched l e r
    let c := r.cmd l e
    let mask := if d.useInMask then (readCore u c .empty d.dstCore d.inMask (rowMaskBytes d.inH)).1 else []
    let row (m : Nat) : List Nat × List Nat × Bool × Acc := gatherRow u c d mask .empty m
    let rows : List Held := (List.range d.count).flatMap fun m =>
      if d.transposed = true then
        (row m).2.1.zipIdx.map fun x => (m, .core d.dstCore, d.dst + x.2 * d.rowStride + 2 * m, leBytes 2 x.1)
      else (m, .core d.dstCore, d.dst + m * d.rowStride, packCodes d.encoding (row m).2.1) ::
        if d.enc = 0 then []
        else [(m, .core d.dstCore, d.dstScale + m * (d.k / d.block), (row m).1.map (BitVec.ofNat 8))]
    let bits := (List.range d.count).map fun m => (row m).2.2.1
    let outMask : List Held := if d.writeOutMask = true then (List.range d.count).map fun m =>
        (m, .core d.dstCore, d.outMask + m / 8, outMaskBytes (readCore u c .empty d.dstCore (d.outMask + m / 8) 1).1
          ((bits.drop (m / 8 * 8)).take (m % 8 + 1)))
      else []
    ∃ t q weak, exec (.tapGather l e) s = .next t ∧ Begins (u.countReads weak) t l r.en.engine q ∧ q.begun s e r r.lstep ∧
      q.after = .none ∧ q.contribs = [] ∧ q.writes = heldWrites u c (rows ++ outMask) ∧ ∀ a ∈ weak, a / 64 ∈ s.mem.weak)

/-- R237, R238: unpacking what packing made gives the bytes back. A segment of 64 two-byte elements holds a presence word whose
bit i is 1 where element i is not 0x0000, the elements present in ascending order, and zero padding to 8 bytes; and neither
ZRC command makes a contribution to a ledger record; beside the dispatch it changes only the counts of corrected reads (R400). -/
def Obligations.ZrcRoundTrip : Prop :=
  (∀ bs : List Byte, bs.length = 128 →
    let seg := zrcSegment bs
    let bits := leNat (seg.take 8)
    let element (i : Nat) : List Byte := [bs.getD (2 * i) 0, bs.getD (2 * i + 1) 0]
    let present := (List.range 64).filter fun i => element i ≠ [0, 0]
    let n := 2 * present.length
    (∀ i < 64, bits.testBit i = decide (element i ≠ [0, 0])) ∧ (seg.drop 8).take n = present.flatMap element ∧
      seg.length = 8 + ceilDiv n 8 * 8 ∧ allZero (seg.drop (8 + n)) = true ∧ zrcExpand bits ((seg.drop 8).take n) = bs) ∧
  (∀ p ∈ [((fun l e => Instr.zrcPack l e : Fin 4 → Nat → Instr), 0x02, CopyOp.pack), (fun l e => .zrcUnpack l e, 0x03, .unpack)],
    ∀ (s : State) (l : Fin 4) (e : Nat) (r : Ready), s.ready l e isCopyEng p.2.1 = some r →
      (CopyDesc.ofNat (r.img.descNat r.en 64)).ok p.2.2 = true →
      ∃ t q weak, exec (p.1 l e) s = .next t ∧ Begins ((s.dispatched l e r).countReads weak) t l r.en.engine q ∧
        (∀ a ∈ weak, a / 64 ∈ s.mem.weak) ∧ q.contribs = [])

/-! ### The exchange engine and far memory -/

/-- What a ready exchange command of a job with the exchange works on: valid under R368, on the step that its entry is scheduled in,
so that slip changes no value (R24). -/
def exchangeAt (s : State) (l : Fin 4) (e : Nat) (r : Ready) (opcode : Nat) (x : ExchCtx) : Prop :=
  s.ready l e isExchange opcode = some r ∧ exchCtx (s.dispatched l e r) l e (r.step + r.job.firstStep) = some x ∧
    x.d.ok (s.dispatched l e r) l x.exch.region opcode = true

/-- A command of entry `e` has begun for a step between `u` and `t` and holds these writes, with what follows at its completion. -/
def exchangeBegins (u t : State) (l : Fin 4) (e : Nat) (r : Ready) (step : Nat) (ws : List Write) (after : After) : Prop :=
  ∃ q, Begins u t l r.en.engine q ∧ q.begun u e r step ∧ q.writes = ws ∧ q.after = after ∧ q.contribs = []

/-- R365, R376, R394: an exchange command that reads under R365 first reads its stamps, a GATHER of each shard what it takes. A
failed read, of a stamp or of what it works on, is not taken as absent: `failed`. Otherwise it still waits, or it has its writes and
what follows at its completion. -/
def underR365 (v : State) (c : Cmd) (x : ExchCtx) (op : Nat) (failed waits : Prop) (done : Acc → After → Prop) : Prop :=
  let stamps := exchangeLook v c x op
  (stamps.failedFar ≠ [] → failed) ∧
  (stamps.failedFar = [] → exchangeTry v c x op = none → waits) ∧
  (∀ a after, stamps.failedFar = [] → exchangeTry v c x op = some (a, after) →
    (a.failedFar ≠ [] → failed) ∧ (a.failedFar = [] → done a after))

/-- R370, R371, R380, R383, R417, R466: CONTRIBUTE. Where the own index is active and no replay runs, it holds its AMAX block and
gradient at offset 0x1000 of its slot of the step, then the header, and last the stamp, all of far memory, and its corrected reads
of near memory are counted; otherwise nothing. JOURNAL_READ reads an entry once: a failed read leaves it with nothing to write; a
gap is reported as EV_JOURNAL_GAP with the step asked for, and the job stops; otherwise it holds the payloads and the result block,
which its completion takes in. -/
def Obligations.ContributeAndJournal : Prop :=
  (∀ (s : State) (l : Fin 4) (e : Nat) (r : Ready) (x : ExchCtx), exchangeAt s l e r 0x01 x →
     let u := s.dispatched l e r
     let c := r.exchCmd l e
     let g := x.exch.region
     let own := x.job.ownIndex
     let grad := readNear u c .empty x.d.src (g.elements * g.c)
     let am := readNear u c grad.2 x.d.amax (4 * g.amax)
     let body := am.1 ++ List.replicate (4096 - am.1.length) 0 ++ grad.1
     let prev := if g.layout = 1 then 0 else (u.lvl l).digestOf x.step
     let head := contribHeader x.step own g.elements (crc64 body) prev g.amax
     let slot := g.slotAt x.step own
     let ws (i a : Nat) (bs : List Byte) : List Write := (writeFar u c .empty i a bs).writes.reverse
     ∃ t, exec (.contribute l e) s = .next t ∧
       let idle := x.job.replay.isSome = true ∨ own ∉ x.exch.activeAt x.step
       (idle → exchangeBegins u t l e r c.step [] .none) ∧
       (¬idle → exchangeBegins (u.countReads am.2.weak) t l e r c.step
         (ws 0 (slot + 0x1000) body ++ ws 1 (slot + 8) (head.drop 8) ++ ws stampAt slot (head.take 8)) .none)) ∧
  (∀ (s : State) (l : Fin 4) (e : Nat) (env : FarEnv) (changed : Bool) (r : Ready) (x : ExchCtx), exchangeAt s l e r 0x05 x →
     let u := (s.dispatched l e r).withEnv env
     let c := r.exchCmd l e
     let gap := journalGap u l x.exch.region x.d.replayStep changed
     let w := gatherWork u c x x.d.replayStep 0 true
     let failed := (u.readStamps c (x.exch.region.shardStamps x.d.replayStep)).failedFar ≠ [] ∨ w.1.failedFar ≠ []
     ∃ t, exec (.journalRead l e env changed) s = .next t ∧
       (failed → exchangeBegins u t l e r c.step [] .none) ∧
       (¬failed → gap = true → exchangeBegins u t l e r c.step [] .none ∧
         Raises s t (s.event 0x4005 (some l) 0 0 0 x.d.replayStep 0 0) ∧ ∃ j, (t.lvl l).job = some j ∧ j.stopPending = true) ∧
       (¬failed → gap = false → exchangeBegins u t l e r c.step w.1.writes.reverse (.result w.2 true)))

/-- R364, R365, R394: STAMP_REREAD of a waiting exchange command that may go on gives it the writes and the rest of its work; one
whose read fails is left with nothing to write; one that must still wait is charged the stamps it has read in vain, and nothing else
changes but what other agents have left in far memory. EXCHANGE_CLOSE of a CONTRIBUTE or REDUCE whose close has passed with its
stamp unwritten: it writes no stamp, and EV_EXCHANGE_LATE names its entry and pool step. In every other case neither changes
anything. -/
def Obligations.StampsAndCloses : Prop :=
  ∀ (s : State) (l : Fin 4) (r : Running) (rest : List Running) (c : Cmd) (x : ExchCtx) (op : Nat),
    ((s.lvl l).eng 0x60).running = r :: rest → s.exchangeRunning l = some (r, c, x, op) →
    (∀ env,
      let v := s.withEnv env
      let goesOn (f : Running → Prop) : Prop := ∃ t q, exec (.stampReread l env) s = .next t ∧ f q ∧ q.entry = r.entry ∧
        q.ctx = r.ctx ∧ q.step = r.step ∧ q.since = r.since ∧ q.noStamp = r.noStamp ∧ q.contribs = r.contribs ∧ q.overrun = r.overrun ∧
        NotedIn l (v.updEng l 0x60 fun st => { st with running := q :: rest }) t
      (r.after ≠ .waiting → exec (.stampReread l env) s = .next s) ∧
      (r.after = .waiting → underR365 v c x op (goesOn fun q => q.writes = [] ∧ q.after = .none)
        (exec (.stampReread l env) s = .next (v.updEng l 0x60 fun st => { st with
          running := { r with farBytes := r.farBytes + 8 * exchangeWaits v c x op } :: rest }))
        fun a after => goesOn fun q => q = { r with
          writes := a.writes.reverse, refused := a.refused, after := after, nearBytes := r.nearBytes + a.nearBytes,
          farBytes := r.farBytes + a.farBytes })) ∧
    let left := r.noStamp = false ∧ (r.after = .waiting ∨ ∃ w ∈ r.writes, w.at_ = stampAt)
    let passed := x.job.closeCount x.img c.step x.d.close < s.countNow x.job
    ((op = 1 ∨ op = 2) ∧ left ∧ passed →
      ∃ t, exec (.exchangeClose l) s = .next t ∧
        NotedIn l (s.updEng l 0x60 fun st => { st with running := { r with noStamp := true } :: rest }) t ∧
        Raises s t (s.event 0x4001 (some l) 0x60 0 r.entry x.step 0 0)) ∧
    (¬((op = 1 ∨ op = 2) ∧ left ∧ passed) → exec (.exchangeClose l) s = .next s)

/-- R400, R410, R416, R449 to R451, R454, R466: FAR_READ and FAR_WRITE of a ready entry with a valid descriptor: FAR_READ holds the
rows read (zeros where a read failed) for its local memory; FAR_WRITE the rows read there for far memory, and last its stamp.
SNAP_WRITE of a ready entry with a valid plan: in a replay, or in a step that neither INTERVAL nor a SNAP.TAKE makes due, it does
nothing; in a due step with a store of no known FORMAT it writes nothing and raises EV_SNAP_UNUSABLE; where a read of the store fails
it writes nothing; otherwise it zeroes the STAMP of the slot it takes, unless the Level is contained, and has it flushed at once, and
begins the command that makes the new generation there: the chunks of the sections, the section table, the chunks' digests, the header
and last its stamp. That a failed read of the store leaves it with nothing to write, and a refused write without a stamp, is the
model's choice (notes/assumptions/91.md). -/
def Obligations.FarMovesAndSnapshots : Prop :=
  (∀ (s : State) (l : Fin 4) (e : Nat) (env : FarEnv) (r : Ready),
     let d := MoveDesc.ofNat (r.img.descNat r.en 128)
     let c := r.cmd l e
     (s.ready l e isExchange 0x10 = some r → d.ok (s.windows l) false = true →
       let u := (s.dispatched l e r).withEnv env
       ∃ t, exec (.farRead l e env) s = .next t ∧
         exchangeBegins u t l e r r.lstep
           ((List.range d.rows).flatMap fun i =>
             (writeLocal u c .empty i (d.kind = 1) d.core (d.local_ + i * d.localStride)
               (readFar u c .empty (d.far + i * d.farStride) d.rowBytes).1).writes.reverse) .none) ∧
     (s.ready l e isExchange 0x11 = some r → d.ok (s.windows l) true = true →
       let u := s.dispatched l e r
       ∃ t weak, exec (.farWrite l e) s = .next t ∧ (∀ a ∈ weak, a / 64 ∈ s.mem.weak) ∧
         exchangeBegins (u.countReads weak) t l e r r.lstep
           (((List.range d.rows).flatMap fun i => (writeFar u c .empty i (d.far + i * d.farStride)
             (readLocal u c .empty (d.kind = 1) d.core (d.local_ + i * d.localStride) d.rowBytes).1).writes.reverse) ++
             (if d.stamp = true then (writeFar u c .empty stampAt d.stampAddr (leBytes 8 d.stampValue)).writes.reverse else []))
           .none)) ∧
  (∀ (s : State) (l : Fin 4) (e : Nat) (env : FarEnv) (r : Ready) (base interval : Nat) (plan : List Section),
     s.ready l e isExchange 0x20 = some r → snapDesc (s.dispatched l e r) l r.img r.en = some (base, interval, plan) →
     let pool := r.job.poolStep r.lstep
     let c := r.cmd l e
     let idle := r.job.replay.isSome = true ∨ ((pool - 1) % interval ≠ 0 ∧ r.job.snapTake = none)
     let u := (s.dispatched l e r).withEnv env
     let head := readFar u c .empty base 4096
     let store := Store.ofBytes base head.1
     let failed := head.2.failedFar ≠ [] ∨
       ∃ st, store = some st ∧ st.format = 3 ∧ (st.scan (u.windows l) u.far head.2).failedFar ≠ []
     ∃ t, exec (.snapWrite l e env) s = .next t ∧
       (idle → exchangeBegins (s.dispatched l e r) t l e r r.lstep [] .none) ∧
       (¬idle → failed → exchangeBegins u t l e r r.lstep [] .none) ∧
       (∀ st, ¬idle → ¬failed → store = some st → st.format = 3 →
         let slot := st.chooseSlot (u.windows l) u.far
         let at_ := st.slotAt slot
         let z := if u.isContained l = true then .empty else writeFar u c .empty 0 at_ (List.replicate 8 0)
         let v := (u.applyWrites z.writes.reverse).flushFar (u.windowsAt l st.base)
         let parts := plan.map fun x => (x, sectionOut x (readSection v c x .empty).1)
         let chunks := snapChunks parts
         let n := chunks.length
         let digests := chunks.flatMap fun ck => shaBytes (sha384 ck)
         let digest := shaBytes (sha384 (snapTable parts ++ digests))
         let header := generationHeader slot (pool - 1) plan.length n r.job.seed.toNat r.img.crc.toNat digest
           ((r.job.decl.exchange.map ExchangeDecl.index).getD 0xFFFF)
         let puts : List (Nat × Nat × List Byte) := chunks.zipIdx.map (fun p => (p.2, at_ + 2 ^ 26 * (p.2 + 1), p.1)) ++
           [(n, at_ + 0x1000, snapTable parts), (n, at_ + 0x2000, digests), (n, at_ + 8, header.drop 8)]
         let b := puts.foldl (fun a w => writeFar v c a w.1 w.2.1 w.2.2) .empty
         let whole := b.farBad = none ∧ z.farBad = none
         ∃ q weak, Begins (v.countReads weak) t l 0x60 q ∧ (∀ a ∈ weak, a / 64 ∈ u.mem.weak) ∧
           ({ q with noStamp := false } : Running).begun s e r r.lstep ∧ (q.noStamp = true ↔ ¬whole) ∧ q.contribs = [] ∧
           q.after = .snapshot (pool - 1) slot st.base digest r.job.snapTake ∧
           q.writes = b.writes.reverse ++ if whole then (writeFar v c .empty stampAt at_ (header.take 8)).writes.reverse else []) ∧
       ((¬idle ∧ ¬failed ∧ ∀ st, store = some st → st.format ≠ 3) →
         ∃ q, ((t.lvl l).eng 0x60).running = ((s.lvl l).eng 0x60).running ++ [q] ∧ q.writes = [] ∧
           t.farMem = u.farMem ∧ t.coreMem = s.coreMem ∧ t.nearMem = s.nearMem ∧ t.hubMem = s.hubMem ∧
           ∃ cause, Raises s t (s.event 0x9007 (some l) 0 cause 0 (pool - 1) 0 0)))

/-! ### The life of a job, slices, completion and the ledger -/

/-- R67, R71, R289, R383, R409, R430: JOB_BEGIN, JOB_STOP, JOB_STOPPED and STALL_LIMIT on a Level with a job, each where it is due.
That a job begins with its whole grace is the model's choice (notes/assumptions/77.md). -/
def Obligations.JobsBeginAndStop : Prop :=
  ∀ (s : State) (l : Fin 4) (img : Image) (j : Job), (s.lvl l).image = some img → (s.lvl l).job = some j →
    -- the start cycle has begun: the job runs from offset 0 of its first step; an exchange job takes the set of its first step,
    -- or is contained where a read of the roster fails
    (∀ env ord, j.phase = .started → j.stopDue = false → j.beginDue = some ord →
      let k := s.cad.ordinal - ord
      let base := j.poolStep j.firstStep
      let u := s.updLvl l fun ls => { ls with
        offset := k % img.loop, lstep := BitVec.ofNat 64 (j.firstStep + k / img.loop),
        job := some { j with phase := .running, beginOrdinal := ord, beginDue := none, graceLeft := j.grace } }
      (j.exchange = none → exec (.jobBegin l env) s = .next u) ∧
      (∀ x, j.exchange = some x →
        let w := u.withEnv env
        let a := if j.replay.isSome = true then .empty
          else (readFar w ⟨l, 0x60, 0, 0xFFFFFFFF, j.firstStep⟩ .empty (x.region.rosterAt 0) (64 * x.region.capacity)).2
        let v := w.chargeFar l a.farBytes
        let set : List Nat × List (Nat × Nat) := match j.replay with
          | some r => (replayRoster r.log base [[j.ownIndex]], [])
          | none => w.rosterSet l x.region base []
        let y := { x with active := set.1, next := set.1, activeStep := base, autoLeft := set.2 }
        ∃ t, exec (.jobBegin l env) s = .next t ∧
          (a.failedFar ≠ [] → NotedIn l v t ∧ ∃ j', (t.lvl l).job = some j' ∧ j'.contained = true ∧ j'.stopPending = true) ∧
          (a.failedFar = [] → NotedIn l (v.updJob l fun j => { j with exchange := some y }) t))) ∧
    -- the stop boundary has come: the job drains, suspended commands are abandoned and what waited for their contributions is
    -- recorded, the cores ramp down, a record is asked for
    (j.stopDue = true →
      ∃ t j' u w, exec (.jobStop l) s = .next t ∧ (t.lvl l).job = some j' ∧ j'.phase = .draining ∧ j'.stopDue = false ∧
        j'.stopPending = false ∧
        u = { s with levels := u.levels } ∧ (∀ i, i ≠ l → u.lvl i = s.lvl i) ∧
        u.lvl l = { s.lvl l with engines := (u.lvl l).engines, job := some { j with
          phase := .draining, stopDue := false, stopPending := false, beginDue := none } } ∧
        (∀ e, (u.lvl l).eng e = { (s.lvl l).eng e with suspended := [] }) ∧
        Recorded l u w ∧ t = { w with cores := t.cores, asy := t.asy } ∧
        (∀ n, t.core n = if n < 16 ∧ (s.lvl l).ownsCore n = true then { s.core n with fillTarget := 0, fillStep := 4, fillFrom := s.arith n }
          else s.core n) ∧
        t.asy = (if s.asy.vasy = true then { s.asy with waiting := s.asy.waiting ++ [⟨l.val, 2, .cause, none⟩] } else s.asy)) ∧
    (j.stopDue = false → exec (.jobStop l) s = .next s) ∧
    -- every command of a draining job has ended: it is STOPPED, or closed where a function reset asked for that
    (j.phase = .draining → (s.lvl l).quiet = true →
      ∃ t, exec (.jobStopped l) s = .next t ∧ (j.closing = some none → (t.lvl l).job = none) ∧
        (j.closing ≠ some none → ∃ j', (t.lvl l).job = some j' ∧ j'.phase = .stopped ∧ j'.contained = false) ∧
        (∀ i, i ≠ l → t.lvl i = s.lvl i) ∧
        ∀ off size a, j.decl.passBuffer = some (off, size) → (s.hubShare l).1 + off ≤ a → a < (s.hubShare l).1 + off + size →
          memGet t.hubMem a = 0) ∧
    (¬(j.phase = .draining ∧ (s.lvl l).quiet = true) → exec (.jobStopped l) s = .next s) ∧
    -- the next entry of an engine has stalled for 65,536 counts
    (∀ (eng : BitVec 8) (ctx : Fin 8) i step, (s.lvl l).nextEntry img eng.toNat ctx.val = some (i, step) →
      let st := (s.lvl l).eng eng.toNat
      let en := img.entries.getD i default
      let due := img.dueCount en step
      let number := tabGet 0 st.dispatched ctx.val + 1
      let stalled := j.phase = .running ∧ j.stopDue = false ∧ tabGet 0 st.stalled ctx.val ≠ number ∧
        due + 65536 + st.waited (if (img.contextOf en).2 = true then ctx.val else 8) due (s.countNow j) ≤ s.countNow j
      let tallyWait := en.waitTally = true ∧ ((s.lvl l).tally en.tally).count < ((s.lvl l).tally en.tally).target
      (stalled →
        ∃ t, exec (.stallLimit l eng ctx) s = .next t ∧
          NotedIn l (s.updEng l eng.toNat fun st => { st with stalled := tabPut 0 st.stalled ctx.val number }) t ∧
          (tallyWait → Raises s t (s.event 0x2020 (some l) eng.toNat en.tally i 0 0 0)) ∧
          (¬tallyWait → Raises s t (s.event 0x2011 (some l) eng.toNat 0 i 0 0 0)) ∧
          ∃ j', (t.lvl l).job = some j' ∧ j'.stopPending = true) ∧
      (¬stalled → exec (.stallLimit l eng ctx) s = .next s))

/-- R74, R75, R136, R424, R433, R434, R442: SLICE_END, CONTEXT_SWITCH, SWITCH_COMPLETE and the slot windows, each where it is due on
an engine. A command that is suspended is charged the time it has held the engine, and its live state is saved there and then (the
model's choice of the moment, notes/assumptions/64.md); a pass that resumes has the saved sets restored, bit for bit, through the save
path; a switch that reloads nothing takes the bytes that the outgoing context saves and the incoming one restores; and a command
that waits for its next slot window is charged none of the hand-over gap. -/
def Obligations.SlicesAndWindows : Prop :=
  ∀ (s : State) (l : Fin 4) (eng : BitVec 8) (img : Image) (j : Job), (s.lvl l).image = some img → (s.lvl l).job = some j →
    let e := eng.toNat
    let st := (s.lvl l).eng e
    -- the slice in effect reaches its effective end on an engine that runs nothing, or one command
    (∀ i step progress, st.slice = some (i, step) → j.phase = .running → j.stopDue = false → st.switching = false →
      let sl := img.slices.getD i default
      let owed := st.owes sl.context
      let ded := img.deduction e i step owed
      img.sliceStop i step - ded ≤ s.countNow j →
      (∀ k, ded = 0 → img.joined e i step = some k →
        exec (.sliceEnd l eng progress) s = .next (s.updEng l e fun st => { st with slice := some k, lastSlice := some k })) ∧
      (¬(ded = 0 ∧ (img.joined e i step).isSome = true) → st.slotHeld = [] →
        ∃ t, exec (.sliceEnd l eng progress) s = .next t ∧ ((t.lvl l).eng e).slice = none ∧ (∀ k, k ≠ l → t.lvl k = s.lvl k) ∧
          (st.running = [] → ((t.lvl l).eng e).running = [] ∧ ((t.lvl l).eng e).owes sl.context = owed - ded ∧
            t = { s with levels := t.levels }) ∧
          (∀ r, st.running = [r] → (img.contextOf (img.entries.getD r.entry default)).2 = true →
            let en := img.entries.getD r.entry default
            let ran := { r with overrun := some (img.sliceStop i step - ded, sl.budget) }
            let (ws, later) := r.writes.partition fun w => decide (w.at_ < progress)
            let stays := en.nonpreempt = true ∨ en.neverSuspends = true ∨ r.canSuspend progress = false
            (stays → ((t.lvl l).eng e).running = [ran] ∧ t = { s with levels := t.levels }) ∧
            (¬stays → ((t.lvl l).eng e).running = [] ∧
              (t.lvl l).acct = (s.lvl l).acct.charge e r.ctx (s.now - r.since) r.nearBytes r.farBytes ∧
              -- `q` is suspended, and what it holds stands in its save area; before that, `v` has come to be
              let holds (v : State) (q : Running) : Prop := ((t.lvl l).eng e).suspended = st.suspended ++ [(r.ctx, q)] ∧
                t = { v.saveCommand l e q with raised := t.raised, levels := t.levels, fns := t.fns }
              let still := r.charged s.now
              (r.after = .none →
                holds (s.applyWrites ws) { still with writes := later, progress := max r.progress progress }) ∧
              (r.after = .program → 0x10 ≤ e → e < 0x20 →
                let k := s.core (e - 0x10)
                holds (s.setCore (e - 0x10) { k with ctl := .idle }) { still with ctl := some k.ctl, regs := some k.regs }) ∧
              (∀ p, r.after = .pass p → e < 0x10 → (∀ k, k ≠ e → t.core k = s.core k) ∧
                ∃ q p', holds { s with cores := t.cores } q ∧ q.entry = r.entry ∧ q.after = .pass p' ∧ p'.saved = true ∧
                  q.progress = max r.progress progress))))) ∧
    -- the next slice reaches its effective start on an engine that is at rest
    (∀ i step, (s.lvl l).sliceNext e = some (i, step) → j.phase = .running → j.stopDue = false → st.slice = none →
      st.switching = false → st.running = [] → st.slotHeld = [] → max (img.sliceStart i step) st.overrunEnd ≤ s.countNow j →
      let sl := img.slices.getD i default
      let ded := img.deduction e i step (st.owes sl.context)
      let empty := img.sliceStop i step - ded ≤ max (img.sliceStart i step) st.overrunEnd
      let reload := evictableOn j.decl.shares sl.context (e % 16) = true ∧ j.isResident (e % 16) sl.context = false
      let switches := e < 0x20 ∧ (st.ctx ≠ sl.context ∨ reload ∨ (s.lvl l).partnerLoads e sl.context = true)
      (empty → exec (.contextSwitch l eng i) s =
        .next (s.updEng l e fun st => { st with lastSlice := some (i, step) }.pay sl.context ded)) ∧
      (¬empty →
        ∃ t, exec (.contextSwitch l eng i) s = .next t ∧ ((t.lvl l).eng e).slice = some (i, step) ∧
          ((t.lvl l).eng e).lastSlice = some (i, step) ∧ (∀ k, k ≠ l → t.lvl k = s.lvl k) ∧
          (switches → ((t.lvl l).eng e).switching = true ∧ ((t.lvl l).eng e).ctx = sl.context ∧
            ∃ w, ((t.lvl l).eng e).switch = some w ∧ w.since = s.now ∧ (w.fixed = true ↔ st.ctx ≠ sl.context) ∧
              (¬reload → w.reload = 0 ∧ w.bytes = (j.savedBytes e sl.context).getD 0 +
                if st.ctx = sl.context then 0 else (j.savedBytes e st.ctx).getD
                  ((st.suspended.filter fun p => p.1 = st.ctx).map fun p => p.2.liveBytes e).sum)) ∧
          (¬switches → (∀ p ∈ st.suspended, p.1 = sl.context → p.2.after ≠ .program) →
            ((t.lvl l).eng e).switching = false ∧ ((t.lvl l).eng e).running.length =
              (st.suspended.filter fun p => p.1 = sl.context).length))) ∧
    -- a switch, and a load of the context by the core's other engine, have taken their time: the suspended commands go on
    (∀ w, st.switch = some w → st.switching = true → w.since + s.switchClocks (s.lvl l) e w ≤ s.now →
      ((s.lvl l).partnerLoads e st.ctx = true → s.switchEnd (s.lvl l) (partner e) ≤ s.now) →
      (∀ p ∈ st.suspended, p.1 = st.ctx → p.2.after ≠ .program) →
      ∃ t, exec (.switchComplete l eng) s = .next t ∧ ((t.lvl l).eng e).switching = false ∧ (∀ k, k ≠ l → t.lvl k = s.lvl k) ∧
        t = { s with raised := t.raised, levels := t.levels, fns := t.fns, cores := t.cores, stemMem := t.stemMem } ∧
        (∀ q p sh, j.phase = .running → j.stopDue = false → (st.suspended.filter fun x => x.1 = st.ctx) = [(st.ctx, q)] →
          q.after = .pass p → e < 0x10 → q.liveBytes e ≠ 0 → s.saveShare l e q.ctx = some sh →
          ∃ q' p', ((t.lvl l).eng e).running = q' :: st.running ∧ q'.entry = q.entry ∧ q'.progress = q.progress ∧ q'.after = .pass p' ∧
            p'.restored = some ((PassDesc.ofNat p.desc).used.foldl
              (fun x a => loadSet x a (s.readSaved l e q (sh.start + 0x30000 * a) 0x30000).1) [])) ∧
        (j.phase = .running → j.stopDue = false → ((t.lvl l).eng e).suspended = st.suspended.filter (fun p => p.1 ≠ st.ctx) ∧
          ((t.lvl l).eng e).running.length = st.running.length + (st.suspended.filter fun p => p.1 = st.ctx).length) ∧
        (j.phase ≠ .running ∨ j.stopDue = true → t = s.updEng l e fun st => { st with switching := false })) ∧
    -- the Level's slot windows of IMAGE_DEC and AUDIO_DEC
    (∀ progress, slotShared e = true →
      let ended := s.now - s.cad.intoWindow s.now
      (bitAt ((s.lvl l).record.slots e).toNat (s.angle / 0x1000) = false →
        ∃ t, exec (.slotWindowEnd l eng progress) s = .next t ∧ t = { s with levels := t.levels } ∧
          (∀ k, k ≠ l → t.lvl k = s.lvl k) ∧
          t.lvl l = { s.lvl l with engines := (t.lvl l).engines, acct := (t.lvl l).acct } ∧
          (∀ g, g ≠ e → (t.lvl l).eng g = (s.lvl l).eng g) ∧
          (t.lvl l).eng e = { st with slotHeld := st.slotHeld ++ st.running.map fun r => r.charged ended, running := [] } ∧
          (t.lvl l).acct.engine = (s.lvl l).acct.engine + (st.running.map fun r => ended - r.since).sum) ∧
      (bitAt ((s.lvl l).record.slots e).toNat (s.angle / 0x1000) = true → exec (.slotWindowEnd l eng progress) s = .next s) ∧
      (s.inWindow l e = true → exec (.slotWindowStart l eng) s = .next (s.updEng l e fun st =>
        { st with running := st.running ++ st.slotHeld.map fun r => { r with since := s.now }, slotHeld := [] })) ∧
      (s.inWindow l e = false → exec (.slotWindowStart l eng) s = .next s))

/-- R71, R78, R79, R106, R134, R188, R208, R364: COMMAND_COMPLETE of the oldest command of an engine. It ends only where `ending`
says so; a vector program that cannot go on stops. A completed command's writes become visible (its stamp only where one may be
written, a pass's as its drain forms them) and nothing else of core stores, hub store and far memory changes, nor of near memory
outside the ledger area; its Tally is signalled; what its kind still does follows. An abandoned one writes nothing, and its time
is charged. -/
def Obligations.CommandsEnd : Prop :=
  ∀ (s : State) (l : Fin 4) (eng : BitVec 8) (r : Running) (rest : List Running),
    let e := eng.toNat
    let u := if e = 0x60 then s.closePassed l else s
    ((u.lvl l).eng e).running = r :: rest →
    let gone (x : State) : State := (x.updEng l e fun st => { st with running := rest }).chargeRunning l e r
    ((u.lvl l).ending e r = .notYet → r.after ≠ .program → exec (.commandComplete l eng) s = .next u) ∧
    (r.after = .program → 0x10 ≤ e → e < 0x20 →
      let k := u.core (e - 0x10)
      let stuck := programStuck k.ctl (fetchWord u ⟨l, e, r.ctx, r.entry, r.step⟩ .empty (e - 0x10) k.ctl).1
      (k.ctl.running = false ∨ (k.ctl.level = l.val ∧ stuck = false) → exec (.commandComplete l eng) s = .next u) ∧
      (k.ctl.running = true → k.ctl.level = l.val → stuck = true →
        ∃ t, exec (.commandComplete l eng) s = .next t ∧
          Recorded l (gone (u.setCore (e - 0x10) { k with ctl := .idle })) t ∧
          ∀ j, (t.lvl l).job = some j → j.phase = .running → j.stopPending = true)) ∧
    ((u.lvl l).ending e r = .abandoned → ∃ t, exec (.commandComplete l eng) s = .next t ∧ Recorded l (gone u) t) ∧
    ((u.lvl l).ending e r = .completes →
      let drained := match r.after with
        | .pass p => (u.finishPass l e r p).2
        | _ => r
      let ws := drained.writes.filter fun w => w.at_ ≠ stampAt || (!r.noStamp && !u.isContained l)
      -- once the last command of a pass engine has drained, what was suspended behind it is accumulated and saved (R136)
      ∃ t, exec (.commandComplete l eng) s = .next (if rest = [] then t.settleSuspended l e else t) ∧
        ((t.lvl l).eng e).running = rest ∧ (∀ k, k ≠ l → t.lvl k = u.lvl k) ∧
        (t.lvl l).acct.engine = (u.lvl l).acct.engine + (s.now - r.since) ∧
        (∀ g, g ≠ e → (t.lvl l).eng g = (u.lvl l).eng g) ∧ (∀ k, k ≠ e → t.core k = u.core k) ∧
        t.coreMem = (u.applyWrites ws).coreMem ∧ t.hubMem = (u.applyWrites ws).hubMem ∧ t.farMem = (u.applyWrites ws).farMem ∧
        (∀ a, (∀ base n, (u.lvl l).ledgerArea = some (base, n) → a < base ∨ base + 2048 * n ≤ a) →
          memGet t.nearMem a = memGet (u.applyWrites ws).nearMem a) ∧
        (∀ img, (u.lvl l).image = some img →
          let en := img.entries.getD r.entry default
          ∀ n, let x := (u.lvl l).tally n
            (t.lvl l).tally n = if en.signalTally = true ∧ n = en.tally then
                if x.initAt = s.now + 1 then (if x.was = 0xFFFF then x else { x with was := x.was + 1 })
                else if x.count = 0xFFFF then x else { x with count := x.count + 1 }
              else x) ∧
        (∀ bs step off, r.after = .boundary bs step off → ∀ b, (tabGet .fresh (t.lvl l).batches b).due =
          (tabGet .fresh (u.lvl l).batches b).due ++ List.replicate (bs.count b) (step, off)) ∧
        (∀ next auto j x, r.after = .roster next auto → (u.lvl l).job = some j → j.exchange = some x →
          ∃ j' x', (t.lvl l).job = some j' ∧ j'.exchange = some x' ∧ x'.next = next ∧ x'.activeStep = j.poolStep r.step ∧
            x'.active = x.activeAt (j.poolStep r.step)) ∧
        (∀ block journal, r.after = .result block journal →
          let x : StepResult := ⟨listLe block 0 8, BitVec.ofNat 64 (listLe block 0x48 8), mapIndices (listSlice block 0x300 512)⟩
          (t.lvl l).results = x :: (u.lvl l).results.filter fun y =>
            decide (y.step ≠ x.step) && (journal || (decide (y.step < x.step) && decide (x.step < y.step + 256)))))

/-- R189, R198, R205: LEDGER_RECORD_CLOSE. An OPEN record whose step of LSTEP has ended and that no live command of that step feeds is
CLOSED with the present cadence time (in a replay the recorded cycle number, R466), its 2 KiB stand in the ledger area with their
CRC-64, where no block reads as failed any longer, and no other record and no other byte changes; otherwise nothing happens. That it
waits while compressed commands of the step are still to be dispatched is the model's choice (notes/assumptions/106.md). -/
def Obligations.LedgerRecordsClose : Prop :=
  ∀ (s : State) (l : Fin 4) (tensor : BitVec 16),
    let t0 := tensor.toNat
    let r := (s.lvl l).record_ t0
    let ended := ∀ j, (s.lvl l).job = some j →
      (r.lstep < (s.lvl l).lstep.toNat ∧ s.atCompressed = false) ∨ j.phase = .stopped ∨ j.phase = .draining
    let closes := r.state = 1 ∧ ended ∧ (s.lvl l).feeds t0 r.lstep = false
    let r' := { r with state := 2, closeCycle := s.cycleNo (some l), closeAngle := BitVec.ofNat 16 s.angle }
    (closes →
      ∃ t, exec (.ledgerRecordClose l tensor) s = .next t ∧
        t = { s with raised := t.raised, levels := t.levels, fns := t.fns, nearMem := t.nearMem,
                     mem := { s.mem with failedNear := t.mem.failedNear } } ∧
        (∀ k, k ≠ l → t.lvl k = s.lvl k) ∧
        (∀ n, (t.lvl l).record_ n = if n = t0 then r' else (s.lvl l).record_ n) ∧
        (∀ base n, (s.lvl l).ledgerArea = some (base, n) →
          (∀ b ∈ t.mem.failedNear, b ∈ s.mem.failedNear ∧ ¬(base + 2048 * t0 ≤ 64 * b ∧ 64 * b + 64 ≤ base + 2048 * t0 + 2048)) ∧
          memRead t.nearMem (base + 2048 * t0) 2048 = r'.body t0 ++ leBytes 8 (crc64 (r'.body t0)) ∧
            ∀ a, (a < base + 2048 * t0 ∨ base + 2048 * t0 + 2048 ≤ a) → memGet t.nearMem a = memGet s.nearMem a)) ∧
    (¬closes → exec (.ledgerRecordClose l tensor) s = .next s)

/-! ### Lamp Room and roster -/

/-- R340, R345, R346, R416, R463: ADMISSION and BATCH_BOUNDARY of a declared batch, each where it is due. An admission is made once in a
step, at its cycle offset, while the job runs, by the cycle number of the present (in a replay of the recorded run, after the recorded
messages before it); a boundary works the oldest completed SAMPLE: it reads the Belt's result records, enters their CRC as a TOKENS
entry, and works the rows in ascending order, with the cycle of the boundary counted from the job's start cycle; while the Level is
contained it writes no record. Both come after every request message taken before them has been acted on, and both end with one
signal of the batch's LAMP_TALLY; no core store and no hub store changes, and far memory only as other agents have left it. -/
def Obligations.LampRoom : Prop :=
  ∀ (s : State) (l : Fin 4) (b : Fin 64) (d : BatchDecl), (s.lvl l).batchDecl b.val = some d →
    let works (u : State) : Prop :=
      u = { s with raised := u.raised, levels := u.levels, fns := u.fns, nearMem := u.nearMem, hostMem := u.hostMem,
                   barMem := u.barMem, mem := u.mem, freeCtr := u.freeCtr, farMem := u.farMem }
    (s.requestsTaken l ≠ [] → exec (.batchBoundary l b) s = .next s) ∧
    (∀ (env : FarEnv) (j : Job), (s.lvl l).job = some j →
      let due := j.phase = .running ∧ j.stopDue = false ∧ (s.lvl l).offset = d.le 0x1E 2 ∧
        ((s.lvl l).batch b.val).admitted < (s.lvl l).lstep.toNat ∧ s.requestsTaken l = []
      let v := if j.replay = none then s else (s.replayUpTo l 5 (leBytes 8 b.val ++ leBytes 8 (s.lvl l).lstep.toNat)).1
      (due → ∃ u t, exec (.admission l b env) s = .next t ∧ works u ∧
        u = v.admitAll l b.val d env (if j.replay = none then s.cad.number else (s.lvl l).replayCycle.getD s.cad.number) ∧
        (∀ a, (∀ x ∈ env.cells, x.1 ≠ a) → memGet u.farMem a = memGet s.farMem a) ∧
        ((u.lvl l).batch b.val).admitted = (s.lvl l).lstep.toNat ∧ signalled u t l (d.le 0x1C 2) 0xFFFFFFFF) ∧
      (¬due → exec (.admission l b env) s = .next s)) ∧
    (((s.lvl l).batch b.val).due = [] → exec (.batchBoundary l b) s = .next s) ∧
    (∀ step off rest (img : Image) (j : Job), ((s.lvl l).batch b.val).due = (step, off) :: rest → (s.lvl l).image = some img →
      (s.lvl l).job = some j → j.replay = none → s.requestsTaken l = [] →
      let v := s.updBatch l b.val fun x => { x with due := rest, boundary := step }
      let results := (v.fwRead l (d.le 0x28 8) (16 * d.rows)).1
      let w := (v.fwRead l (d.le 0x28 8) (16 * d.rows)).2.log l 0x0C (leBytes 8 b.val ++ leBytes 8 step ++ leBytes 8 (crc64 results))
      let cs := (j.startCycle.toNat + (step - 1) * img.loop + off) % 2 ^ 64
      ∃ u t, exec (.batchBoundary l b) s = .next t ∧ works u ∧ u.farMem = s.farMem ∧ (∀ k, k ≠ l → u.lvl k = s.lvl k) ∧
        u = (List.range d.rows).foldl (fun x row => x.boundaryRow l b.val step cs d row (listSlice results (16 * row) 16)) w ∧
        ((u.lvl l).batch b.val).due = rest ∧
        ((u.lvl l).batch b.val).boundary = step ∧ signalled u t l (d.le 0x1C 2) 0xFFFFFFFF ∧
        (j.contained = true → u.nearMem = s.nearMem ∧ u.hostMem = s.hostMem ∧ ∀ i, (u.lvl l).request i = (s.lvl l).request i))

/-- R365, R373, R376, R383, R384, R394: REDUCE, GATHER and ROSTER_SYNC outside a replay. A failed read leaves the command with nothing
to write and contains the Level; where the stamps they need are there, or may be waited for no longer, they work at once;
otherwise they wait, and STAMP_REREAD reads again. A ROSTER message pending on the Level of a ROSTER_SYNC is decided first: where
reading its old entry fails, it stays pending and nothing is written; one that asks for what is so already, or for a step that has
come, is REFUSED and writes nothing; otherwise, before the close and uncontained, its entry is written into the roster at once and it
is decided OK; past the close it stays undecided and EV_EXCHANGE_LATE is raised. -/
def Obligations.ExchangeReads : Prop :=
  let goesOn (u t : State) (l : Fin 4) (e : Nat) (r : Ready) (x : ExchCtx) (op : Nat) : Prop :=
    let c := r.exchCmd l e
    underR365 u c x op (exchangeBegins u t l e r c.step [] .none) (exchangeBegins u t l e r c.step [] .waiting)
      fun a after => exchangeBegins u t l e r c.step a.writes.reverse after
  (∀ (s : State) (l : Fin 4) (e : Nat) (env : FarEnv) (r : Ready) (x : ExchCtx),
     ∀ p ∈ [(Instr.reduce l e env, 0x02), (.gather l e env, 0x03), (.rosterSync l e env, 0x04)],
       exchangeAt s l e r p.2 x → x.job.replay = none → (p.2 = 0x04 → ∀ m, s.rosterMsg = some m → m.level ≠ l.val) →
       ∃ t, exec p.1 s = .next t ∧ goesOn ((s.dispatched l e r).withEnv env) t l e r x p.2) ∧
  (∀ (s : State) (l : Fin 4) (e : Nat) (env : FarEnv) (r : Ready) (x : ExchCtx) (p : PendingRoster),
     exchangeAt s l e r 0x04 x → x.job.replay = none → s.rosterMsg = some p → p.level = l.val →
     let v := (s.dispatched l e r).withEnv env
     let c := r.exchCmd l e
     let at_ := x.exch.region.rosterAt p.index
     let old := v.rosterEntry l x.exch.region p.index
     let failed := (readFar v c .empty at_ 64).2.failedFar ≠ []
     let no := p.decide old x.exch.autoLeft x.step ≠ 0
     let late := x.job.closeCount x.img c.step x.d.close < v.countNow x.job
     let put := v.applyWrites (writeFar v c .empty 0 at_ (p.bytes old x.step x.job.ownIndex)).writes.reverse
     ∃ t, exec (.rosterSync l e env) s = .next t ∧
       (failed → exchangeBegins v t l e r c.step [] .none) ∧
       (¬failed → no → goesOn { v with rosterMsg := some { p with status := some 2 } } t l e r x 0x04) ∧
       (¬failed → ¬no → late →
          ∃ u, NotedIn l v u ∧ Raises s u (s.event 0x4001 (some l) 0x60 0 e x.step 0 0) ∧ goesOn u t l e r x 0x04) ∧
       (¬failed → ¬no → ¬late → v.isContained l = true → goesOn v t l e r x 0x04) ∧
       (¬failed → ¬no → ¬late → v.isContained l = false →
         goesOn { put with rosterMsg := some { p with status := some 0 } } t l e r x 0x04))

/-! ### Adit: slots, notices, MSI-X, registers and replies -/

/-- A 32-bit word that the host writes to a slot is taken (R478): OWNER of an inbound slot takes HOST_POSTED from FREE and FREE
from DEVICE_REPLIED, any other word of a FREE inbound slot is written, and OWNER of an outbound slot takes FREE from
DEVICE_REPLIED. -/
def wordTaken (s : State) (fn : Fin 5) (o v : Nat) : Prop :=
  let base := o / 0x1000 * 0x1000
  let owner := s.bar fn.val base 4
  (o = base ∧ owner = 3 ∧ v = 0) ∨ (o < 0x20000 ∧ ((o = base ∧ owner = 0 ∧ v = 1) ∨ (o ≠ base ∧ owner = 0)))

/-- FILTERED of a function has counted one write, unless it stands at all ones. -/
def counted (s : State) (n : Nat) : State :=
  s.setFn n { s.fn n with
    filtered := if (s.fn n).filtered = BitVec.allOnes 32 then (s.fn n).filtered else (s.fn n).filtered + 1 }

/-- Inbound slot `i` is HOST_POSTED. -/
def posted (s : State) (fn : Fin 5) (i : Nat) : Bool := decide (s.bar fn.val (inSlot i) 4 = 1)

/-- A vector is raised between `u` and `t` (R484): while masked its pending bit is set; otherwise its data word is written at its
address in host memory and one message is sent; a vector from 64 up is none. -/
def vectorRaised (u t : State) (fn v : Nat) : Prop :=
  (64 ≤ v → t = u) ∧
  (v < 64 → (u.fn fn).msixMask.getLsbD v = true → t = u.setFn fn { u.fn fn with
    msixPending := (u.fn fn).msixPending ||| BitVec.ofNat 64 (2 ^ v) }) ∧
  (v < 64 → (u.fn fn).msixMask.getLsbD v = false →
    t = ({ u with hostMem := memWrite u.hostMem (u.bar fn (0x8000 + 16 * v) 8) (leBytes 4 (u.bar fn (0x8000 + 16 * v + 8) 4)) } :
      State).setFn fn { u.fn fn with msixSent := tabPut 0 (u.fn fn).msixSent v (tabGet 0 (u.fn fn).msixSent v + 1) })

/-- R479, R480, R482 to R484, R567: SLOT_SCAN, while firmware runs and the part is awake, takes every HOST_POSTED slot in ascending
index: OWNER becomes DEVICE_TAKEN, SEQ the next TAKE_SEQ, and a copy joins the messages taken; no other byte of BAR0 changes, other
slots stay, and a request message that the Lamp Room's work holds stays posted (R340, R479); otherwise it does nothing.
(The copies are stated where every code is one of R489; the others are answered at once.) NOTICE_POST puts the oldest waiting
notice into the lowest FREE outbound slot, which becomes DEVICE_REPLIED, and raises the notice vector; without a notice or a FREE
slot, or before the reply of the message that the notice arose from, it waits. MSIX_VECTOR_UNMASK clears the mask bit; pending raises
go out as one message; while the Adit does not answer it does nothing. -/
def Obligations.ScansAndNotices : Prop :=
  (∀ (s : State) (fn : Fin 5),
     let scans := s.boot.fw = .running ∧ s.boot.awake = true ∧ s.scanDeferred fn.val = false
     let f := s.fn fn.val
     let held (i : Nat) : Bool := s.lampHolds fn.val (s.copySlot fn.val i f.takeSeq)
     (¬scans → exec (.slotScan fn) s = .next s) ∧
     (scans → ∃ t, exec (.slotScan fn) s = .next t ∧ ∀ i < 16, posted t fn i = true → held i = true) ∧
     (scans → (∀ i < 16, posted s fn i = true → knownMsg (s.bar fn.val (inSlot i + 0x10) 2) = true) →
       (∀ x ∈ f.taken, knownMsg x.msg = true) →
       let is := (List.range 16).filter fun i => posted s fn i && !held i
       ∃ t, exec (.slotScan fn) s = .next t ∧
         Noted (({ s with barMem := t.barMem, takes := s.takes + is.length } : State).setFn fn.val { f with
           lastScan := some s.now, takeSeq := f.takeSeq + BitVec.ofNat 64 is.length,
           scanMax := BitVec.ofNat 32 (min (2 ^ 32 - 1) (max f.scanMax.toNat ((f.lastScan.map fun t₀ => clocksToNs (s.now - t₀)).getD 0))),
           taken := f.taken ++ is.zipIdx.map fun p =>
             { s.copySlot fn.val p.1 (f.takeSeq + BitVec.ofNat 64 p.2) with turn := s.takes + p.2 } }) t ∧
         (∀ p ∈ is.zipIdx, t.bar fn.val (inSlot p.1) 4 = 2 ∧
           t.bar fn.val (inSlot p.1 + 0x20) 8 = (f.takeSeq + BitVec.ofNat 64 p.2).toNat) ∧
         ∀ a, (∀ i ∈ is, (a < barKey fn.val (inSlot i) ∨ barKey fn.val (inSlot i) + 4 ≤ a) ∧
           (a < barKey fn.val (inSlot i + 0x20) ∨ barKey fn.val (inSlot i + 0x20) + 8 ≤ a)) → memGet t.barMem a = memGet s.barMem a)) ∧
  ((∀ (s : State) (fn : Fin 5) (n : Notice) (rest : List Notice) (k : Nat), (s.fn fn.val).waiting = n :: rest →
     s.replyFirst n = false → (List.range 16).find? (fun i => s.bar fn.val (outSlot i) 4 = 0) = some k →
     ∃ u t, exec (.noticePost fn) s = .next t ∧ vectorRaised u t fn.val (s.fn fn.val).noticeVector ∧
       u = { s with barMem := u.barMem, fns := u.fns } ∧ u.fn fn.val = { s.fn fn.val with waiting := rest } ∧
       (∀ i, i ≠ fn.val → u.fn i = s.fn i) ∧
       u.bar fn.val (outSlot k) 4 = 3 ∧ memRead u.barMem (barKey fn.val (outSlot k + 4)) n.bytes.length = n.bytes ∧
       ∀ a, (a < barKey fn.val (outSlot k) ∨ barKey fn.val (outSlot k) + 0x1000 ≤ a) → memGet u.barMem a = memGet s.barMem a) ∧
   (∀ (s : State) (fn : Fin 5), ((s.fn fn.val).waiting = [] ∨ (∀ n, (s.fn fn.val).waiting.head? = some n → s.replyFirst n = true) ∨
     ∀ i < 16, s.bar fn.val (outSlot i) 4 ≠ 0) → exec (.noticePost fn) s = .next s) ∧
   (∀ (s : State) (fn : Fin 5) (v : Fin 64),
     let f := s.fn fn.val
     let bit := BitVec.ofNat 64 (2 ^ v.val)
     let u := s.setFn fn.val { f with msixMask := f.msixMask &&& ~~~bit, msixPending := f.msixPending &&& ~~~bit }
     (s.aditUp = false → exec (.msixVectorUnmask fn v) s = .next s) ∧
     (s.aditUp = true → ∃ t, exec (.msixVectorUnmask fn v) s = .next t ∧ (f.msixPending.getLsbD v.val = false → t = u) ∧
       (f.msixPending.getLsbD v.val = true → vectorRaised u t fn.val v.val))))

/-- R83, R474, R478, R484, R494, R498: while the Adit answers, each word of an aligned 32-bit or 64-bit write to a slot is written
where the ownership before the write lets it be; a write of which a word is not, or of another size, is counted once. A write of
another size to any offset is discarded and counted; a read-only or reserved offset ignores writes; the MSI-X table keeps addresses
and data, and a mask bit masks or unmasks; the firmware window keeps what the PF writes while FW_STATE is AWAITING and discards and
counts it otherwise, a write at its COMMIT is a COMMIT of the low word, and no VF has a window. While the Adit does not answer no
write has an effect. -/
def Obligations.HostWrites : Prop :=
  (∀ (s : State) (fn : Fin 5) (off : BitVec 24) (size : Nat) (data : BitVec 64), s.aditUp = false →
     exec (.registerWrite fn off size data) s = .next s ∧ exec (.slotOwnerWrite fn off size data) s = .next s ∧
       exec (.firmwareWindowWrite fn off size data) s = .next s ∧ ∀ v, exec (.commit fn v) s = .next s) ∧
  (∀ (s : State) (fn : Fin 5) (off : BitVec 24) (size : Nat) (data : BitVec 64), s.aditUp = true →
     0x10000 ≤ off.toNat → off.toNat < 0x30000 →
     let o := off.toNat
     let lo := data.toNat % 2 ^ 32
     let hi := data.toNat / 2 ^ 32 % 2 ^ 32
     let put (m : Mem) (o v : Nat) : Mem := memWrite m (fn.val * 2 ^ 24 + o) (leBytes 4 v)
     exec (.registerWrite fn off size data) s = exec (.slotOwnerWrite fn off size data) s ∧
     (size = 4 → o % 4 = 0 →
       (wordTaken s fn o lo → exec (.slotOwnerWrite fn off size data) s = .next { s with barMem := put s.barMem o lo }) ∧
       (¬wordTaken s fn o lo → exec (.slotOwnerWrite fn off size data) s = .next (counted s fn.val))) ∧
     (size = 8 → o % 8 = 0 →
       ∃ t, exec (.slotOwnerWrite fn off size data) s = .next t ∧ t = { s with barMem := t.barMem, fns := t.fns } ∧
         (wordTaken s fn o lo → wordTaken s fn (o + 4) hi → t.barMem = put (put s.barMem (o + 4) hi) o lo ∧ t.fns = s.fns) ∧
         (wordTaken s fn o lo → ¬wordTaken s fn (o + 4) hi → t.barMem = put s.barMem o lo) ∧
         (¬wordTaken s fn o lo → wordTaken s fn (o + 4) hi → t.barMem = put s.barMem (o + 4) hi) ∧
         (¬wordTaken s fn o lo → ¬wordTaken s fn (o + 4) hi → t.barMem = s.barMem) ∧
         (¬(wordTaken s fn o lo ∧ wordTaken s fn (o + 4) hi) → t.fns = (counted s fn.val).fns)) ∧
     (¬((size = 4 ∧ o % 4 = 0) ∨ (size = 8 ∧ o % 8 = 0)) → exec (.slotOwnerWrite fn off size data) s = .next (counted s fn.val))) ∧
  (∀ (s : State) (fn : Fin 5) (off : BitVec 24) (size : Nat) (data : BitVec 64), s.aditUp = true →
     let o := off.toNat
     let good := (size = 4 ∧ o % 4 = 0) ∨ (size = 8 ∧ o % 8 = 0)
     let window := 0x800000 ≤ o ∧ o < 0xC00000
     (¬good → ¬window → exec (.registerWrite fn off size data) s = .next (counted s fn.val)) ∧
     (good → (o < 0x8000 ∨ (0x8400 ≤ o ∧ o < 0x10000) ∨ (0x30000 ≤ o ∧ o < 0x800000) ∨ 0xC00000 ≤ o) →
       exec (.registerWrite fn off size data) s = .next s) ∧
     (0x8000 ≤ o → o < 0x8400 → size = 4 → o % 4 = 0 →
       let vec := Fin.ofNat 64 ((o - 0x8000) / 16)
       (o % 16 ≠ 12 → exec (.registerWrite fn off size data) s =
         .next { s with barMem := memWrite s.barMem (fn.val * 2 ^ 24 + o) (leBytes 4 (data.toNat % 2 ^ 32)) }) ∧
       (o % 16 = 12 → data.getLsbD 0 = true → exec (.registerWrite fn off size data) s = .next (s.setFn fn.val { s.fn fn.val with
         msixMask := (s.fn fn.val).msixMask ||| BitVec.ofNat 64 (2 ^ vec.val) })) ∧
       (o % 16 = 12 → data.getLsbD 0 = false →
         exec (.registerWrite fn off size data) s = exec (.msixVectorUnmask fn vec) s)) ∧
     (∀ u, 0x8000 ≤ o → o < 0x8400 → size = 8 → o % 8 = 0 → exec (.registerWrite fn off 4 data) s = .next u →
       exec (.registerWrite fn off size data) s = exec (.registerWrite fn (off + 4) 4 (data >>> 32)) u) ∧
     (window →
       exec (.registerWrite fn off size data) s = exec (.firmwareWindowWrite fn off size data) s ∧
       (¬good → exec (.firmwareWindowWrite fn off size data) s = .next (counted s fn.val)) ∧
       (good → fn.val ≠ 0 → exec (.firmwareWindowWrite fn off size data) s = .next s) ∧
       (good → fn.val = 0 → s.boot.fw ≠ .awaiting → exec (.firmwareWindowWrite fn off size data) s = .next (counted s 0)) ∧
       (good → fn.val = 0 → s.boot.fw = .awaiting → o < 0xBFF000 → exec (.firmwareWindowWrite fn off size data) s =
         .next { s with boot := { s.boot with window := memWrite s.boot.window (o - 0x800000) (leBytes size data.toNat) } }) ∧
       (good → o = 0xBFF000 → exec (.firmwareWindowWrite fn off size data) s = exec (.commit fn (data.setWidth 32)) s) ∧
       (good → fn.val = 0 → s.boot.fw = .awaiting → 0xBFF000 < o → exec (.firmwareWindowWrite fn off size data) s = .next s)) ∧
     (¬window → exec (.firmwareWindowWrite fn off size data) s = .next s))

/-- R472, R481: the reply of the message `x` taken in a slot is written between `u` and `t`: the message is taken no longer;
the slot holds the payload, REPLY_LENGTH, STATUS, the cadence time and OWNER DEVICE_REPLIED, no byte of another slot or
register changes, and the vector the message names is raised. The reply of a function reset since is discarded. -/
def replied (u t : State) (fn : Fin 5) (slot : Fin 16) (x : Taken) (status : Nat) (payload : List Byte) : Prop :=
  let b := inSlot slot.val
  let f := { u.fn fn.val with taken := dropFirst slot.val (u.fn fn.val).taken }
  (x.orphan = true → t = u.setFn fn.val f) ∧
  (x.orphan = false → ∃ v, vectorRaised v t fn.val x.vector ∧ v = { u with barMem := v.barMem, fns := v.fns } ∧
    v.fn fn.val = f ∧ (∀ k, k ≠ fn.val → v.fn k = u.fn k) ∧
    v.bar fn.val b 4 = 3 ∧ v.bar fn.val (b + 0x18) 2 = status % 2 ^ 16 ∧ v.bar fn.val (b + 0x1C) 4 = payload.length % 2 ^ 32 ∧
    v.bar fn.val (b + 0x28) 8 = u.cad.number.toNat ∧ v.bar fn.val (b + 0x30) 2 = u.angle ∧
    v.bar fn.val (b + 0x32) 2 = (if u.holdoverMark = true then 1 else 0) ∧
    memRead v.barMem (barKey fn.val (b + 0x40)) payload.length = payload ∧
    ∀ a, (a < barKey fn.val b ∨ barKey fn.val (b + 0x40) + payload.length ≤ a) → memGet v.barMem a = memGet u.barMem a)

/-- Message `x` is taken in the slot, of a code of its row, and waits to be acted on; of the messages that act on one request table
it is the one that was taken first (R345). -/
def messageIn (s : State) (fn : Fin 5) (slot : Fin 16) (code : Nat) (x : Taken) : Prop :=
  s.taken fn.val slot.val = some x ∧ x.msg = code ∧ x.working = false ∧ s.inTurn fn.val x = true

/-- A message's work goes on from `u`: it is kept with its status and reply until REPLY_POSTED (R490). -/
def goesOn (u t : State) (fn : Fin 5) (slot : Fin 16) (status : Nat) (reply : List Byte) : Prop :=
  t = u.updTaken fn.val slot.val fun x => { x with working := true, status := status, reply := reply }

/-- The rows of the table that act on a message, with its code. -/
def messageRows (fn : Fin 5) (slot : Fin 16) (data : Option (List Byte)) (env : FarEnv) (faults : List (Nat × Nat)) :
    List (Instr × Nat) :=
  [(.hello fn slot, 0x01), (.levelSet fn slot, 0x10), (.jobOpen fn slot data env, 0x20), (.jobStart fn slot, 0x21),
   (.jobClose fn slot, 0x22), (.schedLoad fn slot data, 0x23), (.reqSubmit fn slot, 0x30), (.reqCancel fn slot, 0x31),
   (.reqStreamRead fn slot, 0x32), (.reqStreamSetNotify fn slot, 0x32), (.reqPages fn slot, 0x33), (.snapTake fn slot, 0x40),
   (.snapRestore fn slot env, 0x41), (.snapFill fn slot env faults, 0x42), (.rosterJoin fn slot, 0x50), (.rosterLeave fn slot, 0x51),
   (.ledgerRead fn slot, 0x60), (.assayReadNew fn slot, 0x61), (.assayReadBySeq fn slot, 0x61), (.assayReadLog fn slot, 0x61),
   (.assayReadCert fn slot, 0x61), (.attestQuote fn slot, 0x62), (.logExport fn slot, 0x63), (.replayStart fn slot data, 0x70)]

/-- R488, R466: every message row answers a message that fails a check common to all with the status of the first check it
fails, and acts on no message of another code and on none it has already acted on. The first checks: a VF of an absent Level
is answered NOT_FOUND; then a LENGTH beyond 4,032, a reserved vector, or reserved header bytes are REFUSED; then everything but
HELLO before the first HELLO is answered VERSION, unless the function was reset since the message was taken: the negotiation of that
time let it pass (R472). -/
def Obligations.MessagesChecked : Prop :=
  ∀ (s : State) (fn : Fin 5) (slot : Fin 16) (data : Option (List Byte)) (env : FarEnv) (faults : List (Nat × Nat)),
    ∀ row ∈ messageRows fn slot data env faults,
      ((∀ x, ¬messageIn s fn slot row.2 x) → exec row.1 s = .next s) ∧
      ∀ x, messageIn s fn slot row.2 x →
        let absent := fn.val ≠ 0 ∧ (s.lvl (x.lvl fn.val)).present = false
        let bad := 4032 < x.length ∨ (64 ≤ x.vector ∧ x.vector ≤ 254) ∨ x.headerOk = false ∨
          (fn.val = 0 ∧ ownLevelAt x.msg = none ∧ 3 < x.level)
        (∀ st, s.precheck fn.val x = some st → ∃ t, exec row.1 s = .next t ∧ replied s t fn slot x st []) ∧
        (absent → s.precheck fn.val x = some 7) ∧
        (¬absent → bad → s.precheck fn.val x = some 2) ∧
        (¬absent → ¬bad → x.orphan = false → row.2 ≠ 0x01 → (s.fn fn.val).version = 0 → s.precheck fn.val x = some 4) ∧
        (x.orphan = true → s.precheck fn.val x ≠ some 4)

/-- R430, R472, R481, R490: REPLY_POSTED. A message that waits for nothing more ends, and its reply is written; JOB.OPEN's job is OPEN
then and the Assay forms a record (or, with VASY absent, keeps that the job was opened, the model's choice, notes/assumptions/119.md);
JOB.CLOSE's job is gone, its ledger records closed, its shares and the Level's hub share zeroed, and its reply is written last; until
then nothing happens. -/
def Obligations.RepliesPosted : Prop :=
  ∀ (s : State) (fn : Fin 5) (slot : Fin 16) (env : FarEnv) (x : Taken), s.taken fn.val slot.val = some x →
    let l := x.lvl fn.val
    let ended := x.working = true ∧ s.workEnded fn.val slot.val x l = true
    (¬ended → exec (.replyPosted fn slot env) s = .next s) ∧
    (ended → x.msg ≠ 0x20 → x.msg ≠ 0x22 →
      ∃ t, exec (.replyPosted fn slot env) s = .next t ∧ replied (s.withEnv env) t fn slot x x.status x.reply) ∧
    (∀ j, ended → x.msg = 0x20 → (s.lvl l).job = some j → j.phase = .opening →
      ∃ u t, exec (.replyPosted fn slot env) s = .next t ∧ replied u t fn slot x x.status x.reply ∧
        (∃ w, (u.lvl l).job = some { j with wrapRaised := w, phase := .opened }) ∧
        u = { s.withEnv env with levels := u.levels, asy := u.asy } ∧
        u.asy = (if s.asy.vasy = true then { s.asy with waiting := s.asy.waiting ++ [⟨l.val, 1, .cause, none⟩] }
          else { s.asy with openedDark := s.asy.openedDark ++ [l.val] })) ∧
    (ended → x.msg = 0x22 →
      let u := (s.withEnv env).finishClose l
      ∃ t, exec (.replyPosted fn slot env) s = .next t ∧ (u.taken fn.val slot.val = some x → replied u t fn slot x x.status x.reply) ∧
        (t.lvl l).job = none ∧ (∀ k, k ≠ l → t.lvl k = (s.withEnv env).lvl k) ∧ (t.lvl l).requests = [] ∧ (t.lvl l).batches = [] ∧
        (∀ n, ((t.lvl l).record_ n).state ≠ 1) ∧
        (∀ sh ∈ s.shares l, ∀ a, sh.core * 2 ^ 26 + sh.start ≤ a → a < sh.core * 2 ^ 26 + sh.start + sh.size → memGet t.coreMem a = 0) ∧
        ∀ a, (s.hubShare l).1 ≤ a → a < (s.hubShare l).1 + (s.hubShare l).2 → memGet t.hubMem a = 0)

/-! ### Izsia messages -/

/-- Message `x` is taken in the slot, of a code of its row, waits to be acted on, and passes the checks of R488. -/
def passes (s : State) (fn : Fin 5) (slot : Fin 16) (code : Nat) (x : Taken) : Prop :=
  messageIn s fn slot code x ∧ s.precheck fn.val x = none

/-- A row answers at once and does nothing else. -/
def answers (i : Instr) (s : State) (fn : Fin 5) (slot : Fin 16) (x : Taken) (status : Nat) : Prop :=
  ∃ t, exec i s = .next t ∧ replied s t fn slot x status []

/-- R485, R486: HELLO. It agrees on the highest common version and the common features, sets the notice vector, and answers with
them; with no common version VERSION, with other messages of the function taken BUSY, and REFUSED for reserved fields or for a
change while a job is open, which one that is still being opened is not (R426). On the PF of an unlocked part EV_DEBUG_UNLOCKED
follows the reply. -/
def Obligations.HelloAgrees : Prop :=
  ∀ (s : State) (fn : Fin 5) (slot : Fin 16) (x : Taken), passes s fn slot 0x01 x →
    let lo := x.le 0 2
    let hi := x.le 2 2
    let nv := x.le 4 1
    let v := min hi 3
    let offer := if 3 ≤ v then 0x3F else if v = 2 then 0x3B else 0
    let agreed := x.le 8 8 &&& offer
    let f := s.fn fn.val
    let bad := hi < lo ∨ (64 ≤ nv ∧ nv ≤ 254) ∨ x.zero 5 3 = false
    let open_ := ∃ (l : Fin 4) (j : Job), (fn.val = 0 ∨ fn.val = l.val + 1) ∧ (s.lvl l).job = some j ∧ j.phase ≠ .opening
    let changes := open_ ∧ (f.version ≠ v ∨ f.features.toNat ≠ agreed)
    let others := ∃ y ∈ f.taken, y.slot ≠ slot.val ∧ y.orphan = false
    (bad → answers (.hello fn slot) s fn slot x 2) ∧
    (¬bad → v < max lo 1 → answers (.hello fn slot) s fn slot x 4) ∧
    (¬bad → max lo 1 ≤ v → others → answers (.hello fn slot) s fn slot x 1) ∧
    (¬bad → max lo 1 ≤ v → ¬others → changes → answers (.hello fn slot) s fn slot x 2) ∧
    (¬bad → max lo 1 ≤ v → ¬others → ¬changes →
      ∃ u t, exec (.hello fn slot) s = .next t ∧
        replied (s.setFn fn.val { f with version := v, features := BitVec.ofNat 64 agreed, noticeVector := nv }) u fn slot x 0
          (leBytes 2 v ++ List.replicate 6 0 ++ leBytes 8 agreed ++ leBytes 8 offer) ∧
        (fn.val = 0 → s.boot.debugUnlocked = true → Noted u t ∧ Raises u t (u.event 0x6003 none 0 0 0 0 0 0)) ∧
        (¬(fn.val = 0 ∧ s.boot.debugUnlocked = true) → t = u))

/-- R419 to R422: LEVEL.SET. Off the PF it is REFUSED, while a job stands on any Level BUSY; records that name nothing twice, stay
within the part and are well formed are put in force: each Level takes its record; a Level whose record changes, or asks for ZERO,
loses its image and its ledger area, and every other keeps them; a quadrant whose owner changes or asks for ZERO reads zero, every
other byte of near memory stays; a Pit Log stays where its ring neither moves nor is zeroed; and the message ends with
REPLY_POSTED. -/
def Obligations.LevelSetDivides : Prop :=
  ∀ (s : State) (fn : Fin 5) (slot : Fin 16) (x : Taken), passes s fn slot 0x10 x →
    let bs := (List.range 4).map fun i => padTo 32 (listSlice x.payload (32 * i) 32)
    let rs := bs.map LevelRecord.ofBytes
    let trained := ∀ r ∈ rs, ∀ q < 4, bitAt r.quads.toNat q = true → s.mem.quads.getLsbD q = true
    let good := pairwise recordsApart rs = true ∧ recordSumsOk rs = true ∧ bs.all recordBytesOk = true ∧ trained
    let version := (s.fn fn.val).features.getLsbD 0 = false ∧ ∃ r ∈ rs.drop 1, r.quads ≠ 0
    let names (q : Nat) (l : Fin 4) : Bool := bitAt (rs.getD l.val .absent).quads.toNat q
    let owner (q : Nat) : Option (Fin 4) := (List.finRange 4).find? (names q)
    let zeroed (q : Nat) : Prop := owner q ≠ s.quadOwner q ∨
      ∃ l, owner q = some l ∧ bitAt (rs.getD l.val .absent).lflags.toNat 0 = true
    let low (r : LevelRecord) : Option Nat := (List.range 4).find? fun q => bitAt r.quads.toNat q
    (fn.val ≠ 0 → answers (.levelSet fn slot) s fn slot x 2) ∧
    (fn.val = 0 → (∃ l, (s.lvl l).job ≠ none) → answers (.levelSet fn slot) s fn slot x 1) ∧
    (fn.val = 0 → (∀ l, (s.lvl l).job = none) → version → answers (.levelSet fn slot) s fn slot x 4) ∧
    (fn.val = 0 → (∀ l, (s.lvl l).job = none) → ¬version → ¬good → answers (.levelSet fn slot) s fn slot x 2) ∧
    (fn.val = 0 → (∀ l, (s.lvl l).job = none) → ¬version → good →
      ∃ u t, exec (.levelSet fn slot) s = .next t ∧ goesOn u t fn slot 0 [] ∧
        u = { s with levels := u.levels, nearMem := u.nearMem, mem := u.mem } ∧
        (∀ l, let old := s.lvl l
          let r := rs.getD l.val .absent
          let hit := r ≠ old.record ∨ bitAt r.lflags.toNat 0 = true
          (hit → u.lvl l = { old with record := r, generations := [], results := [], image := none, ledgerArea := none,
                                      ledger := [], log := (u.lvl l).log }) ∧
          (¬hit → u.lvl l = { old with generations := [], log := (u.lvl l).log }) ∧
          (∀ q, low r = some q → low old.record = some q → ¬zeroed q → (u.lvl l).log = old.log) ∧
          ((∀ q, low r = some q → low old.record = some q → zeroed q) → (u.lvl l).log = .fresh)) ∧
        (∀ a, zeroed (a / 2 ^ 36) → a < 2 ^ 38 → a % 2 ^ 36 < s.quadBytes → memGet u.nearMem a = 0) ∧
        (∀ a, ¬zeroed (a / 2 ^ 36) → memGet u.nearMem a = memGet s.nearMem a))

/-- What JOB.OPEN works on, and with which region, where image and declaration agree on the exchange (R362): `v` is `s` with far
memory as the command meets it, and `w` what the read of the region header leaves. -/
def opensWith (s v : State) (fn : Fin 5) (l : Fin 4) (img : Image) (b : List Byte) (w : State) : Option Region → Prop
  | none => img.usesExchange = false ∧ img.hasExchange = false ∧ (Declaration.ofBytes b).exchange = none ∧ w = v
  | some g => img.usesExchange = true ∧ ∃ e, (Declaration.ofBytes b).exchange = some e ∧ w = v.regionRead l (declEntries b 5) e ∧
      v.checkRegion l img ((s.fn fn.val).features.getLsbD 3) (declEntries b 5) e v.far = .good g

/-- R427, R429, R430: JOB.OPEN. Without an image NOT_FOUND, with a job open BUSY. A payload and declaration that keep the rules
open the job: its Tallies and timers, its ledger area with EMPTY records, its mirror, its cores at fill level 0 and its shares
zeroed; no other Level, and no other core's fill level, changes. The offset, the contributions received and the engines' debts
stay (DEDUCED, notes/assumptions/88.md). A frozen tensor whose read fails makes it REFUSED. -/
def Obligations.JobOpens : Prop :=
  ∀ (s : State) (fn : Fin 5) (slot : Fin 16) (x : Taken) (decl : Option (List Byte)) (env : FarEnv), passes s fn slot 0x20 x →
    let l := x.lvl fn.val
    ((s.lvl l).image = none → answers (.jobOpen fn slot decl env) s fn slot x 7) ∧
    ((s.lvl l).image ≠ none → (s.lvl l).job ≠ none → answers (.jobOpen fn slot decl env) s fn slot x 1) ∧
    (∀ img bs w region, (s.lvl l).image = some img → (s.lvl l).job = none → decl = some bs →
      let b := dmaBytes (x.le 0x28 4) bs
      let d := Declaration.ofBytes b
      let tensors := x.le 2 2
      x.le 0x20 8 % 4096 = 0 → 64 ≤ x.le 0x28 4 → x.le 0x28 4 ≤ 2 ^ 24 → declReadable b = true →
      opensWith s (s.withEnv env) fn l img b w region →
      w.openPayloadOk l x = true → w.sectionsOk l img (x.le 0x10 8, 2048 * tensors) b = true →
      ((w.loadFrozen d.windows d.frozen).2.failedFar ≠ [] →
        ∃ u t, exec (.jobOpen fn slot decl env) s = .next t ∧ replied u t fn slot x 2 []) ∧
      ((w.loadFrozen d.windows d.frozen).2.failedFar = [] →
      ∃ u t, exec (.jobOpen fn slot decl env) s = .next t ∧ goesOn u t fn slot 0 [] ∧ (∀ k, k ≠ l → u.lvl k = w.lvl k) ∧
        (∃ p c w, (u.lvl l).job = some ((jobOf x d region).marked p c w)) ∧ (u.lvl l).image = some img ∧
        (∀ n, (u.lvl l).tally n = ⟨0, 1, false, 0, 0⟩ ∧ (u.lvl l).timer n = ⟨0, false, none⟩ ∧
          ∃ d, (u.lvl l).eng n = { EngineState.fresh with debt := d } ∧
            (tabWf .fresh (w.lvl l).engines = true → d = ((w.lvl l).eng n).debt)) ∧
        (u.lvl l).lstep = 0 ∧ (u.lvl l).offset = (w.lvl l).offset ∧ (u.lvl l).results = (w.lvl l).results ∧ (u.lvl l).slipCount = 0 ∧
         (u.lvl l).requests = [] ∧
        (u.lvl l).ledgerArea = some (x.le 0x10 8, tensors) ∧ (u.lvl l).record = (s.lvl l).record ∧
        (∀ n < tensors, memRead u.nearMem (x.le 0x10 8 + 2048 * n) 2048 = leBytes 2 2 ++ leBytes 2 n ++ List.replicate 2044 0) ∧
        (∀ n, (u.core n).fillLevel = (if n < 16 ∧ (s.lvl l).ownsCore n = true then 0 else (s.core n).fillLevel)) ∧
        (∀ sh ∈ d.shares, ∀ a, sh.core * 2 ^ 26 + sh.start ≤ a → a < sh.core * 2 ^ 26 + sh.start + sh.size →
          memGet u.coreMem a = 0) ∧
        (∀ a, (s.hubShare l).1 ≤ a → a < (s.hubShare l).1 + (s.hubShare l).2 → memGet u.hubMem a = 0)))

/-- R29, R46, R67, R430, R465: JOB.START, REPLAY.START and JOB.CLOSE of an open job. Starting needs LOCKED where the image uses the
exchange, a period within 0.1 % and a start cycle that was still ahead when the message was taken, or is REFUSED; the job takes over
what the message has met since: the first cycle that may begin it, or a discontinuity that stops a job with the exchange; a job that is
not OPEN answers BUSY, one that is still being opened NOT_FOUND. Closing stops a running job at the next boundary, and a job that has
not begun at once. -/
def Obligations.JobsStartAndClose : Prop :=
  ∀ (s : State) (fn : Fin 5) (slot : Fin 16) (x : Taken),
    let l := x.lvl fn.val
    -- the job is started between `v` and `u`: as of the time at which its message was taken
    let started (v u : State) (limit : Nat) (replay : Option Replay) : Prop :=
      NotedIn l (v.setLvl l { v.lvl l with engines := (v.lvl l).freshEngines, job := (v.lvl l).job.map fun j => { j with
        phase := .started, startCycle := BitVec.ofNat 64 (x.le 0 8), stepLimit := limit, beginDue := x.begun,
        stopDue := x.dropped && (v.lvl l).usesExchange && replay.isNone, resident := [], saved := [], replay := replay } }) u
    let ahead (img : Image) (j : Job) : Prop :=
      s.periodOk img = true ∧ x.cycle.toNat < x.le 0 8 ∧ j.restoreDirty = false
    (∀ img j, passes s fn slot 0x21 x → (s.lvl l).image = some img → (s.lvl l).job = some j →
      let good := ¬(img.usesExchange = true ∧ s.cad.state ≠ .locked) ∧ ahead img j
      (j.phase = .opening → answers (.jobStart fn slot) s fn slot x 7) ∧
      (j.phase ≠ .opening → j.phase ≠ .opened → answers (.jobStart fn slot) s fn slot x 1) ∧
      (j.phase = .opened → ¬good → answers (.jobStart fn slot) s fn slot x 2) ∧
      (j.phase = .opened → good → ∃ u t, exec (.jobStart fn slot) s = .next t ∧ started s u (x.le 8 8) none ∧
        replied u t fn slot x 0 [])) ∧
    (passes s fn slot 0x21 x → (s.lvl l).job = none → answers (.jobStart fn slot) s fn slot x 7) ∧
    (∀ img j bs es log, passes s fn slot 0x70 x → (s.lvl l).image = some img → (s.lvl l).job = some j → j.phase = .opened →
      let first := x.le 0x18 8
      let last := x.le 0x20 8
      x.le 8 8 % 4096 = 0 → x.le 0x28 1 ≤ 1 → x.zero 0x29 7 = true → log = some bs →
      parseEntries ((dmaBytes (x.le 0x10 8) bs).length / 64 + 1) (dmaBytes (x.le 0x10 8) bs) = some es → gapless es = true →
      logCovers es img.loop first last = true →
      (∃ e, es.find? (fun e => e.kind = 1) = some e ∧ listLe e.body 64 8 = j.decl.crc.toNat ∧ listLe e.body 72 8 = img.crc.toNat ∧
        listLe e.body 8 8 = j.seed.toNat) →
      s.replayState l j es first = true → ahead img j →
      ∃ u t, exec (.replayStart fn slot log) s = .next t ∧ replied u t fn slot x 0 [] ∧
        started (s.replayMet l j first) u 0 (some
          { log := es, pos := replayPos es first, first := first, last := last, stopOnDiverge := bitAt (x.le 0x28 1) 0,
            diverged := [], done := false })) ∧
    (∀ j, passes s fn slot 0x22 x → (s.lvl l).job = some j →
      (j.phase = .opening → answers (.jobClose fn slot) s fn slot x 7) ∧
      (j.closing ≠ none → j.phase ≠ .opening → answers (.jobClose fn slot) s fn slot x 1) ∧
      (j.closing = none → j.phase = .running ∨ j.phase = .draining ∨ j.phase = .stopped →
        ∃ t, exec (.jobClose fn slot) s = .next t ∧
          goesOn (s.setLvl l { s.lvl l with job := some { j with
            closing := some (some (fn.val, slot.val)),
            stopPending := j.stopPending || decide (j.phase = .running && !j.stopDue) } }) t fn slot 0 []) ∧
      (j.closing = none → j.phase = .opened ∨ j.phase = .started →
        ∃ t j', exec (.jobClose fn slot) s = .next t ∧ (t.lvl l).job = some j' ∧ j'.phase = .stopped ∧
          j'.closing = some (some (fn.val, slot.val)) ∧ ∀ k, k ≠ l → t.lvl k = s.lvl k))

/-- R65, R66, R471: SCHED.LOAD. With a job open BUSY; a failed DMA read is REFUSED with EV_PCIE_READ; an image that keeps every
row of R65 is loaded: its bytes stand in near memory at the address given and nowhere else, and it is the Level's image. -/
def Obligations.ImagesLoad : Prop :=
  ∀ (s : State) (fn : Fin 5) (slot : Fin 16) (x : Taken) (image : Option (List Byte)), passes s fn slot 0x23 x →
    let l := x.lvl fn.val
    let size := x.le 8 8
    let near := x.le 0x10 8
    let i : Instr := .schedLoad fn slot image
    let placed := x.le 0 8 % 4096 = 0 ∧ 128 ≤ size ∧ size ≤ 2 ^ 30 ∧ near % 65536 = 0 ∧ s.nearRangeOk l near size = true ∧
      overlaps near size (s.pitBase l) (2 ^ 30) = false
    ((s.lvl l).job ≠ none → answers i s fn slot x 1) ∧
    ((s.lvl l).job = none → ¬placed → answers i s fn slot x 2) ∧
    ((s.lvl l).job = none → placed → image = none →
      ∃ u t, exec i s = .next t ∧ replied s u fn slot x 2 [] ∧
        Raises u t (u.event 0x5002 (if fn.val = 0 then none else some (Fin.ofNat 4 (fn.val - 1))) 0 0x23 0 (x.le 0 8) 0 0)) ∧
    (∀ bs, (s.lvl l).job = none → placed → image = some bs →
      let b := dmaBytes size bs
      let major := listLe b 4 2
      let known := listLe b 0 4 = 0x53484457 ∧ (major = 2 ∨ (major = 3 ∧ (s.fn fn.val).features.getLsbD 1 = true) ∨
        (major = 4 ∧ (s.fn fn.val).features.getLsbD 2 = true))
      (¬known → answers i s fn slot x 4) ∧
      (known → (listLe b 0x40 8 ≠ size ∨ readImage (s.lvl l) near b = none) → answers i s fn slot x 2) ∧
      (∀ img, known → listLe b 0x40 8 = size → readImage (s.lvl l) near b = some img →
        ∃ u t, exec i s = .next t ∧ replied u t fn slot x 0 [] ∧
          u = { s with levels := u.levels, nearMem := u.nearMem, mem := u.mem, cad := u.cad } ∧
          u.cad = { s.cad with holdPeriod := u.cad.holdPeriod } ∧ (∀ k, k ≠ l → u.lvl k = s.lvl k) ∧
          u.lvl l = { s.lvl l with image := some img } ∧ memRead u.nearMem near size = b ∧
          ∀ a, (a < near ∨ near + size ≤ a) → memGet u.nearMem a = memGet s.nearMem a))

/-- R337, R344, R345, R347, R351, R353, R354: the request messages. REQ.SUBMIT queues a request under a fresh handle; REQ.CANCEL
frees a queued request at once (under containment its final record waits, R416), leaves an admitted one to its boundary, and comes
too late for an ended one; REQ.STREAM reads or sets a request's counts and notification; REQ.PAGES adds pages. A handle that names
no request is answered NOT_FOUND. -/
def Obligations.RequestMessages : Prop :=
  ∀ (s : State) (fn : Fin 5) (slot : Fin 16) (x : Taken),
    let l := x.lvl fn.val
    let ls := s.lvl l
    -- what the request messages may leave changed
    let frees (u : State) : Prop :=
      u = { s with raised := u.raised, levels := u.levels, fns := u.fns, hostMem := u.hostMem, freeCtr := u.freeCtr } ∧
      ∀ k, k ≠ l → u.lvl k = s.lvl k
    -- REQ.SUBMIT
    (passes s fn slot 0x30 x →
      let b := x.le 0 1
      (ls.batchDecl b = none → answers (.reqSubmit fn slot) s fn slot x 7) ∧
      (∀ d, ls.batchDecl b = some d →
        let i := lowestFree ls.requests
        let gen := tabGet 0 ls.generations i % 4095 + 1
        let full := ls.contexts ≤ i ∨ d.le 0x18 4 ≤ (ls.batch b).queue.length
        let q : Request := { Request.free with
          fn := fn.val, batch := b, payload := x.payload, notifyEvery := x.le 0x22 2, notifyVector := x.le 0x24 1,
          deadline := BitVec.ofNat 64 (x.le 0x38 8) }
        (full → answers (.reqSubmit fn slot) s fn slot x 1) ∧
        (¬full → q.fieldsOk d = false → answers (.reqSubmit fn slot) s fn slot x 2) ∧
        (¬full → q.fieldsOk d = true →
          ∃ u t, exec (.reqSubmit fn slot) s = .next t ∧
            replied u t fn slot x 0 (leBytes 4 (i + gen * 2 ^ 20) ++ leBytes 4 (ls.batch b).queue.length) ∧ frees u ∧
            ((u.lvl l).batch b).queue = (ls.batch b).queue ++ [i] ∧
            (∀ k, (u.lvl l).request k = if k = i
              then { q with handle := BitVec.ofNat 32 (i + gen * 2 ^ 20), pages := q.firstPages } else ls.request k)))) ∧
    -- REQ.CANCEL
    (passes s fn slot 0x31 x →
      (ls.live? (x.le 0 4) = none → answers (.reqCancel fn slot) s fn slot x 7) ∧
      (∀ i, ls.live? (x.le 0 4) = some i →
        let q := ls.request i
        (q.state = 0 → ∃ u t, exec (.reqCancel fn slot) s = .next t ∧ replied u t fn slot x 0 [] ∧ frees u ∧
          (s.isContained l = false → (u.lvl l).request i = .free) ∧
          (s.isContained l = true → ((u.lvl l).request i).state = 3 ∧ ((u.lvl l).request i).records = q.records + 1) ∧
          ((u.lvl l).batch q.batch).queue = (ls.batch q.batch).queue.filter fun k => k ≠ i) ∧
        (q.state = 1 → ∃ t, exec (.reqCancel fn slot) s = .next t ∧
          goesOn (s.setRequest l i { q with cancels := q.cancels ++ [(fn.val, slot.val)] }) t fn slot 0 []) ∧
        (1 < q.state → answers (.reqCancel fn slot) s fn slot x (if q.state = 3 then 0 else 6)))) ∧
    -- REQ.STREAM
    (passes s fn slot 0x32 x →
      (x.le 4 1 ≠ 1 → ls.live? (x.le 0 4) = none → answers (.reqStreamRead fn slot) s fn slot x 7) ∧
      (∀ i, x.le 4 1 = 0 → ls.live? (x.le 0 4) = some i →
        let q := ls.request i
        ∃ t, exec (.reqStreamRead fn slot) s = .next t ∧
          replied (s.progressOf l q).2 t fn slot x 0 (leBytes 4 q.state ++ leBytes 4 (q.records - q.backlog.length) ++
            leBytes 4 q.backlog.length ++ leBytes 4 q.unwritten ++ leBytes 4 (s.progressOf l q).1.1 ++ leBytes 4 (s.progressOf l q).1.2 ++
            leBytes 4 (q.row.getD 0xFFFFFFFF))) ∧
      (∀ i, x.le 4 1 = 1 → ls.live? (x.le 0 4) = some i → x.le 8 1 ≤ 63 →
        ∃ t, exec (.reqStreamSetNotify fn slot) s = .next t ∧
          replied (s.setRequest l i { ls.request i with notifyEvery := x.le 6 2, notifyVector := x.le 8 1 }) t fn slot x 0 [])) ∧
    -- REQ.PAGES
    (passes s fn slot 0x33 x →
      (ls.live? (x.le 0 4) = none → answers (.reqPages fn slot) s fn slot x 7) ∧
      (∀ i, ls.live? (x.le 0 4) = some i →
        let q := ls.request i
        let n := x.le 4 2
        let ps := (List.range n).map fun k => x.le (8 + 8 * k) 8
        let good := q.ended = false ∧ 1 ≤ n ∧ n ≤ 500 ∧ (∀ p ∈ ps, p % 4096 = 0) ∧ q.unwritten + n ≤ 1024
        (¬good → answers (.reqPages fn slot) s fn slot x 2) ∧
        (good → ∃ u t, exec (.reqPages fn slot) s = .next t ∧ replied u t fn slot x 0 [] ∧ frees u ∧
          ((u.lvl l).request i).pages = q.pages ++ ps ∧ ((u.lvl l).request i).records = q.records)))

/-- R384, R450, R454, R455, R458: the snapshot and roster messages that are taken up: SNAP.TAKE waits on its job's next SNAP_WRITE, a
ROSTER message on its Level's next ROSTER_SYNC; SNAP.RESTORE leaves the job with the generation restored, or answers REFUSED with
EV_SNAP_DIGEST; SNAP.FILL ends with the generation its last source gave. -/
def Obligations.SnapshotAndRosterMessages : Prop :=
  ∀ (s : State) (fn : Fin 5) (slot : Fin 16) (x : Taken),
    let l := x.lvl fn.val
    (∀ j (img : Image), passes s fn slot 0x40 x → (s.lvl l).job = some j → (s.lvl l).image = some img →
      let writes := (j.phase = .running ∨ j.phase = .draining) ∧ ∃ en ∈ img.entries, en.engine = 0x60 ∧ en.opcode = 0x20
      (¬writes → answers (.snapTake fn slot) s fn slot x 7) ∧
      (writes → j.snapTake ≠ none → answers (.snapTake fn slot) s fn slot x 1) ∧
      (writes → j.snapTake = none → x.zero 0 8 = true → ∃ t, exec (.snapTake fn slot) s = .next t ∧
        goesOn (s.setLvl l { s.lvl l with job := some { j with snapTake := some (fn.val, slot.val) } }) t fn slot 0 [])) ∧
    (∀ p ∈ [(Instr.rosterJoin fn slot, 0x50, true), (.rosterLeave fn slot, 0x51, false)], passes s fn slot p.2.1 x →
      let exchange := ((s.lvl l).job.filter fun j => j.phase ≠ .opening).bind Job.exchange
      (exchange = none → answers p.1 s fn slot x 7) ∧
      (∀ e, exchange = some e →
        (e.region.capacity ≤ x.le 0 2 → answers p.1 s fn slot x 7) ∧
        (x.le 0 2 < e.region.capacity → s.rosterMsg ≠ none → answers p.1 s fn slot x 1) ∧
        (x.le 0 2 < e.region.capacity → s.rosterMsg = none → x.zero 2 6 = true → (p.2.2 = false → x.zero 0x10 16 = true) →
          ∃ t r, exec p.1 s = .next t ∧ goesOn { s with rosterMsg := some r } t fn slot 0 [] ∧ r.level = l.val ∧ r.fn = fn.val ∧
            r.slot = slot.val ∧ r.join = p.2.2 ∧ r.index = x.le 0 2 ∧ r.effective = x.le 8 8 ∧ r.status = none))) ∧
    (∀ j (img : Image) env st plan w g, passes s fn slot 0x41 x → (s.lvl l).job = some j → (s.lvl l).image = some img →
      j.phase = .opened →
      let v := s.withEnv env
      let ws := v.windows l
      -- the store header, and the section table of the generation, as they are read
      let head := readFar v (headframeCmd l) .empty (x.le 0 8) 4096
      let table := readFar v (headframeCmd l) (st.scan ws v.far head.2) (st.slotAt g.slot + 0x1000) (32 * g.sections)
      let snap := (List.range g.sections).map fun i => Section.ofBytes (listSlice table.1 (32 * i) 32)
      windowOf ws (x.le 0 8) = some w → Store.ofBytes (x.le 0 8) head.1 = some st →
      img.plan (x.le 0x10 8) (x.le 0x18 2) = some plan → 1 ≤ x.le 0x18 2 → x.le 0x18 2 ≤ 64 → x.zero 0x1A 6 = true →
      1 ≤ st.format → st.format ≤ 3 →
      (if x.le 8 8 = 2 ^ 64 - 1 then newestOf (st.generations ws v.far)
        else (st.generations ws v.far).find? fun g => g.number = x.le 8 8) = some g →
      (∀ y ∈ plan, (y.far = false → overlapsFrozen j.decl.frozen y.addr y.size = false ∧ s.nearRangeOk l y.addr y.size = true) ∧
        (y.far = true → farTargetOk ws y.addr y.size = true)) →
      sectionsPair g.format snap plan = true → g.seed = j.seed.toNat →
      let r := restoreWork v l st g snap plan table.2
      -- what the command has read and moved is counted
      let after := (r.state.countReads r.acc.weak).chargeFar l r.acc.farBytes
      (r.acc.readsOk = false → ∃ u t, exec (.snapRestore fn slot env) s = .next t ∧ replied u t fn slot x 2 []) ∧
      (r.acc.readsOk = true → r.failed = none →
         ∃ u t, exec (.snapRestore fn slot env) s = .next t ∧ goesOn u t fn slot 0 (leBytes 8 g.number) ∧
        u = { after with raised := u.raised, levels := u.levels, fns := u.fns } ∧ (∀ k, k ≠ l → u.lvl k = after.lvl k) ∧
        ∃ p c m, (u.lvl l).job = some ({ j with restoreDirty := false, restored := some (g.number, g.table) }.marked p c m)) ∧
      (∀ n, r.acc.readsOk = true → r.failed = some n →
         ∃ u t, exec (.snapRestore fn slot env) s = .next t ∧ Raises u t (u.event 0x9001 (some l) 0 0 0 g.number n 0) ∧
        replied (after.updJob l fun j => { j with restoreDirty := j.restoreDirty || r.wrote }) u fn slot x 2 [])) ∧
    (∀ env faults st, passes s fn slot 0x42 x → (s.lvl l).job = none →
      let v := s.withEnv env
      let bytes (o : Nat) : List Byte := padTo 32 (listSlice x.payload o 32)
      let dst := FarWindow.ofBytes (listSlice x.payload 0 32)
      let n := x.le 0x30 1
      -- what the reads of the destination's header and of the sources' stores give, and the state in which it has been reported
      let head := v.fillRead l dst (x.le 0x20 8) 4096
      let sources := head.2.2.fillSources l x n
      let w := sources.2.reportFarIn [dst] (headframeCmd l) (st.scan [dst] sources.2.far .empty)
      1 ≤ n → n ≤ 16 → v.windowOk l (bytes 0) = true → dst.persistent = true → x.zero 0x31 15 = true →
      (∀ i < n, v.windowOk l (bytes (0x40 + 48 * i)) = true ∧ x.zero (0x68 + 48 * i) 8 = true) →
      windowsApart (dst :: (List.range n).map fun i => FarWindow.ofBytes (bytes (0x40 + 48 * i))) = true →
      Store.ofBytes (x.le 0x20 8) head.1 = some st → st.format = 3 →
      let slotTo := st.chooseSlot [dst] w.far
      let wanted := if x.le 0x28 8 = 2 ^ 64 - 1 then (newestHeld sources.1 0 none).getD (2 ^ 64 - 1) else x.le 0x28 8
      let f0 : Filling := ⟨w, sources.1, wanted, none, [], 0, 0, 0xFFFF, false, false,
        (sources.1.map FillSource.headBytes).sum + (4096 + 4096 * st.slots)⟩
      let f := fillLoop l dst (st.slotAt slotTo) slotTo faults (2 * n + 2)
        ((f0.put dst (st.slotAt slotTo) (List.replicate 8 0)).flush dst)
      -- what it has moved is counted, and the notices that have arisen in it wait for its reply (R442, R567)
      let after := (f.state.chargeFar l f.far).replyBefore s fn.val slot.val
      ∃ t, exec (.snapFill fn slot env faults) s = .next t ∧
        (f.done = true → goesOn after t fn slot 0 (leBytes 8 f.gen ++ leBytes 4 f.copied ++ leBytes 2 f.interruptions)) ∧
        (f.done = false → goesOn after t fn slot 5 []) ∧
        ∀ n ∈ (t.fn fn.val).waiting, (∀ o ∈ (s.fn fn.val).waiting, o.event ≠ n.event) → n.after = some (fn.val, x.seq))

/-- R198, R463, R464, R502, R524: the messages that copy something out, each while none of its kind is being worked: LEDGER.READ and
LOG.EXPORT into a window or host memory, ASSAY.READ of each kind, and ATTEST.QUOTE; and TALLY_LOG_ENTRY, which enters the Tallies
that an earlier LOG.EXPORT asked for. -/
def Obligations.CopiesOut : Prop :=
  ∀ (s : State) (fn : Fin 5) (slot : Fin 16) (x : Taken),
    let l := x.lvl fn.val
    let ls := s.lvl l
    let f := s.fn fn.val
    -- the bytes stand at an offset of the function's BAR0, or else at an address of host memory
    let copied (u : State) (bar : Bool) (off addr : Nat) (bs : List Byte) : Prop :=
      (bar = true → memRead u.barMem (barKey fn.val off) bs.length = bs ∧
        u = { s with barMem := u.barMem, levels := u.levels, freeCtr := u.freeCtr }) ∧
      (bar = false → memRead u.hostMem addr bs.length = bs ∧
        u = { s with hostMem := u.hostMem, levels := u.levels, freeCtr := u.freeCtr })
    let alone := ∀ y ∈ f.taken, ¬(y.msg = x.msg ∧ y.working = true)
    (passes s fn slot 0x60 x → ¬alone → answers (.ledgerRead fn slot) s fn slot x 1) ∧
    (∀ base total, passes s fn slot 0x60 x → alone → ls.ledgerArea = some (base, total) → x.le 0 2 + x.le 2 2 ≤ total →
      1 ≤ x.le 2 2 → x.le 2 2 ≤ 512 → x.zero 6 2 = true →
      (x.le 4 1 = 0 ∧ x.le 8 8 < 512 ∧ x.le 8 8 + x.le 2 2 ≤ 512) ∨ (x.le 4 1 = 1 ∧ x.le 8 8 % 2048 = 0) →
      let rs := (List.range (x.le 2 2)).map fun i => (x.le 0 2 + i, ls.record_ (x.le 0 2 + i))
      ∃ u t, exec (.ledgerRead fn slot) s = .next t ∧
        copied u (decide (x.le 4 1 = 0)) (0x300000 + 0x800 * x.le 8 8) (x.le 8 8) (rs.flatMap fun r => r.2.bytes r.1) ∧
        goesOn u t fn slot 0 (leBytes 2 (x.le 2 2) ++ leBytes 2 (rs.countP fun r => r.2.state = 1) ++ leBytes 4 0 ++
          leBytes 8 s.cad.number.toNat ++ leBytes 2 s.angle)) ∧
    (passes s fn slot 0x61 x → x.le 1 1 = 0 →
      (∃ y ∈ f.taken, y.msg = 0x61 ∧ y.working = true ∧ ∀ q ∈ s.asy.waiting, q.for_ ≠ .message fn.val y.slot) ∨
        8 ≤ s.asy.requested ∨ s.asy.linkUp = false ∨ s.asy.vasy = false →
      answers (.assayReadNew fn slot) s fn slot x 1) ∧
    (passes s fn slot 0x61 x → s.assayBar fn.val x = none →
      (x.le 1 1 = 0 → ∃ t, exec (.assayReadNew fn slot) s = .next t ∧
        goesOn { s with asy := { s.asy with waiting := s.asy.waiting ++ [⟨x.le 0 1, 0, .message fn.val slot.val, none⟩] } }
          t fn slot 0 []) ∧
      (x.le 1 1 = 1 →
        let rs := (s.asy.tot.records.filter fun r => decide (r.1 = x.le 0 1) && decide (x.le 8 8 ≤ listLe r.2 8 8)).take (x.le 2 2)
        (rs = [] → answers (.assayReadBySeq fn slot) s fn slot x 7) ∧
        (∀ r more, rs = r :: more → ∃ u t, exec (.assayReadBySeq fn slot) s = .next t ∧
          copied u (decide (x.le 0x10 8 = 0)) 0x201000 (x.le 0x10 8) (rs.flatMap Prod.snd) ∧
          goesOn u t fn slot 0 (s.assayReply rs.length (listLe r.2 8 8) (listLe (rs.getLastD r).2 8 8 + 1)))) ∧
      (x.le 1 1 = 2 →
        let es := (s.asy.tot.log.drop (x.le 8 8)).take (x.le 2 2)
        (es = [] → answers (.assayReadLog fn slot) s fn slot x 7) ∧
        (es ≠ [] → ∃ u t, exec (.assayReadLog fn slot) s = .next t ∧
          copied u (decide (x.le 0x10 8 = 0)) 0x201000 (x.le 0x10 8) es.flatten ∧
          goesOn u t fn slot 0 (s.assayReply es.length (x.le 8 8) (x.le 8 8 + es.length)))) ∧
      (x.le 1 1 = 3 → ∃ u t a b c, exec (.assayReadCert fn slot) s = .next t ∧
        copied u (decide (x.le 0x10 8 = 0)) 0x201000 (x.le 0x10 8) Config.assayCert ∧
        goesOn u t fn slot 0 (s.assayReply a b c))) ∧
    (passes s fn slot 0x62 x → (¬alone → answers (.attestQuote fn slot) s fn slot x 1) ∧
      (alone → x.zero 0x30 16 = false → answers (.attestQuote fn slot) s fn slot x 2) ∧
      (alone → x.zero 0x30 16 = true → ∃ t, exec (.attestQuote fn slot) s = .next t ∧
        goesOn (s.quote fn.val (listSlice x.payload 0 48)).2 t fn slot 0 (s.quote fn.val (listSlice x.payload 0 48)).1)) ∧
    (passes s fn slot 0x63 x →
      let units := x.le 8 4
      let oldest := (ls.log.entries.head?.map fun e => e.seq.toNat).getD ls.log.nextSeq
      let bs := (entriesFitting units (ls.log.entries.filter fun e => decide (x.le 0 8 ≤ e.seq.toNat))).flatMap LogEntry.bytes
      (¬alone → answers (.logExport fn slot) s fn slot x 1) ∧
      (alone → ls.log.nextSeq ≤ x.le 0 8 → answers (.logExport fn slot) s fn slot x 7) ∧
      (alone → x.le 0 8 < ls.log.nextSeq → 1 ≤ units → units ≤ 65536 → x.le 0xC 1 < 2 → x.le 0xE 2 ≤ 1024 →
        x.le 0x10 2 + x.le 0xE 2 ≤ 256 * ls.record.tallyBlocks → x.zero 0x12 6 = true → (x.le 0xC 1 ≠ 0 → x.le 0x18 8 % 4096 = 0) →
        ∃ u t, exec (.logExport fn slot) s = .next t ∧ copied u (decide (x.le 0xC 1 = 0)) 0x400000 (x.le 0x18 8) bs ∧
          goesOn u t fn slot 0 (exportReply (max (x.le 0 8) oldest) (bs.length / 64) ls.log.nextSeq oldest ls.log.lost) ∧
          (u.lvl l).tallyLog = (if x.le 0xE 2 = 0 then ls.tallyLog else ls.tallyLog ++ [(x.le 0x10 2, x.le 0xE 2, s.cad.ordinal)]))) ∧
    (∀ k, ∃ t, exec (.tallyLogEntry k) s = .next t ∧
      Noted (s.updLvl k fun ls => { ls with tallyLog := ls.tallyLog.filter fun q => !decide (q.2.2 < s.cad.ordinal) }) t ∧
      (∀ q, (s.lvl k).tallyLog = [q] → (s.lvl k).log.units < 2 ^ 23 → (s.lvl k).present = true → q.2.2 < s.cad.ordinal → q.2.1 ≤ 1024 →
        ∃ e more, (t.lvl k).log.entries = (s.lvl k).log.entries ++ e :: more ∧ e.kind = 0x0F ∧ e.body = tallyBody (s.lvl k) q.1 q.2.1))

/-! ### Boot, firmware, errors and devices -/

/-- A reset of the part leaves `t` of `s` (R472, R493): everything is as after power-up but the fuses, the Assay, memory outside
the part and the flushes its links have asked for, and the model's clock and queue. -/
def partCleared (s t : State) : Prop :=
  t = { State.reset with
    now := s.now, freeCtr := t.freeCtr, pending := s.pending, boot := t.boot, cad := .fresh s.now, farMem := s.farMem,
    flushes := t.flushes, hostMem := s.hostMem, asy := s.asy } ∧
  t.boot.rollback = s.boot.rollback ∧ t.boot.revoked = s.boot.revoked ∧ t.boot.fw = .awaiting ∧ t.boot.window = [] ∧
  t.boot.sram = [] ∧ t.boot.fwDigest = 0

/-- Boot state `t` is what the ROM leaves of `c`: it has run where RESET_L is high with the rails up and THERMTRIP_L high, has trained
the link where PE_PERST_L is high, and has sampled the debug token (R494, R506). -/
def romRan (c t : Boot) : Prop :=
  t = if c.resetHigh = true ∧ c.rails = true ∧ c.thermtripHigh = true then
      { c with romDone := true, linkUp := c.perstHigh, debugUnlocked := c.tokenPending, tokenPending := false, challenge := t.challenge }
    else c

/-- A part reset leaves `t` of `s`: the jobs found open have their links flushed, the part is cleared, and restarts with the boot state
that `f` makes of its rails, pins, fuses and waiting token. Where RESET_L is high with the rails up and THERMTRIP_L high, its ROM has
run (R409, R493, R494, R506). -/
def restarts (s t : State) (f : Boot → Boot) : Prop :=
  let b := s.boot
  partCleared s t ∧ t.flushes = s.flushJobs.flushes ∧ romRan (f { Boot.fresh b.rollback b.revoked with
    rails := b.rails, vaux := b.vaux, resetHigh := b.resetHigh, perstHigh := b.perstHigh, thermtripHigh := b.thermtripHigh,
    tokenPending := b.tokenPending }) t.boot

/-- R19, R409, R472, R492 to R494, R506, R527, R540, R558: the resets. One that finds jobs open first flushes the links of their
persistent windows, unless THERMTRIP_L has gone low. After each the ROM has run only where RESET_L is high with the rails up and
THERMTRIP_L high; the ROM samples the debug token. A rail out of tolerance, RESET_L falling and the PCIe link going down are part
resets; the loss of VASY, rail 10, takes none of the other rails with it (the model's choice, notes/assumptions/112.md), and whether
PE_PERST_L has fallen with the link is a free value. A ROM run with a fatal self-test fault is a part reset again. A Function Level
Reset, while the Adit answers, frees the slots of its functions, gives their registers their reset values, keeps the messages
already taken whose effects are still to complete, their replies discarded, and closes the jobs of their Levels but one that is
still being opened; the reset of the PF is that of every function, and takes REJECTED back to AWAITING. -/
def Obligations.Resets : Prop :=
  ∀ s : State,
    let b := s.boot
    (∃ t, exec .powerUp s = .next t ∧ partCleared s t ∧ t.boot = .fresh b.rollback b.revoked ∧ t.flushes = s.flushes) ∧
    (∀ rail : Fin 11,
      let lost (c : Boot) : Boot := { c with rails := c.rails && decide (rail.val = 10), vaux := c.vaux && decide (rail.val ≠ 9) }
      (b.resetHigh = true → ∃ t, exec (.railOutOfTolerance rail) s = .next t ∧ restarts s t lost ∧
        (rail.val ≠ 10 → t.boot.romDone = false ∧ t.boot.rails = false)) ∧
      (b.resetHigh = false → exec (.railOutOfTolerance rail) s = .next { s with boot := lost b })) ∧
    (∃ t, exec .resetLLow s = .next t ∧ restarts s t (fun c => { c with resetHigh := false }) ∧ t.boot.romDone = false ∧
      t.boot.resetHigh = false) ∧
    (∃ t, exec .pcieLinkDown s = .next t ∧
      restarts s t (fun c => { c with perstHigh := c.perstHigh && !Config.perstFalls s.freeCtr }) ∧
      (Config.perstFalls s.freeCtr = true → t.boot.perstHigh = false ∧ t.boot.linkUp = false) ∧
      (t.boot.romDone = true ↔ b.resetHigh = true ∧ b.rails = true ∧ b.thermtripHigh = true)) ∧
    (∀ faults, b.resetHigh = true → exec (.resetLRise faults) s = .next s) ∧
    (b.resetHigh = false →
      let c : Boot := { b with resetHigh := true, rails := true, vaux := true }
      (∀ faults, b.thermtripHigh = false → exec (.resetLRise faults) s = .next { s with boot := c }) ∧
      (b.thermtripHigh = true → ∃ t, exec (.resetLRise (some 0)) s = .next t ∧
        t = { s with freeCtr := t.freeCtr, boot := t.boot } ∧ romRan c t.boot) ∧
      (∀ n, b.thermtripHigh = true → ∃ t, exec (.resetLRise (some (n + 1))) s = .next t ∧
        restarts { s with boot := c } t fun x => { x with tokenPending := false }) ∧
      (b.thermtripHigh = true → ∃ t, exec (.resetLRise none) s = .next t ∧ partCleared s t ∧ t.flushes = s.flushes ∧
        t.boot = { Boot.fresh b.rollback b.revoked with resetHigh := true, perstHigh := b.perstHigh })) ∧
    exec .pePerstLRise s = .next { s with boot := { b with perstHigh := true, linkUp := b.romDone } } ∧
    let functionReset (t : State) (n : Nat) : Prop :=
      (∀ i < 16, t.bar n (inSlot i) 4 = 0 ∧ t.bar n (outSlot i) 4 = 0) ∧
        ∃ tk sent pend, t.fn n = { Fn.fresh with taken := tk, msixSent := sent, msixPending := pend } ∧ ∀ y ∈ tk, y.orphan = true
    (s.aditUp = false → exec .functionLevelResetPf s = .next s ∧ ∀ l, exec (.functionLevelResetVf l) s = .next s) ∧
    (s.aditUp = true → s.wellFormed = true →
      (∀ l : Fin 4, ∃ t, exec (.functionLevelResetVf l) s = .next t ∧ functionReset t (l.val + 1) ∧ t.boot = b ∧
        (∀ k, k ≠ l → t.lvl k = s.lvl k) ∧
        ((s.lvl l).job = none → t = { s with barMem := t.barMem, fns := t.fns } ∧ (t.fn (l.val + 1)).msixPending = 0 ∧
          (t.fn (l.val + 1)).taken = ((s.fn (l.val + 1)).taken.filter (s.fn (l.val + 1)).completes).map fun y => { y with orphan := true }) ∧
        ∀ j, (s.lvl l).job = some j → j.closing = none →
          (j.phase = .opening → t.lvl l = s.lvl l) ∧
          (j.phase = .running ∨ j.phase = .draining → (t.lvl l).job = some { j with
            closing := some none, stopPending := j.stopPending || decide (j.phase = .running && !j.stopDue) }) ∧
          (j.phase = .opened ∨ j.phase = .started ∨ j.phase = .stopped → (t.lvl l).job = none)) ∧
      ∃ t, exec .functionLevelResetPf s = .next t ∧ (∀ n < 5, functionReset t n) ∧
        t.boot = (if b.fw = .rejected then { b with fw := .awaiting, window := [] } else b))

/-- R395, R422, R498 to R501, R504 to R506, R530: COMMIT, while the Adit answers, copies the image from the window, verifies it and
names the first check it fails; BRINGUP_COMPLETE of a verified image trains the memories and links, blows the fuses and runs the
firmware, L0 holding every trained quadrant and each quadrant at the voltage of its bin, or ends REJECTED with REASON 6; a part reset
amid the fuse writes leaves those done so far, the counter's before the keys' (the model's choice, notes/assumptions/117.md);
IDE_KEY_REFRESH renews the keys of a half with IDE; a valid debug token waits for a part reset. -/
def Obligations.FirmwareRuns : Prop :=
  ∀ s : State,
    let b := s.boot
    (∀ fn value, fn ≠ 0 → exec (.commit fn value) s = .next s) ∧
    (∀ value, s.aditUp = true → b.fw ≠ .awaiting ∨ value ≠ 0x434F4D54 → exec (.commit 0 value) s = .next (counted s 0)) ∧
    (s.aditUp = true → b.fw = .awaiting →
      let w := b.window
      let x := FwImage.ofMem w
      let rejects (n : Nat) : Prop :=
        exec (.commit 0 0x434F4D54) s = .next { s with boot := { b with fw := .rejected, reason := n, sram := b.copyImage.sram } }
      let known := sha384 x.publicKey = Config.fusedKeyDigest x.key
      let signed := ecdsaVerify x.publicKey x.digest x.signature = true
      (fwFormatOk w = false → rejects 1) ∧
      (fwFormatOk w = true → b.revoked.getLsbD x.key = true → rejects 2) ∧
      (fwFormatOk w = true → b.revoked.getLsbD x.key = false → ¬known → rejects 3) ∧
      (fwFormatOk w = true → b.revoked.getLsbD x.key = false → known → ¬signed → rejects 4) ∧
      (fwFormatOk w = true → b.revoked.getLsbD x.key = false → known → signed → x.svn < b.rollback → rejects 5) ∧
      (fwFormatOk w = true → b.revoked.getLsbD x.key = false → known → signed → b.rollback ≤ x.svn →
        exec (.commit 0 0x434F4D54) s = .next { s with boot := { b with
          fw := .verifying, reason := 0, sram := b.copyImage.sram, fwDigest := x.digest, svn := x.svn, fwFlags := x.flags, keyIndex := x.key,
          board := x.board } })) ∧
    (∀ found, b.fw ≠ .verifying ∨ b.awake = false → exec (.bringupComplete found) s = .next s) ∧
    (∀ found, b.fw = .verifying → b.awake = true →
      let rate (d : Nat) : Nat := trainedRate b.board.ceiling (found.rates.getD d 0)
      let trained (q : Nat) : Prop := ∀ d < 8, rate (8 * q + d) ≠ 0
      let runs := found.hubOk = true ∧ ∃ q < 4, trained q
      let fuses := if bitAt b.fwFlags 0 = true then b.svn - b.rollback else 0
      let keys := if bitAt b.fwFlags 1 = true then (List.range b.keyIndex).filter fun k => !b.revoked.getLsbD k else []
      let cut (n : Nat) : Prop := runs ∧ found.cut = some n ∧ n < fuses + keys.length
      let half (h : Nat) : LinkHalf := b.board.linkHalf h (found.links.getD h default)
      (∀ n, cut n → ∃ t, exec (.bringupComplete found) s = .next t ∧ (∀ k, t.lvl k = State.reset.lvl k) ∧ t.boot.fw = .awaiting ∧
        t.boot.rollback = b.rollback + min n fuses ∧
        (∀ k < 4, t.boot.revoked.getLsbD k = true ↔ (b.revoked.getLsbD k = true ∨ k ∈ keys.take (n - fuses)))) ∧
      ((∀ n, ¬cut n) → ∃ t, exec (.bringupComplete found) s = .next t ∧ t.nearMem = [] ∧ t.coreMem = s.coreMem ∧ t.farMem = s.farMem ∧
        t.asy = s.asy ∧ t.cad = s.cad ∧ (∀ q < 4, (t.mem.quads.getLsbD q = true ↔ trained q)) ∧
        (∀ d < 32, rate d = 0 → Raises s t (s.event 0x3031 none 0 d 0 0 0 0)) ∧
        (¬runs → t.boot = { b with fw := .rejected, reason := 6 } ∧ ∀ k, (t.lvl k).record = (s.lvl k).record) ∧
        (runs →
          t.boot = { b with
            fw := .running, cxTrained := t.boot.cxTrained,
            revoked := b.revoked ||| (if bitAt b.fwFlags 1 = true then BitVec.ofNat 4 (2 ^ b.keyIndex - 1) else 0),
            rollback := if bitAt b.fwFlags 0 = true then max b.rollback b.svn else b.rollback } ∧
          (∀ p < 8, t.boot.cxTrained.getLsbD p = true ↔
            (b.cxTrained.getLsbD p = true ∨ (half (2 * p)).up = true ∨ (half (2 * p + 1)).up = true)) ∧
          t.pwr = { s.pwr with quads := (List.range 4).map fun q =>
            { s.quad q with millivolts := Config.binVolts q (s.quad q).bin } } ∧
          (t.lvl 0).record = ⟨t.mem.quads.setWidth 8, 0, 32, 16, 32, 8, 0xFF, 0x0F, 0xFFFF, 0xFFFF⟩ ∧
          (∀ k, k ≠ 0 → (t.lvl k).record = (s.lvl k).record) ∧
          (∀ h < 16, t.link h = half h ∧
            ((half h).up = true → (half h).type3 = false → Raises s t (s.event 0x3030 none 0 (h / 2) 0 1 0 0)) ∧
            ((half h).type3 = true → b.board.ideTried (found.links.getD h default) = true → (half h).ide = false →
              Raises s t (s.event 0x6002 none 0 h 0 0 0 0))) ∧
          (bitAt b.fwFlags 0 = true → b.rollback < b.svn → Raises s t (s.event 0x6001 none 0 0 0 b.svn 0 0))))) ∧
    (∀ half : Fin 16, exec (.ideKeyRefresh half) s =
      .next (if (s.link half.val).up = true ∧ (s.link half.val).ide = true
        then s.setLink half.val { s.link half.val with refreshes := (s.link half.val).refreshes + 1 } else s)) ∧
    (∀ token, exec (.debugUnlockToken token) s =
      .next (if b.awake = true ∧ Config.debugTokenOk partIdentity b.challenge token = true
        then { s with boot := { b with tokenPending := true } } else s))

/-- A job open on the Level is contained, and stops. -/
def containedIn (s t : State) (l : Fin 4) : Prop :=
  ∀ j, (s.lvl l).job = some j → j.phase ≠ .opening → j.phase ≠ .stopped →
    ∃ j', (t.lvl l).job = some j' ∧ j'.contained = true ∧ (j.phase ≠ .draining → j'.stopPending = true)

/-- The far-memory reads of Crusher commands whose manifest, or a bitstream still to be delivered, stands on a link half have failed, on
the Levels that use the half (R254; which commands those are is the model's choice, notes/assumptions/20.md). -/
def mediaFailed (s : State) (half : Nat) : State :=
  (List.finRange 4).foldl (fun (s : State) l =>
    if (s.lvl l).usesHalf half then
      (List.range 10).foldl (fun (s : State) i => s.failMedia l (0x28 + i) (s.mediaOn l half)) s
    else s) s

/-- R16, R254, R400, R401, R411, R412, R415, R416, R568: errors and devices. Every uncorrectable error raises its event and contains
the Level it falls on, and a Crusher command whose read it is delivers nothing more; a scrubbed line that is corrected is counted
and written back corrected; a device that comes up or goes changes its link half and no open job, unless an open job has a window on
it: then its Level is contained. The far address of a device removed in use is open: a free value. -/
def Obligations.ErrorsAndDevices : Prop :=
  (∀ (s : State) (l : Fin 4) (eng : BitVec 8),
    let owns (site : ErrorSite) : Prop := match site with
      | .near a => s.nearOk l a.toNat = true
      | .core n _ => (s.lvl l).ownsCore n.val = true
      | .hub _ => (s.lvl l).present = true
      | .far _ _ => (s.lvl l).present = true
    ∀ site,
      (¬owns site → exec (.uncorrectableErrorDetected l eng site) s = .next s) ∧
      (owns site →
        let (failed, code, aux, addr) := match site with
          | .near a => ({ s with mem := { s.mem with failedNear := addNew (a.toNat / 64) s.mem.failedNear } }, 0x3002,
              nearDevice a.toNat, a.toNat)
          | .core n a => ({ s with mem := { s.mem with failedCore := addNew ((n.val * 2 ^ 26 + a.toNat) / 64) s.mem.failedCore } },
              0x3003, n.val, a.toNat)
          | .hub a => ({ s with mem := { s.mem with failedHub := addNew (a.toNat / 64) s.mem.failedHub } }, 0x3003, 0x00FF, a.toNat)
          | .far h a => (s.failMedia l eng.toNat fun _ => true, 0x3020, h.val / 2, a.toNat)
        ∃ t, exec (.uncorrectableErrorDetected l eng site) s = .next t ∧ Noted failed t ∧
          Raises s t (s.event code (some l) eng.toNat aux 0 addr 0 0) ∧ containedIn s t l)) ∧
  (∀ (s : State) (link : Fin 10), ∃ t, exec (.dieLinkFailure link) s = .next t ∧ Noted s t ∧
    Raises s t (s.event 0x3004 none 0 link.val 0 0 0 0) ∧ ∀ l, (s.lvl l).usesLink link.val = true → containedIn s t l) ∧
  (∀ (s : State) (dev : Fin 32) (addr : Nat) (res : ScrubResult),
    let a := deviceNear dev.val addr
    let bad := res = .uncorrected ∨ s.mem.failedNear.contains (a / 64) = true
    let n := tabGet 0 s.mem.corrected dev.val + 1
    let owner := s.quadOwner (dev.val / 8)
    (s.quadBytes ≤ 8 * addr → exec (.patrolScrub dev addr res) s = .next s) ∧
    (8 * addr < s.quadBytes → bad → ∃ t, exec (.patrolScrub dev addr res) s = .next t ∧
      Noted { s with mem := { s.mem with failedNear := addNew (a / 64) s.mem.failedNear } } t ∧
      Raises s t (s.event 0x3002 owner 0xFFFF dev.val 0 a 0 0) ∧ ∀ l, owner = some l → containedIn s t l) ∧
    (8 * addr < s.quadBytes → ¬bad → res = .clean → exec (.patrolScrub dev addr res) s = .next s) ∧
    (8 * addr < s.quadBytes → ¬bad → res = .corrected → ∃ t, exec (.patrolScrub dev addr res) s = .next t ∧
      Noted { s with mem := { s.mem with
        corrected := tabPut 0 s.mem.corrected dev.val n, weak := s.mem.weak.filter fun b => b ≠ a / 64 } } t ∧
      (n = 1 ∨ n % 65536 = 0 → Raises s t (s.event 0x3001 owner 0 dev.val 0 n 0 0)) ∧
      (¬(n = 1 ∨ n % 65536 = 0) → t.raised = s.raised))) ∧
  (∀ (s : State) (half : Fin 16) (info : LinkInfo),
    let k := s.boot.board.linkHalf half.val info
    (s.boot.fw ≠ .running ∨ info.up = false → exec (.deviceAdded half info) s = .next s) ∧
    (s.boot.fw = .running → info.up = true → ∃ t, exec (.deviceAdded half info) s = .next t ∧
      Noted { s.setLink half.val k with boot := if k.up = true then
        { s.boot with cxTrained := s.boot.cxTrained ||| BitVec.ofNat 8 (2 ^ (half.val / 2)) } else s.boot } t ∧
      (k.type3 = true → s.boot.board.ideTried info = true → k.ide = false → Raises s t (s.event 0x6002 none 0 half.val 0 0 0 0)) ∧
      (k.type3 = true → Raises s t (s.event 0x3022 (s.quadOwner (half.val / 4)) 0 half.val 0 0 0 0)) ∧
      (k.up = true → k.type3 = false → Raises s t (s.event 0x3030 none 0 (half.val / 2) 0 1 0 0)))) ∧
  (∀ (s : State) (half : Fin 16),
    let used (l : Fin 4) : Prop := ∃ j w, (s.lvl l).job = some j ∧ w ∈ j.decl.windows ∧ bitAt w.links.toNat half.val = true
    let down := s.setLink half.val .down
    let fails (t u : State) (a : BitVec 64) : Prop :=
      Noted { u with levels := (mediaFailed s half.val).levels } t ∧ (∀ l, used l → containedIn s t l) ∧
      Raises s t (s.event 0x3021 (s.quadOwner (half.val / 4)) 0 half.val 0 a.toNat 0 0)
    ((s.link half.val).up = false → exec (.deviceRemoved half) s = .next s ∧ ∀ cause a, exec (.cxlLinkDown half ⟨cause, a⟩) s = .next s) ∧
    ((s.link half.val).up = true → (∀ l, ¬used l) → ∃ t, exec (.deviceRemoved half) s = .next t ∧ Noted down t ∧
      Raises s t (s.event 0x3023 (s.quadOwner (half.val / 4)) 0 half.val 0 0 0 0)) ∧
    ((s.link half.val).up = true → (∃ l, used l) → ∃ t a, exec (.deviceRemoved half) s = .next t ∧
      fails t { down with freeCtr := s.freeCtr + 1 } a) ∧
    ((s.link half.val).up = true → ∀ cause a, ∃ t, exec (.cxlLinkDown half ⟨cause, a⟩) s = .next t ∧
      fails t (if cause = .linkDown then down else s) a))

/-! ### Power and the Assay -/

/-- Between `s` and `t` quadrant `q` has become `p`, and its event has been raised where there is one. -/
def quadSet (s t : State) (q : Nat) (p : QuadPower) (ev : Option (Nat × Nat × Nat)) : Prop :=
  Noted { s with pwr := { s.pwr with quads := s.pwr.quads.set q p } } t ∧
    (ev = none → t.raised = s.raised) ∧
    ∀ code a b, ev = some (code, a, b) → Raises s t (s.event code (s.quadOwner q) 0 q 0 a b 0)

/-- The modelled loads just before the changes that come `back` counts before the point of the frames sent now: what the images
schedule between 64 counts and `back` counts before it, the later counts last, has been carried forward. -/
def loadsBefore (s : State) (back : Nat) : Loads :=
  (List.range (64 - back)).foldl (fun ls k => ls.after (s.scheduledAt (64 - k))) s.loads

/-- The frames for the changes `hs` of one count: in ascending QUAD, for each quadrant that a change not framed yet belongs to and whose
modelled current goes by 8 A or more from one set of loads to the other. -/
def framesFor (s : State) (hs : List Happening) (before after : Loads) : List (BitVec 16) :=
  (List.range 4).filterMap fun q =>
    let x := s.quadAmps36 q before
    let y := s.quadAmps36 q after
    let mine := hs.filter fun h => decide (h.core / 4 = q)
    if (mine.any fun h => !s.pwr.framed.contains h.key) = true ∧ 8 * 36 ≤ max x y - min x y then
      some (BitVec.ofNat 16 ((4 * q + frameKind mine) * 4096 + ceilDiv y 144 % 256 * 16 + 15))
    else none

/-- R529, R530, R531, R533, R534, R536, R537, R540: readings, bins, voltages, rail faults, droop and load forecast, for a part with
its four quadrants. The readings of a sample are kept, but for those of a lost rail, whose current is the model's (what a model of
R532 says of rails 4 to 9 is a free value, notes/assumptions/114.md). A bin moves one step at a time and its voltage with it, and
the arithmetic clock pauses; the adaptive voltage moves by 5 mV within its bounds, once a millisecond; a failed core rail limits the
bin; a droop is reported once per cycle; THERMTRIP_L ends every job and loses logs and notices. LOAD_FORECAST_FRAME sends every
frame that is due and not sent, count by count: those of one count back to back in ascending QUAD, each taking LF for 40 ns. That
loads are carried forward through what the images schedule, and that the changes of one count and quadrant share a frame, is the
model's reading of R533 (notes/assumptions/116.md). No other state changes; with RESET_L low nothing does. -/
def Obligations.PowerRows : Prop :=
  (∀ s : State, s.pwr.quads.length = 4 →
      (∀ r : RailReadings,
        let lost (i : Nat) : Bool := s.pwr.railLost.getLsbD i
        let core := ((List.range 4).map fun q => s.quadAmps36 q s.loads).sum
        let amps := (List.range 10).map fun i => if lost i = true then Config.modelledRail i core else r.amps.getD i 0
        let watts := ((List.zip amps (r.volts ++ [750, 750, 1200, 900, 1200, 1800])).map fun p => p.1 * p.2).sum
        exec (.currentSample r) s = .next { s with pwr := { s.pwr with
          amps := amps
          temps := (List.range 10).map fun i => if lost i = true then s.pwr.temps.getD i 0 else r.temps.getD i 0
          status := (List.range 10).map fun i => if lost i = true then s.pwr.status.getD i 0 else r.status.getD i 0
          volts := r.volts
          power := (s.pwr.power.filter fun x => decide (s.now < x.1 + 2000000000)) ++ [(s.now, watts)]
          firstSample := some (s.pwr.firstSample.getD s.now) } }) ∧
      (∀ r : LimitReadings, (∃ x ∈ r.hubTemp :: r.temps.take 4, 125 ≤ x) →
        ∃ t, exec (.limitEvaluation r) s = .next t ∧ t = { s with boot := { s.boot with thermtripHigh := false }, levels := t.levels,
                                                                  fns := t.fns } ∧
          (∀ l, t.lvl l = { s.lvl l with
            job := none, log := .fresh, engines := [], batches := [], requests := [], handed := [], deferred := [], invalid := [] }) ∧
          ∀ n < 5, t.fn n = { s.fn n with waiting := [] }) ∧
      (∀ (q : Fin 4),
        let p := s.quad q.val
        (p.pendingBin = none → exec (.binChange q) s = .next s) ∧
        (∀ b, p.pendingBin = some b →
          let next := if b < p.bin then max b (p.bin - 3) else min b (p.bin + 3)
          ∃ t, exec (.binChange q) s = .next t ∧
            quadSet s t q.val { p with
              bin := next, pendingBin := if next = b then none else some b, pausedUntil := s.now + 1000,
              millivolts := if p.limitBin.isSome = true then p.millivolts else Config.binVolts q.val next }
              (some (0x8003, p.bin, next))) ∧
        (∀ up,
          let v := Config.binVolts q.val p.bin
          let goal := if up = true then p.millivolts + 5 else p.millivolts - 5
          let may := (∀ t, p.adjustedAt = some t → t + 2000000 ≤ s.now) ∧ p.limitBin = none ∧ v - 50 ≤ goal ∧ goal ≤ v + 30 ∧
            600 ≤ goal ∧ goal ≤ 850
          (may → ∃ t, exec (.adaptiveVoltageAdjust q up) s = .next t ∧
            quadSet s t q.val { p with millivolts := goal, adjustedAt := some s.now } none) ∧
          (¬may → exec (.adaptiveVoltageAdjust q up) s = .next s)) ∧
        (∃ t, exec (.droopDetect q) s = .next t ∧ quadSet s t q.val { p with drooping := true, droopCycle := s.cad.ordinal + 1 }
          (if p.droopCycle = s.cad.ordinal + 1 then none else some (0x8002, 0, 0))) ∧
        (∃ t, exec (.droopRecovery q) s = .next t ∧ quadSet s t q.val { p with drooping := false } none) ∧
        (∀ status : BitVec 16,
          let b := reachedBin q.val p.millivolts
          ∃ t, exec (.avsbusFailure (Fin.castLE (by decide) q) status) s = .next t ∧
            quadSet s t q.val { p with
              limitBin := some b, pendingBin := if max 30 b < p.bin then some (max 30 b) else none,
              duty := if b = 0 then 4 else p.duty } (some (0x8001, status.toNat, 0)) ∧
            (b = 0 → p.duty ≠ 4 → Raises s t (s.event 0x8004 (s.quadOwner q.val) 0 q.val 0 4 0 0)))) ∧
      (∀ (rail : Fin 10) (status : BitVec 16), 4 ≤ rail.val → ∃ t, exec (.avsbusFailure rail status) s = .next t ∧
        Noted { s with pwr := { s.pwr with railLost := s.pwr.railLost ||| BitVec.ofNat 16 (2 ^ rail.val) } } t ∧
        Raises s t (s.event 0x8001 none 0 rail.val 0 status.toNat 0 0))) ∧
  (∀ (s : State) (l : Fin 4) (e : Nat),
      (s.boot.resetHigh = false ∨ s.frameDue l e = false → exec (.loadForecastFrame l e) s = .next s) ∧
      (s.boot.resetHigh = true → s.frameDue l e = true → ∃ t, exec (.loadForecastFrame l e) s = .next t ∧
        (∀ k i, t.frameDue k i = false) ∧
        t = (List.range 65).foldl (fun (u : State) k =>
          u.framesOf (s.scheduledAt (64 - k)) (loadsBefore s (64 - k)) ((loadsBefore s (64 - k)).after (s.scheduledAt (64 - k)))) s)) ∧
  (∀ (s : State) (hs : List Happening) (before after : Loads),
      let words := framesFor s hs before after
      let start := max s.now (((s.pwr.lf.getLast?).map fun f => f.1 + 80).getD 0)
      s.framesOf hs before after = { s with pwr := { s.pwr with
        lf := if words = [] then s.pwr.lf
          else (s.pwr.lf.filter fun x => decide (s.now < x.1 + 80)) ++ words.zipIdx.map fun p => (start + 80 * p.2, p.1)
        frames := s.pwr.frames + words.length
        framed := s.pwr.framed ++ (hs.filter fun h => !s.pwr.framed.contains h.key).map Happening.key } })

/-- The events of the part itself take effect: each row named here answers a next state that holds its own effect, for every state
that meets the row's conditions. Resets, power-up and link (R472, R493, R494); COMMIT, bring-up, keys and the debug token (R498 to
R501, R505, R506); errors, scrubbing and devices (R400, R411, R412, R415); forecast, readings, bins, voltages and droop (R529 to
R537); frames, samples, commits, records and the supply of the Assay (R510 to R521). How a self-test ends, what training finds and
that VASY is a rail of RAIL_OUT_OF_TOLERANCE too are the commands' operands as notes/assumptions/112.md has them; whether PE_PERST_L
has fallen with the link, and which units of the Assay fail, are free values (notes/assumptions/112.md and 119.md). -/
def Obligations.PartEventsComplete : Prop :=
  ∀ s : State,
    let b := s.boot
    let a := s.asy
    -- resets, power-up and link
    (∃ t, exec .powerUp s = .next t ∧ t.boot = .fresh b.rollback b.revoked ∧ t.farMem = s.farMem ∧ t.nearMem = []) ∧
    (∀ rail, ∃ t, exec (.railOutOfTolerance rail) s = .next t ∧ (rail.val ≠ 10 → t.boot.rails = false) ∧
      (b.resetHigh = true → t.nearMem = [])) ∧
    (∃ t, exec .resetLLow s = .next t ∧ t.boot.resetHigh = false ∧ t.boot.fw = .awaiting ∧ t.nearMem = []) ∧
    (b.resetHigh = false → b.thermtripHigh = true → ∃ t, exec (.resetLRise (some 0)) s = .next t ∧ t.boot.resetHigh = true ∧
      t.boot.romDone = true ∧ t.boot.debugUnlocked = b.tokenPending) ∧
    (∃ t, exec .pePerstLRise s = .next t ∧ t.boot.perstHigh = true ∧ t.boot.linkUp = b.romDone) ∧
    (∃ t, exec .pcieLinkDown s = .next t ∧ t.boot.fw = .awaiting ∧ t.nearMem = [] ∧
      (Config.perstFalls s.freeCtr = true → t.boot.perstHigh = false ∧ t.boot.linkUp = false)) ∧
    (s.aditUp = true →
      (∀ l : Fin 4, ∃ t, exec (.functionLevelResetVf l) s = .next t ∧ (t.fn (l.val + 1)).version = 0 ∧
        (t.fn (l.val + 1)).features = 0) ∧
      (∃ t, exec .functionLevelResetPf s = .next t ∧ (t.fn 0).version = 0 ∧ t.boot.fw ≠ .rejected)) ∧
    -- firmware, keys and the debug token
    (s.aditUp = true → b.fw = .awaiting → s.verifyImage.1 = 0 → ∃ t, exec (.commit 0 0x434F4D54) s = .next t ∧ t.boot.fw = .verifying ∧
      t.boot.fwDigest = s.verifyImage.2.digest) ∧
    (s.aditUp = true → b.fw = .awaiting → s.verifyImage.1 ≠ 0 → ∃ t, exec (.commit 0 0x434F4D54) s = .next t ∧ t.boot.fw = .rejected ∧
      t.boot.reason = s.verifyImage.1) ∧
    (∀ found : BringUp, b.fw = .verifying → b.awake = true → found.hubOk = true → found.cut = none →
      (s.train found).mem.quads ≠ 0 →
        ∃ t, exec (.bringupComplete found) s = .next t ∧ t.boot.fw = .running ∧ t.mem.quads = (s.train found).mem.quads) ∧
    (∀ half : Fin 16, (s.link half.val).up = true → (s.link half.val).ide = true → ∃ t, exec (.ideKeyRefresh half) s = .next t ∧
      t.link half.val = { s.link half.val with refreshes := (s.link half.val).refreshes + 1 }) ∧
    (∀ token, b.awake = true → Config.debugTokenOk partIdentity b.challenge token = true →
      ∃ t, exec (.debugUnlockToken token) s = .next t ∧ t.boot.tokenPending = true) ∧
    -- errors, scrubbing and devices
    (∀ (l : Fin 4) (eng : BitVec 8) (x : BitVec 40), s.nearOk l x.toNat = true →
      ∃ t, exec (.uncorrectableErrorDetected l eng (.near x)) s = .next t ∧ x.toNat / 64 ∈ t.mem.failedNear ∧
        Raises s t (s.event 0x3002 (some l) eng.toNat (nearDevice x.toNat) 0 x.toNat 0 0)) ∧
    (∀ link : Fin 10, ∃ t, exec (.dieLinkFailure link) s = .next t ∧ Raises s t (s.event 0x3004 none 0 link.val 0 0 0 0)) ∧
    (∀ (dev : Fin 32) (addr : Nat), 8 * addr < s.quadBytes → deviceNear dev.val addr / 64 ∉ s.mem.failedNear →
      ∃ t, exec (.patrolScrub dev addr .corrected) s = .next t ∧
        tabGet 0 t.mem.corrected dev.val = tabGet 0 s.mem.corrected dev.val + 1) ∧
    (∀ (half : Fin 16) (info : LinkInfo), b.fw = .running → info.up = true →
      ∃ t, exec (.deviceAdded half info) s = .next t ∧ t.link half.val = b.board.linkHalf half.val info) ∧
    (∀ half : Fin 16, (s.link half.val).up = true → ∃ t, exec (.deviceRemoved half) s = .next t ∧ t.link half.val = .down) ∧
    (∀ (half : Fin 16) a, (s.link half.val).up = true → ∃ t, exec (.cxlLinkDown half ⟨.linkDown, a⟩) s = .next t ∧
      t.link half.val = .down) ∧
    -- power
    (∀ (l : Fin 4) (e : Nat), b.resetHigh = true → s.frameDue l e = true →
      ∃ t, exec (.loadForecastFrame l e) s = .next t ∧ t.frameDue l e = false ∧ s.pwr.frames ≤ t.pwr.frames ∧
        ∀ x ∈ s.pwr.framed, x ∈ t.pwr.framed) ∧
    (∀ r : RailReadings, ∃ t, exec (.currentSample r) s = .next t ∧
      ∀ i < 10, s.pwr.railLost.getLsbD i = false → t.pwr.amps.getD i 0 = r.amps.getD i 0) ∧
    (s.pwr.quads.length = 4 → ∀ q : Fin 4,
      let p := s.quad q.val
      (∀ x, p.pendingBin = some x → ∃ t, exec (.binChange q) s = .next t ∧
        (t.quad q.val).bin = (if x < p.bin then max x (p.bin - 3) else min x (p.bin + 3))) ∧
      (p.adjustedAt = none → p.limitBin = none → p.millivolts = Config.binVolts q.val p.bin → 605 ≤ p.millivolts →
        p.millivolts ≤ 850 → ∃ t, exec (.adaptiveVoltageAdjust q false) s = .next t ∧
        (t.quad q.val).millivolts = p.millivolts - 5) ∧
      (∃ t, exec (.droopDetect q) s = .next t ∧ (t.quad q.val).drooping = true) ∧
      (∃ t, exec (.droopRecovery q) s = .next t ∧ (t.quad q.val).drooping = false)) ∧
    (∀ (rail : Fin 10) (status : BitVec 16), 4 ≤ rail.val → ∃ t, exec (.avsbusFailure rail status) s = .next t ∧
      t.pwr.railLost.getLsbD rail.val = true) ∧
    -- the Assay
    (a.vasy = true →
      (∃ t, exec .assayFrame s = .next t ∧ t.asy.linkUp = true ∧ t.asy.lastCycle = s.cad.number) ∧
      (a.linkUp = false → a.lastTick / 20000000 < a.tot.time / 20000000 →
        ∃ t, exec .missingCycleTick s = .next t ∧ t.asy.lastTick = a.tot.time) ∧
      (∀ volts amps, ∃ t, exec (.railSample volts amps) s = .next t ∧ ∀ k < 10, nthNat t.asy.tot.rails k =
        nthNat a.tot.rails k + Config.railEnergy k (volts.getD k 0) (amps.getD k 0)) ∧
      (∃ t, exec .mramCommit s = .next t ∧ t.asy.mram = a.tot) ∧
      (∀ q rest body, a.waiting = q :: rest → q.formed = some body →
        ∃ t, exec .recordSigned s = .next t ∧ t.asy.waiting = rest ∧ t.asy.tot.nextSeq = a.tot.nextSeq + 1) ∧
      (∃ t, exec .vasyLost s = .next t ∧ t.asy.vasy = false ∧ t.asy.mram = t.asy.tot) ∧
      (a.sealed_ = true → ∀ kind, ∃ t, exec (.undefinedLinkFrame kind) s = .next t ∧
        t.asy.tot.changeRefused = min (2 ^ 64 - 1) (a.tot.changeRefused + 1))) ∧
    (a.vasy = false → ∃ t, exec .vasyRestored s = .next t ∧ t.asy.vasy = true ∧
      t.asy.tot.rails = a.mram.rails)

/-- R538, R539: the rows of LIMIT_EVALUATION below THERMTRIP, for each quadrant of a part with four: power over 2,100 W or 110
degrees set duty 1/2, 100 degrees and mean power over 1,600 W lower a bin (of the quadrant that power sheds from), and below 90
degrees and 1,500 W duty and then the bin recover. A bin change on its way goes on, but one up gives way to a row that does not
raise. Only duties, holds and pending bins change; a changed duty is reported. Mean power over a window is that of the samples in
it, which R539 leaves open: the model's choice (notes/assumptions/115.md). -/
def Obligations.LimitRows : Prop :=
  ∀ (s : State) (r : LimitReadings), s.pwr.quads.length = 4 → (∀ x ∈ r.hubTemp :: r.temps.take 4, x < 125) →
    let mean (clocks : Nat) : Nat :=
      let xs := (s.pwr.power.filter fun x => decide (s.now < x.1 + clocks)).map Prod.snd
      xs.sum / xs.length
    let burst := 2100000000 < mean 2000000
    let high := 1600000000 < mean 200000000
    let low := (∃ t, s.pwr.firstSample = some t ∧ t + 2000000000 ≤ s.now) ∧ mean 2000000000 < 1500000000
    ∃ t, exec (.limitEvaluation r) s = .next t ∧ Noted { s with pwr := { s.pwr with quads := t.pwr.quads } } t ∧
      ∀ q < 4,
        let p := s.quad q
        let temp := max (r.temps.getD q 0) r.hubTemp
        let up := ∃ x, p.pendingBin = some x ∧ p.bin < x
        let aim (b : Nat) : Option Nat := if b = p.bin then none else some b
        let below := max 30 (p.bin - 3)
        let lower := { p with pendingBin := if p.pendingBin = none ∨ (up ∧ below ≤ p.bin) then aim below else p.pendingBin }
        let held := { p with pendingBin := if up then none else p.pendingBin }
        let raised := max p.bin p.binUp
        let duty := if p.duty < 6 then 6 else min 8 (p.duty + 1)
        (burst → t.quad q = { held with dutyHold := s.now + 2000000, duty := 4 }) ∧
        (¬burst → 110 ≤ temp → t.quad q = { held with duty := 4 }) ∧
        (¬burst → 100 ≤ temp → temp < 110 → t.quad q = lower) ∧
        (¬burst → temp < 100 → high → t.quad q = if s.shedQuad = some q then lower else held) ∧
        (¬burst → temp < 90 → ¬high → low → t.quad q =
          if p.duty < 8 then (if p.dutyHold ≤ s.now ∧ p.limitBin ≠ some 0 then { p with duty := duty } else p)
          else { p with pendingBin := if p.pendingBin = none then aim raised
            else if up ∧ raised = p.bin then none else p.pendingBin }) ∧
        (¬burst → temp < 100 → ¬high → ¬(temp < 90 ∧ low) → t.quad q = p) ∧
        ((t.quad q).duty ≠ p.duty → Raises s t (s.event 0x8004 (s.quadOwner q) 0 q 0 (t.quad q).duty 0 0))

/-- Totals of channel `c`. -/
def chan (a : AssayState) (c : Nat) : AsyChannel := a.tot.channels.getD c .zero

/-- R514, R515: how a cycle's energy is divided, and that none is lost. A channel's MEASURED share is that of the core rails of its
quadrants, its ALLOCATED share a quarter of the other six rails for each quadrant, and PART takes what that division leaves, so
that the shares of the five channels add up to the ten rails. Within a Level each context takes its part by engine time and
IDLE the remainder, or all of it where there is no engine time or the frame is missing. -/
def Obligations.EnergyIsConserved : Prop :=
  (∀ (map : List (BitVec 8)) (rails : List Nat),
    let S := ((List.range 6).map fun i => nthNat rails (4 + i)).sum
    (∀ c < 5,
      (channelShare map rails c).1 = ((List.range 4).map fun q => if mapOwner map q = c then nthNat rails q else 0).sum ∧
        (channelShare map rails c).2 = ((List.range 4).map fun q => if mapOwner map q = c then S / 4 else 0).sum +
          (if c = 4 then S - 4 * (S / 4) else 0)) ∧
      ((List.range 5).map fun c => (channelShare map rails c).1).sum = ((List.range 4).map fun q => nthNat rails q).sum ∧
      ((List.range 5).map fun c => (channelShare map rails c).2).sum = S) ∧
  (∀ (lines : List AsyLine) (times : List Nat) (e a : Nat), lines.length = 9 → times.length = 8 →
    let T := times.sum
    let new := addLines lines times e a
    (∀ c < 8, (new.getD c .zero).measured = (lines.getD c .zero).measured + e * times.getD c 0 / T ∧
      (new.getD c .zero).allocated = (lines.getD c .zero).allocated + a * times.getD c 0 / T ∧
      (new.getD c .zero).engine = (lines.getD c .zero).engine + times.getD c 0) ∧
    (T = 0 → (new.getD 8 .zero).measured = (lines.getD 8 .zero).measured + e ∧
      (new.getD 8 .zero).allocated = (lines.getD 8 .zero).allocated + a) ∧
    (new.map AsyLine.measured).sum = (lines.map AsyLine.measured).sum + e ∧
      (new.map AsyLine.allocated).sum = (lines.map AsyLine.allocated).sum + a) ∧
  (∀ s : State, s.asy.vasy = true → s.frameLate = true → ∃ t, exec .frameMissing s = .next t ∧ ∀ c < 4, ∀ i < 9,
    let old := (chan s.asy c).lines.getD i .zero
    let new := (chan t.asy c).lines.getD i .zero
    let share := channelShare s.asy.map s.asy.cycleRails c
    new.measured = old.measured + (if i = 8 then share.1 else 0) ∧ new.allocated = old.allocated + (if i = 8 then share.2 else 0))

/-- R510 to R521: what the Assay measures and keeps. A frame closes its cycle: each channel takes its share of the energy sampled since
the last boundary and the counts of the Level's cycle, every record asked for is formed, a job counts on its channel, the mirror takes
the new totals, and a restored link asks for a record of each channel. A frame that is missing closes its cycle by the last map, and
is reported once; a tick counts the cycles missed since, and where no frame has come at all the energy is divided by the last map. A
rail sample adds to its rail and to the cycle it is taken in; a commit keeps the totals; loss of VASY divides what has been sampled
and keeps it, and the totals come back with VASY; a formed record is signed under the next RECORD_SEQ; an undefined frame is
counted and logged as a refused change. That a cycle cut short by VASY is divided by the last map, and how a job opened without VASY
is counted, are the model's choice (notes/assumptions/119.md). -/
def Obligations.AssayMeasures : Prop :=
  ∀ s : State,
    let a := s.asy
    let quiet (t : State) : Prop := t = { s with asy := t.asy, raised := t.raised, levels := t.levels, fns := t.fns }
    let opens (c : Nat) : Nat := (a.waiting.filter fun q => decide (q.cause = 1) && q.formed.isNone && decide (q.channel = c)).length
    let all := addRails a.cycleRails a.lateRails
    let fresh (cause : Nat) : List AsyRequest := (List.range 5).map fun c => ⟨c, cause, .cause, none⟩
    (∃ t, exec .assayFrame s = .next t ∧ quiet t ∧ (∀ l, (t.lvl l).frame = .zero) ∧ (a.vasy = false → t.asy = a) ∧
      (a.vasy = true → t.asy.linkUp = true ∧ t.asy.lastFrame = some a.tot.time ∧ t.asy.lastCycle = s.cad.number ∧
        t.asy.holdover = s.holdoverMark ∧ t.asy.map = s.levelMap ∧ t.asy.cycleRails = List.replicate 10 0 ∧
        t.asy.lateRails = List.replicate 10 0 ∧ t.asy.missingFrames = 0 ∧ t.asy.mirror = t.asy.mirrored.mirror ∧
        (a.lastFrame.isSome = true → a.linkUp = false → Raises s t (s.event 0x7003 none 0 0 0 a.missingFrames 0 0)) ∧
        (∃ formed, t.asy.waiting = formed ++ (if a.lastFrame.isSome = true ∧ a.linkUp = false then fresh 3 else []) ∧
          formed.map (fun q => (q.channel, q.cause, q.for_)) = a.waiting.map (fun q => (q.channel, q.cause, q.for_)) ∧
          ∀ q ∈ formed, q.formed.isSome = true) ∧
        ∀ c < 5,
          let ch := chan t.asy c
          let old := chan a c
          let share := channelShare s.levelMap all c
          ch.measured = old.measured + share.1 ∧ ch.allocated = old.allocated + share.2 ∧ ch.jobSeq = old.jobSeq + opens c ∧
            ch.missingCycles = old.missingCycles ∧
            (∀ l : Fin 4, l.val = c →
              let f := (s.lvl l).frame
              ch.engine = old.engine + f.engine ∧ ch.nearBytes = old.nearBytes + f.nearBytes ∧
                ch.farBytes = old.farBytes + f.farBytes ∧ ch.pcieBytes = old.pcieBytes + f.pcieBytes ∧
                ch.lines = if opens c = 0 then
                    addLines old.lines ((List.range 8).map fun i => tabGet 0 f.byContext i) share.1 share.2
                  else List.replicate 9 .zero))) ∧
    (a.vasy = true → s.frameLate = true → ∃ t, exec .frameMissing s = .next t ∧ quiet t ∧ t.asy.linkUp = false ∧
      t.asy.missingFrames = a.missingFrames + 1 ∧ (∀ l, (t.lvl l).frame = .zero) ∧ t.asy.cycleRails = a.lateRails ∧
      t.asy.lateRails = List.replicate 10 0 ∧ t.asy.lastTick = (if a.linkUp = true then a.tot.time else a.lastTick) ∧
      (a.linkUp = true → Raises s t (s.event 0x7002 none 0 0 0 0 0 0)) ∧
      ∀ c < 5, (chan t.asy c).missing = true ∧ (chan t.asy c).engine = (chan a c).engine ∧
        (chan t.asy c).measured = (chan a c).measured + (channelShare a.map a.cycleRails c).1 ∧
        (chan t.asy c).allocated = (chan a c).allocated + (channelShare a.map a.cycleRails c).2) ∧
    (¬(a.vasy = true ∧ s.frameLate = true) → exec .frameMissing s = .next s) ∧
    (a.vasy = true → a.linkUp = false → a.lastTick / 20000000 < a.tot.time / 20000000 →
      ∃ t, exec .missingCycleTick s = .next t ∧ t = { s with asy := t.asy } ∧ t.asy.lastTick = a.tot.time ∧
        (∀ q ∈ t.asy.waiting, q.formed.isSome = true) ∧ t.asy.waiting.length = a.waiting.length ∧ ∀ c < 5,
          (chan t.asy c).jobSeq = (chan a c).jobSeq + opens c ∧
          (a.lastFrame.isSome = true → (chan t.asy c).missingCycles = (chan a c).missingCycles + 1 ∧
            (chan t.asy c).measured = (chan a c).measured) ∧
          (a.lastFrame = none → (chan t.asy c).missingCycles = (chan a c).missingCycles ∧
            (chan t.asy c).measured = (chan a c).measured + (channelShare a.map a.cycleRails c).1)) ∧
    (¬(a.vasy = true ∧ a.linkUp = false ∧ a.lastTick / 20000000 < a.tot.time / 20000000) → exec .missingCycleTick s = .next s) ∧
    (a.vasy = true → ∀ volts amps, ∃ t, exec (.railSample volts amps) s = .next t ∧ quiet t ∧ ∀ k < 10,
      let e := Config.railEnergy k (volts.getD k 0) (amps.getD k 0)
      nthNat t.asy.tot.rails k = nthNat a.tot.rails k + e ∧
        nthNat t.asy.cycleRails k = nthNat a.cycleRails k + (if s.pastPeriod = true then 0 else e) ∧
        nthNat t.asy.lateRails k = nthNat a.lateRails k + (if s.pastPeriod = true then e else 0)) ∧
    (a.vasy = true → exec .mramCommit s = .next { s with asy := { a with mram := a.tot } }) ∧
    (a.vasy = true → ∃ t, exec .vasyLost s = .next t ∧ t = { s with asy := t.asy, fns := t.fns } ∧
      t.asy = { a with
        tot := { a.tot with channels := t.asy.tot.channels }, mram := t.asy.tot, vasy := false, linkUp := false, waiting := [],
        cycleRails := List.replicate 10 0, lateRails := List.replicate 10 0 } ∧
      (∀ c < 5, (chan t.asy c).measured = (chan a c).measured + (channelShare a.map all c).1 ∧
        (chan t.asy c).allocated = (chan a c).allocated + (channelShare a.map all c).2 ∧
        (chan t.asy c).jobSeq = (chan a c).jobSeq + opens c) ∧
      ∀ fn slot x, s.taken fn slot = some x → ((∃ q ∈ a.waiting, q.for_ = .message fn slot) →
        t.taken fn slot = some { x with status := stBusy }) ∧ ((∀ q ∈ a.waiting, q.for_ ≠ .message fn slot) → t.taken fn slot = some x)) ∧
    (a.vasy = true → exec .vasyRestored s = .next s) ∧
    (a.vasy = false → ∃ t, exec .vasyRestored s = .next t ∧ t = { s with asy := t.asy, freeCtr := s.freeCtr + 1 } ∧ t.asy.vasy = true ∧
      t.asy.tot.rails = a.mram.rails ∧ t.asy.tot.logCount = a.mram.logCount + 2 + (Config.selfTestFails s.freeCtr).length ∧
      t.asy.tot.nextSeq = a.mram.nextSeq ∧ t.asy.tot.records = a.mram.records ∧ t.asy.waiting = fresh 4 ∧
      (a.openedDark = [] → t.asy.tot.channels = a.mram.channels) ∧
      ∀ c < 5, (chan t.asy c).jobSeq = (a.mram.channels.getD c .zero).jobSeq + a.openedDark.count c ∧
        (chan t.asy c).measured = (a.mram.channels.getD c .zero).measured) ∧
    (∀ q rest body, a.vasy = true → a.waiting = q :: rest → q.formed = some body →
      let b := body.take 8 ++ leBytes 8 a.tot.nextSeq ++ body.drop 16
      let rec_ := b ++ ecdsaSign s.nonce.1 Config.assayScalar (sha384 b)
      let held := a.tot.records ++ [(q.channel, rec_)]
      ∃ t, exec .recordSigned s = .next t ∧ t.asy.waiting = rest ∧ t.asy.tot.nextSeq = a.tot.nextSeq + 1 ∧
        t.asy.tot.records = held.drop (held.length - 65536) ∧ t.asy.tot.channels = a.tot.channels ∧
        (q.for_ = .i3c → t.asy.done = true ∧ t.asy.resultCode = 0 ∧ t.asy.resultCmd = 1) ∧
        (q.for_ = .cause → t = { s with asy := t.asy, freeCtr := s.freeCtr + 1 })) ∧
    (a.vasy = true → a.sealed_ = true → ∀ kind, ∃ t, exec (.undefinedLinkFrame kind) s = .next t ∧ quiet t ∧
      t.asy.tot.changeRefused = min (2 ^ 64 - 1) (a.tot.changeRefused + 1) ∧ t.asy.tot.logCount = a.tot.logCount + 1 ∧
      (a.linkUp = true → Raises s t (s.event 0x7001 none 0 1 0 (min (2 ^ 64 - 1) (a.tot.changeRefused + 1)) 0 0)))

/-- R84, R510, R522, R523: the Assay's I3C target while it has its supply. ASY_CMD is ignored while a command is in progress;
otherwise each command leaves its result, a record asked for, or the window filled. A register access takes its offset, writes words
and then reads words, and the offset advances by 4 at each: ASY_ARG takes writes and every other register but ASY_CMD ignores them;
a low word holds its high one, which a read of that releases; the bus's own commands set or drop the dynamic address, or answer.
An offset that the map does not list reads zero, which is the model's choice (notes/assumptions/120.md). Without VASY nothing
changes. -/
def Obligations.AssayCommands : Prop :=
  (∀ a : AssayState,
    let off := a.offset.toNat
    a.i3cRead = { a with
      reply := a.reply ++ leBytes 4 (a.i3cWord off), offset := a.offset + 4,
      latches := match asyPairAt off, asyPairAt (off - 4) with
        | some p, _ => tabPut 0 a.latches (asyKey p) (1#1 ++ BitVec.ofNat 32 (a.pairValue p / 2 ^ 32))
        | none, some p => tabPut 0 a.latches (asyKey p) 0
        | none, none => a.latches } ∧
    a.i3cWord 0x00 = 0x4816 + 2 ^ 16 + Config.romVersion.toNat * 2 ^ 24 ∧ a.i3cWord 0x04 = a.status ∧ a.i3cWord 0x28 = 0 ∧
    a.i3cWord 0x2C = a.resultCode + a.resultCmd * 2 ^ 8 + (if a.done = true then 2 ^ 16 else 0) ∧
    a.i3cWord 0x30 = a.arg.toNat % 2 ^ 32 ∧ a.i3cWord 0x34 = a.arg.toNat / 2 ^ 32 ∧
    (∀ k < 256, a.i3cWord (0x1000 + 4 * k) = listLe a.window (4 * k) 4) ∧
    (∀ x, (0x38 ≤ x ∧ x < 0x1000) ∨ 0x1400 ≤ x → a.i3cWord x = 0) ∧
    ∀ p ∈ [(0x08, 0, a.tot.time / 2000), (0x10, 1, a.tot.changeRefused), (0x18, 2, a.tot.logCount),
        (0x20, 3, if a.tot.nextSeq = 0 then Config.noRecordSeq.toNat else a.tot.nextSeq - 1)],
      let k := tabGet 0 a.latches p.2.1
      a.i3cWord p.1 = p.2.2 % 2 ^ 32 ∧
        a.i3cWord (p.1 + 4) = if k.getLsbD 32 = true then (k.extractLsb' 0 32).toNat else p.2.2 / 2 ^ 32 % 2 ^ 32) ∧
  ∀ s : State,
    let a := s.asy
    let asy (i : Instr) (x : AssayState) : Prop := exec i s = .next { s with asy := x }
    let result (cmd code : Nat) : AssayState := { a with done := true, resultCode := code, resultCmd := cmd }
    let window (cmd : Nat) (bs : List Byte) : AssayState :=
      if bs = [] then result cmd 3
      else { result cmd 0 with window := (bs ++ List.replicate (1024 - bs.length) 0).take 1024 }
    (a.vasy = false → ∀ c k reg more off data n tgt addr volts amps kind, ∀ i ∈ [Instr.newRecord c, .loadRecord c, .loadLog, .loadCert,
        .calibration k, .asyLoRead ⟨reg, more⟩, .i3cRegisterWrite off ⟨data, n⟩, .entdaa addr, .setdasa ⟨tgt, addr⟩, .rstdaa, .getpid, .getbcr,
        .getdcr, .getstatus, .mramCommit, .vasyLost, .recordSigned, .railSample volts amps, .undefinedLinkFrame kind],
      exec i s = .next s) ∧
    (a.vasy = true → a.done = false → ∀ c k, asy (.newRecord c) a ∧ asy (.loadRecord c) a ∧ asy .loadLog a ∧ asy .loadCert a ∧
      asy (.calibration k) a) ∧
    (a.vasy = true → a.done = true →
      (∀ c : BitVec 3,
        (4 < c.toNat → asy (.newRecord c) (result 1 2) ∧ asy (.loadRecord c) (result 2 2)) ∧
        (c.toNat ≤ 4 → 8 ≤ a.requested → asy (.newRecord c) (result 1 1)) ∧
        (c.toNat ≤ 4 → a.requested < 8 →
          asy (.newRecord c) { a with done := false, waiting := a.waiting ++ [⟨c.toNat, 0, .i3c, none⟩] }) ∧
        (c.toNat ≤ 4 → asy (.loadRecord c) (window 2
          (((a.tot.records.find? fun r => decide (r.1 = c.toNat) && decide (a.arg.toNat ≤ listLe r.2 8 8)).map Prod.snd).getD [])))) ∧
      asy .loadLog (window 3 ((a.tot.log.drop a.arg.toNat).take 32).flatten) ∧
      asy .loadCert (window 4 Config.assayCert) ∧
      (∀ k : BitVec 4, a.sealed_ = true → ∃ t, exec (.calibration k) s = .next t ∧
        t = { s with asy := t.asy, raised := t.raised, levels := t.levels, fns := t.fns } ∧ t.asy.done = true ∧
        t.asy.resultCode = 2 ∧ t.asy.resultCmd = 0xC0 + k.toNat ∧
        t.asy.tot.changeRefused = min (2 ^ 64 - 1) (a.tot.changeRefused + 1) ∧ t.asy.tot.logCount = a.tot.logCount + 1 ∧
        (a.linkUp = true → Raises s t (s.event 0x7001 none 0 0 0 (min (2 ^ 64 - 1) (a.tot.changeRefused + 1)) 0 0)))) ∧
    (a.vasy = true →
      let access (off : BitVec 16) : AssayState := { a with offset := off, reply := [] }
      (∀ (p : AsyPair × BitVec 16), p ∈ [(.time, 0x08), (.refused, 0x10), (.log, 0x18), (.seq, 0x20)] → ∀ more,
        asy (.asyLoRead ⟨p.1, more⟩) (AssayState.i3cReads (more + 1) (access p.2))) ∧
      (∀ off n, asy (.i3cRegisterWrite off ⟨[], n⟩) (AssayState.i3cReads n (access off))) ∧
      (∀ off w ws n t, exec (.i3cRegisterWrite off ⟨[w], 0⟩) s = .next t →
        exec (.i3cRegisterWrite off ⟨w :: ws, n⟩) s = exec (.i3cRegisterWrite t.asy.offset ⟨ws, n⟩) t) ∧
      (∀ data : BitVec 32,
        let wrote (i : Instr) : Prop := ∃ t, exec i { s with asy := access 0x28 } = .next t ∧
          exec (.i3cRegisterWrite 0x28 ⟨[data], 0⟩) s = .next { t with asy := { t.asy with offset := 0x2C } }
        let cmd := data.toNat % 256
        asy (.i3cRegisterWrite 0x30 ⟨[data], 0⟩) { access 0x34 with arg := (a.arg.extractLsb' 32 32) ++ data } ∧
        asy (.i3cRegisterWrite 0x34 ⟨[data], 0⟩) { access 0x38 with arg := data ++ a.arg.extractLsb' 0 32 } ∧
        (∀ off, off ≠ 0x28 → off ≠ 0x30 → off ≠ 0x34 → asy (.i3cRegisterWrite off ⟨[data], 0⟩) (access (off + 4))) ∧
        (cmd = 1 → wrote (.newRecord (BitVec.ofNat 3 (data.toNat / 256 % 8)))) ∧
        (cmd = 2 → wrote (.loadRecord (BitVec.ofNat 3 (data.toNat / 256 % 8)))) ∧
        (cmd = 3 → wrote .loadLog) ∧ (cmd = 4 → wrote .loadCert) ∧
        (0xC0 ≤ cmd → cmd < 0xD0 → wrote (.calibration (BitVec.ofNat 4 (cmd - 0xC0)))) ∧
        (a.done = true → cmd = 0 ∨ (4 < cmd ∧ cmd < 0xC0) ∨ 0xD0 ≤ cmd →
          asy (.i3cRegisterWrite 0x28 ⟨[data], 0⟩)
            { access 0x2C with done := true, resultCode := 2, resultCmd := cmd })) ∧
      (∀ addr : BitVec 7,
        let x := { a with dynAddr := some (a.dynAddr.getD addr) }
        asy (.entdaa addr) x ∧ asy (.setdasa ⟨0x2C, addr⟩) x ∧ ∀ tgt, tgt ≠ 0x2C → asy (.setdasa ⟨tgt, addr⟩) a) ∧
      asy .rstdaa { a with dynAddr := none } ∧ asy .getpid { a with reply := Config.i3cPid } ∧
      asy .getbcr { a with reply := [Config.i3cBcr] } ∧ asy .getdcr { a with reply := [Config.i3cDcr] } ∧
      ∃ x y, exec .getstatus s = .next { s with freeCtr := s.freeCtr + 1, asy := { a with reply := [x, y] } })
end

