-- ==== Sys2Proof/Laws/Bits.lean ====
section
/-!
SUPPORT. Laws/Bits.lean: bit fields of numbers and of bit vectors, and the lengths of byte lists.
-/
namespace Sys2Proof.Machine

theorem bitAt_eq_testBit (v i : Nat) : bitAt v i = v.testBit i := by
  unfold bitAt bitField
  rw [Nat.testBit_eq_decide_div_mod_eq]
  rw [Nat.pow_one]
  rfl

@[simp] theorem bitAt_toNat {w : Nat} (x : BitVec w) (i : Nat) : bitAt x.toNat i = x.getLsbD i := by
  rw [bitAt_eq_testBit]; rfl
theorem leBytes_length (n v : Nat) : (leBytes n v).length = n := by
  induction n generalizing v with
  | zero => rfl
  | succ n ih => simp [leBytes, ih]

/-- Pieces of one length, one behind another. -/
theorem length_flatMap_range (n k : Nat) (f : Nat → List Byte) (h : ∀ i, (f i).length = k) :
    ((List.range n).flatMap f).length = n * k := by
  have (xs : List Nat) : (xs.flatMap f).length = xs.length * k := by
    induction xs with
    | nil => simp
    | cons x xs ih => rw [List.flatMap_cons, List.length_append, ih, h, List.length_cons, Nat.add_mul, Nat.one_mul, Nat.add_comm]
  rw [this, List.length_range]

end Sys2Proof.Machine
end

