-- ==== Sys2Proof/Laws/Tab.lean ====
section
/-!
SUPPORT. Laws/Tab.lean: reading after writing sparse tables and byte memories, and that every operation on them keeps the
canonical form.
-/
namespace Sys2Proof.Machine

/-! ### The canonical form -/

theorem tabWfFrom_mono {α : Type} [DecidableEq α] (d : α) (t : Tab α) {lo hi : Nat} (h : lo ≤ hi)
    (w : tabWfFrom d hi t = true) : tabWfFrom d lo t = true := by
  cases t with
  | nil => rfl
  | cons p t =>
    simp only [tabWfFrom, Bool.and_eq_true, decide_eq_true_eq] at w ⊢
    exact ⟨⟨Nat.le_trans h w.1.1, w.1.2⟩, w.2⟩

theorem tabWfFrom_filter {α : Type} [DecidableEq α] (d : α) (t : Tab α) {lo : Nat} (p : Nat × α → Bool)
    (w : tabWfFrom d lo t = true) : tabWfFrom d lo (t.filter p) = true := by
  induction t generalizing lo with
  | nil => rfl
  | cons x t ih =>
    simp only [tabWfFrom, Bool.and_eq_true, decide_eq_true_eq] at w
    by_cases hp : p x = true
    · simp only [List.filter_cons_of_pos hp, tabWfFrom, Bool.and_eq_true, decide_eq_true_eq]
      exact ⟨w.1, ih w.2⟩
    · rw [List.filter_cons_of_neg hp]
      exact ih (tabWfFrom_mono d t (by omega) w.2)

/-- Writing at or above the bound keeps the form. -/
theorem tabWfFrom_put {α : Type} [DecidableEq α] (d : α) (t : Tab α) {lo k : Nat} (v : α) (w : tabWfFrom d lo t = true)
    (h : lo ≤ k) : tabWfFrom d lo (tabPut d t k v) = true := by
  induction t generalizing lo with
  | nil => by_cases hv : v = d <;> simp [tabPut, tabWfFrom, hv, h]
  | cons p t ih =>
    obtain ⟨k', v'⟩ := p
    have w' := w
    simp only [tabWfFrom, Bool.and_eq_true, decide_eq_true_eq] at w
    unfold tabPut
    split
    · split
      · exact tabWfFrom_filter d _ _ w'
      · rename_i h1 h2
        simp only [tabWfFrom, Bool.and_eq_true, decide_eq_true_eq]
        exact ⟨⟨h, h2⟩, ⟨by omega, w.1.2⟩, w.2⟩
    · split
      · rename_i h1 h2
        split
        · exact tabWfFrom_mono d _ (by omega) (tabWfFrom_filter d t _ w.2)
        · rename_i h3
          simp only [tabWfFrom, Bool.and_eq_true, decide_eq_true_eq]
          exact ⟨⟨h, h3⟩, h2 ▸ w.2⟩
      · rename_i h1 h2
        simp only [tabWfFrom, Bool.and_eq_true, decide_eq_true_eq]
        exact ⟨⟨w.1.1, w.1.2⟩, ih w.2 (by omega)⟩

/-- A write keeps the canonical form. -/
theorem tabWf_put {α : Type} [DecidableEq α] (d : α) (t : Tab α) (k : Nat) (v : α) (w : tabWf d t = true) :
    tabWf d (tabPut d t k v) = true := tabWfFrom_put d t v w (Nat.zero_le k)

/-- Keeping some keys keeps the canonical form. -/
theorem tabWf_filter {α : Type} [DecidableEq α] (d : α) (t : Tab α) (p : Nat → Bool) (w : tabWf d t = true) :
    tabWf d (tabFilter p t) = true := tabWfFrom_filter d t _ w

/-! ### Reading after writing -/

/-- A dropped key reads as the default, the others as before. -/
theorem tabGet_drop {α : Type} (d : α) (t : Tab α) (k a : Nat) :
    tabGet d (tabDrop t k) a = if a = k then d else tabGet d t a := by
  unfold tabDrop
  induction t with
  | nil => simp [tabGet]
  | cons x t ih =>
    by_cases hx : x.1 = k
    · rw [List.filter_cons_of_neg (by simpa using hx), ih]
      by_cases ha : a = k
      · simp [ha]
      · have : ¬ a = x.1 := by omega
        simp [tabGet, ha, this]
    · rw [List.filter_cons_of_pos (by simpa using hx)]
      by_cases ha : a = x.1
      · have : ¬ a = k := by omega
        simp [tabGet, ha, hx]
      · simp only [tabGet, ha, if_false]; exact ih

/-- The key written reads the value written. -/
@[simp] theorem tabGet_put_same {α : Type} [DecidableEq α] (d : α) (t : Tab α) (k : Nat) (v : α) :
    tabGet d (tabPut d t k v) k = v := by
  induction t with
  | nil => by_cases hv : v = d <;> simp [tabPut, tabGet, hv]
  | cons p t ih =>
    obtain ⟨k', v'⟩ := p
    unfold tabPut
    split
    · split
      · rename_i h; simp [tabGet_drop, h]
      · simp [tabGet]
    · split
      · split
        · rename_i h; simp [tabGet_drop, h]
        · simp [tabGet]
      · rename_i h1 h2
        simp only [tabGet, h2, if_false]
        exact ih

/-- Every other key reads as before. -/
@[simp] theorem tabGet_put_ne {α : Type} [DecidableEq α] (d : α) (t : Tab α) {k a : Nat} (v : α) (h : a ≠ k) :
    tabGet d (tabPut d t k v) a = tabGet d t a := by
  induction t with
  | nil => by_cases hv : v = d <;> simp [tabPut, tabGet, hv, h]
  | cons p t ih =>
    obtain ⟨k', v'⟩ := p
    unfold tabPut
    split
    · split
      · simp [tabGet_drop, h]
      · simp [tabGet, h]
    · split
      · rename_i h1 h2
        subst h2
        split <;> simp [tabGet, tabGet_drop, h]
      · simp only [tabGet, ih]

/-- A key that is kept reads as before, one that is dropped reads as the default. -/
theorem tabGet_filter {α : Type} (d : α) (t : Tab α) (p : Nat → Bool) (a : Nat) :
    tabGet d (tabFilter p t) a = if p a then tabGet d t a else d := by
  unfold tabFilter
  induction t with
  | nil => simp [tabGet]
  | cons x t ih =>
    by_cases hp : p x.1 = true
    · rw [List.filter_cons_of_pos (by simpa using hp)]
      by_cases hk : a = x.1
      · subst hk; simp [tabGet, hp]
      · simp only [tabGet, hk, if_false]; exact ih
    · rw [List.filter_cons_of_neg (by simpa using hp), ih]
      by_cases hk : a = x.1
      · subst hk; simp [hp]
      · simp only [tabGet, hk, if_false]

/-! ### Byte memories -/

/-- Every operation of a memory keeps its canonical form. -/
theorem Memory.wf_put (m : Mem) (a : Nat) (b : Byte) (w : Memory.wf m = true) : Memory.wf (memPut m a b) = true :=
  tabWf_put 0 m a b w

theorem Memory.wf_write (m : Mem) (a : Nat) (bs : List Byte) (w : Memory.wf m = true) : Memory.wf (memWrite m a bs) = true := by
  induction bs generalizing m a with
  | nil => exact w
  | cons b bs ih => exact ih _ _ (Memory.wf_put m a b w)

theorem Memory.wf_zero (m : Mem) (a n : Nat) (w : Memory.wf m = true) : Memory.wf (memZero m a n) = true :=
  tabWf_filter 0 m _ w

theorem Memory.wf_overlay (m : Mem) (cells : List (Nat × BitVec 8)) (w : Memory.wf m = true) :
    Memory.wf (memOverlay m cells) = true := by
  unfold memOverlay
  induction cells generalizing m with
  | nil => exact w
  | cons c cs ih => exact ih _ (Memory.wf_put m c.1 c.2 w)

/-- A byte outside those written reads as before. -/
@[simp] theorem memGet_write_outside (m : Mem) (a x : Nat) (bs : List Byte) (h : x < a ∨ a + bs.length ≤ x) :
    memGet (memWrite m a bs) x = memGet m x := by
  induction bs generalizing m a with
  | nil => rfl
  | cons b bs ih =>
    simp only [List.length_cons] at h
    rw [memWrite, ih _ _ (by omega)]
    exact tabGet_put_ne 0 m b (by omega)

/-- A byte written reads as written. -/
theorem memGet_write_inside (m : Mem) (a i : Nat) (bs : List Byte) (h : i < bs.length) :
    memGet (memWrite m a bs) (a + i) = bs.getD i 0 := by
  induction bs generalizing m a i with
  | nil => simp at h
  | cons b bs ih =>
    cases i with
    | zero =>
      rw [memWrite, memGet_write_outside _ _ _ _ (by omega)]
      exact tabGet_put_same 0 m a b
    | succ i =>
      have := ih (memPut m a b) (a + 1) i (by simpa using h)
      have e : a + (i + 1) = a + 1 + i := by omega
      rw [memWrite, e, this]
      simp

/-- The bytes written read back. -/
theorem memRead_write (m : Mem) (a : Nat) (bs : List Byte) :
    memRead (memWrite m a bs) a bs.length = bs := by
  apply List.ext_getElem
  · simp [memRead]
  · intro i h1 h2
    simp only [memRead, List.getElem_map, List.getElem_range]
    rw [memGet_write_inside m a i bs (by simpa using h2)]
    simp [List.getD_eq_getElem?_getD, List.getElem?_eq_getElem h2]

/-- Bytes elsewhere read as before. -/
theorem memRead_write_outside (m : Mem) (a x n : Nat) (bs : List Byte) (h : x + n ≤ a ∨ a + bs.length ≤ x) :
    memRead (memWrite m a bs) x n = memRead m x n := by
  unfold memRead
  apply List.map_congr_left
  intro i hi
  have := List.mem_range.mp hi
  exact memGet_write_outside m a (x + i) bs (by omega)

/-- Zeroed bytes read zero, the others as before. -/
theorem memGet_zero (m : Mem) (a n x : Nat) :
    memGet (memZero m a n) x = if a ≤ x ∧ x < a + n then 0 else memGet m x := by
  unfold memGet memZero
  rw [tabGet_filter 0 m _ x]
  by_cases h1 : a ≤ x <;> by_cases h2 : x < a + n <;> simp [h1, h2]

end Sys2Proof.Machine
end

