-- ==== Sys2Proof/Laws/Bytes.lean ====
section
/-!
SUPPORT. Laws/Bytes.lean: parts of what is read from a memory, the sizes of checksums and digests, and far memory read through a
window that is laid straight onto one link half.
-/
namespace Sys2Proof.Machine

theorem memRead_length (m : Mem) (a n : Nat) : (memRead m a n).length = n := by simp [memRead]

/-- A part of what is read is what the part's place reads as. -/
theorem listSlice_memRead (m : Mem) (a n o k : Nat) (h : o + k ≤ n) : listSlice (memRead m a n) o k = memRead m (a + o) k := by
  apply List.ext_getElem
  · simp [listSlice, memRead]; omega
  · intro i h1 h2
    simp [listSlice, memRead, Nat.add_assoc]

theorem listLe_memRead (m : Mem) (a n o k : Nat) (h : o + k ≤ n) : listLe (memRead m a n) o k = leNat (memRead m (a + o) k) := by
  rw [← listSlice_memRead m a n o k h]; rfl

theorem take_memRead (m : Mem) (a n k : Nat) (h : k ≤ n) : (memRead m a n).take k = memRead m a k := by
  have := listSlice_memRead m a n 0 k (by omega)
  simpa [listSlice] using this

/-- The bytes of a number that fits them are read back. -/
theorem leNat_leBytes (n v : Nat) (h : v < 256 ^ n) : leNat (leBytes n v) = v := by
  induction n generalizing v with
  | zero => simp at h; simp [leBytes, leNat, h]
  | succ n ih =>
    have hq : v / 256 < 256 ^ n := by
      rw [Nat.div_lt_iff_lt_mul (by decide)]; simpa [Nat.pow_succ] using h
    simp [leBytes, leNat, ih _ hq]
    omega

theorem crcBit_lt (w poly c : Nat) (hp : poly < 2 ^ w) : crcBit w poly c < 2 ^ w := by
  unfold crcBit
  have : c * 2 % 2 ^ w < 2 ^ w := Nat.mod_lt _ (Nat.two_pow_pos w)
  split
  · exact Nat.xor_lt_two_pow this hp
  · exact this

/-- CRC-64 fits 64 bits. -/
theorem crc64_lt (bs : List Byte) : crc64 bs < 2 ^ 64 := by
  have : ∀ c b, crcByte 64 0x42F0E1EBA9EA3693 c b < 2 ^ 64 := fun c b => by
    simp only [crcByte, List.range, List.range.loop, List.foldl_cons, List.foldl_nil]
    exact crcBit_lt _ _ _ (by decide)
  have fold : ∀ (bs : List Byte) (c : Nat), c < 2 ^ 64 → bs.foldl (crcByte 64 0x42F0E1EBA9EA3693) c < 2 ^ 64 := fun bs => by
    induction bs with
    | nil => intro c hc; exact hc
    | cons b bs ih => intro c _; exact ih _ (this c b)
  exact fold bs 0 (by decide)

theorem shaBytes_length (d : BitVec 384) : (shaBytes d).length = 48 := by simp [shaBytes, beBytes, leBytes_length]

/-- Nothing of far memory on link half 0 fails to be read. -/
def FarView.sound (v : FarView) : Prop := v.poisoned = [] ∧ v.lost = [] ∧ 0 ∉ v.down

theorem FarView.sound.fails {v : FarView} (h : v.sound) (key : Nat) (hk : key < 2 ^ 64) : v.fails key = none := by
  have e : v.down.contains (key / 2 ^ 64) = false := by
    rw [Nat.div_eq_of_lt hk]
    simp [h.2.2]
  simp only [FarView.fails, e, h.1, h.2.1]
  rfl

/-- A window laid straight onto half 0 takes a far address to its offset from the window's base, counted from TARGET. -/
theorem farKey_straight (w : FarWindow) (f : Nat) (hl : w.links = 1) : farKey w f = w.target + (f - w.base) := by
  have hk : linkBits 1 = [0] := by decide
  simp only [farKey, hl, hk, List.length_singleton, Nat.mod_one, List.getD_cons_zero, Nat.zero_mul, Nat.mul_one, Nat.zero_add]
  rw [Nat.add_assoc, Nat.mul_comm, Nat.div_add_mod]

theorem windowOf_single (w : FarWindow) (f : Nat) (hb : w.base ≤ f) (h : f < w.base + w.size) : windowOf [w] f = some w := by
  simp [windowOf, hb, h]

/-- A window laid straight onto half 0 reads far memory itself. -/
theorem peekIn_straight (w : FarWindow) (v : FarView) (a n : Nat) (hv : v.sound) (hl : w.links = 1) (hs : w.target + w.size ≤ 2 ^ 64)
    (hb : w.base ≤ a) (h : a + n ≤ w.base + w.size) : peekIn [w] v a n = memRead v.mem (w.target + (a - w.base)) n := by
  unfold peekIn readFarIn memRead
  apply List.map_congr_left
  intro i hi
  have hi := List.mem_range.mp hi
  rw [windowOf_single w (a + i) (by omega) (by omega)]
  simp only [farKey_straight w (a + i) hl, hv.fails (w.target + (a + i - w.base)) (by omega)]
  rw [show w.target + (a + i - w.base) = w.target + (a - w.base) + i by omega]
  rfl

/-- A read through such a window meets no failure. -/
theorem readFarIn_straight (w : FarWindow) (v : FarView) (acc : Acc) (a n : Nat) (hv : v.sound) (hl : w.links = 1)
    (hs : w.target + w.size ≤ 2 ^ 64) (hb : w.base ≤ a) (h : a + n ≤ w.base + w.size) :
    (readFarIn [w] v acc a n).2.failedFar = acc.failedFar := by
  have none_ : ∀ i ∈ List.range n, ((v.failure [w] (a + i)).map fun h => (h, a + i)) = none := by
    intro i hi
    have hi := List.mem_range.mp hi
    rw [FarView.failure, windowOf_single w (a + i) (by omega) (by omega), Option.bind_some, farKey_straight w (a + i) hl,
      hv.fails _ (by omega)]
    rfl
  unfold readFarIn
  simp only [List.findSome?_eq_none_iff.mpr none_, Option.toList_none, List.append_nil]

/-- A read whose first byte fails meets the failure. -/
theorem readFarIn_failing (w : FarWindow) (v : FarView) (acc : Acc) (a n : Nat) (hn : 0 < n) (hw : windowOf [w] a = some w)
    (hf : (v.fails (farKey w a)).isSome = true) : (readFarIn [w] v acc a n).2.failedFar ≠ [] := by
  have e : ((v.failure [w] (a + 0)).map fun h => (h, a + 0)).isSome = true := by
    rw [Nat.add_zero, FarView.failure, hw, Option.bind_some, Option.isSome_map]; exact hf
  have f : ((List.range n).findSome? fun i => (v.failure [w] (a + i)).map fun h => (h, a + i)).isSome = true :=
    List.findSome?_isSome_iff.mpr ⟨0, List.mem_range.mpr hn, e⟩
  obtain ⟨x, hx⟩ := Option.isSome_iff_exists.mp f
  unfold readFarIn
  simp only [hx, Option.toList_some]
  simp

/-- A read of near memory without failed blocks meets none. -/
theorem readNear_healthy (s : State) (c : Cmd) (a : Acc) (addr n : Nat) (h : s.mem.failedNear = []) :
    (readNear s c a addr n).2.failedNear = a.failedNear := by
  have none_ : ∀ xs : List Nat, xs.filter (fun _ => false) = [] := fun xs => List.filter_eq_nil_iff.mpr (by simp)
  simp [readNear, h, none_]

theorem readNear_far (s : State) (c : Cmd) (a : Acc) (addr n : Nat) : (readNear s c a addr n).2.failedFar = a.failedFar := rfl

theorem readFar_near (s : State) (c : Cmd) (a : Acc) (addr n : Nat) : (readFar s c a addr n).2.failedNear = a.failedNear := rfl

/-- A read without failures reports nothing. -/
theorem State.reportFarIn_sound (s : State) (ws : List FarWindow) (c : Cmd) (a : Acc) (h : a.failedFar = []) : s.reportFarIn ws c a = s := by
  unfold State.reportFarIn
  rw [h]
  rfl

/-- A fill's read without failures gives the bytes. -/
theorem State.fillRead_sound (s : State) (l : Fin 4) (w : FarWindow) (addr n : Nat)
    (h : (readFarIn [w] s.far .empty addr n).2.failedFar = []) : s.fillRead l w addr n = (peekIn [w] s.far addr n, true, s) := by
  unfold State.fillRead
  simp only [h, List.isEmpty_nil, State.reportFarIn_sound s [w] (headframeCmd l) _ h]
  rfl

theorem foldl_addNew_ne (xs acc : List Nat) (h : xs ≠ [] ∨ acc ≠ []) : xs.foldl (fun r x => addNew x r) acc ≠ [] := by
  induction xs generalizing acc with
  | nil => simpa using h
  | cons x xs ih =>
    have ne : addNew x acc ≠ [] := by
      unfold addNew
      split
      · intro e; simp_all
      · simp
    exact ih _ (.inr ne)

/-- A read of near memory over a failed block meets it. -/
theorem readNear_failing (s : State) (c : Cmd) (a : Acc) (addr n ln : Nat) (hl : ln ∈ linesOf addr n) (hk : s.nearOk c.lvl ln = true)
    (hf : s.mem.failedNear.contains (ln / 64) = true) : (readNear s c a addr n).2.failedNear ≠ [] :=
  foldl_addNew_ne _ _ (.inl (List.ne_nil_of_mem (List.mem_filter.mpr ⟨hl, by simp only [hk, hf, Bool.true_and]⟩)))

end Sys2Proof.Machine
end

