-- ==== Sys2Proof/Laws/State.lean ====
section
/-!
SUPPORT. Laws/State.lean: what each update of a part of the state leaves as it is, field by field, and what reading that part
gives afterwards.
-/
namespace Sys2Proof.Machine

variable (s : State)

/-! ### setLvl -/

@[simp] theorem State.setLvl_now (l : Fin 4) (x : LevelState) : (s.setLvl l x).now = s.now := rfl
@[simp] theorem State.setLvl_freeCtr (l : Fin 4) (x : LevelState) : (s.setLvl l x).freeCtr = s.freeCtr := rfl
@[simp] theorem State.setLvl_pending (l : Fin 4) (x : LevelState) : (s.setLvl l x).pending = s.pending := rfl
@[simp] theorem State.setLvl_raised (l : Fin 4) (x : LevelState) : (s.setLvl l x).raised = s.raised := rfl
@[simp] theorem State.setLvl_boot (l : Fin 4) (x : LevelState) : (s.setLvl l x).boot = s.boot := rfl
@[simp] theorem State.setLvl_cad (l : Fin 4) (x : LevelState) : (s.setLvl l x).cad = s.cad := rfl
@[simp] theorem State.setLvl_cores (l : Fin 4) (x : LevelState) : (s.setLvl l x).cores = s.cores := rfl
@[simp] theorem State.setLvl_coreMem (l : Fin 4) (x : LevelState) : (s.setLvl l x).coreMem = s.coreMem := rfl
@[simp] theorem State.setLvl_hubMem (l : Fin 4) (x : LevelState) : (s.setLvl l x).hubMem = s.hubMem := rfl
@[simp] theorem State.setLvl_stemMem (l : Fin 4) (x : LevelState) : (s.setLvl l x).stemMem = s.stemMem := rfl
@[simp] theorem State.setLvl_nearMem (l : Fin 4) (x : LevelState) : (s.setLvl l x).nearMem = s.nearMem := rfl
@[simp] theorem State.setLvl_farMem (l : Fin 4) (x : LevelState) : (s.setLvl l x).farMem = s.farMem := rfl
@[simp] theorem State.setLvl_flushes (l : Fin 4) (x : LevelState) : (s.setLvl l x).flushes = s.flushes := rfl
@[simp] theorem State.setLvl_hostMem (l : Fin 4) (x : LevelState) : (s.setLvl l x).hostMem = s.hostMem := rfl
@[simp] theorem State.setLvl_barMem (l : Fin 4) (x : LevelState) : (s.setLvl l x).barMem = s.barMem := rfl
@[simp] theorem State.setLvl_fns (l : Fin 4) (x : LevelState) : (s.setLvl l x).fns = s.fns := rfl
@[simp] theorem State.setLvl_mem (l : Fin 4) (x : LevelState) : (s.setLvl l x).mem = s.mem := rfl
@[simp] theorem State.setLvl_links (l : Fin 4) (x : LevelState) : (s.setLvl l x).links = s.links := rfl
@[simp] theorem State.setLvl_pwr (l : Fin 4) (x : LevelState) : (s.setLvl l x).pwr = s.pwr := rfl
@[simp] theorem State.setLvl_asy (l : Fin 4) (x : LevelState) : (s.setLvl l x).asy = s.asy := rfl
@[simp] theorem State.setLvl_rosterMsg (l : Fin 4) (x : LevelState) : (s.setLvl l x).rosterMsg = s.rosterMsg := rfl
@[simp] theorem State.setLvl_takes (l : Fin 4) (x : LevelState) : (s.setLvl l x).takes = s.takes := rfl

/-! ### updLvl -/

@[simp] theorem State.updLvl_now (l : Fin 4) (f : LevelState → LevelState) : (s.updLvl l f).now = s.now := rfl
@[simp] theorem State.updLvl_freeCtr (l : Fin 4) (f : LevelState → LevelState) : (s.updLvl l f).freeCtr = s.freeCtr := rfl
@[simp] theorem State.updLvl_pending (l : Fin 4) (f : LevelState → LevelState) : (s.updLvl l f).pending = s.pending := rfl
@[simp] theorem State.updLvl_raised (l : Fin 4) (f : LevelState → LevelState) : (s.updLvl l f).raised = s.raised := rfl
@[simp] theorem State.updLvl_boot (l : Fin 4) (f : LevelState → LevelState) : (s.updLvl l f).boot = s.boot := rfl
@[simp] theorem State.updLvl_cad (l : Fin 4) (f : LevelState → LevelState) : (s.updLvl l f).cad = s.cad := rfl
@[simp] theorem State.updLvl_cores (l : Fin 4) (f : LevelState → LevelState) : (s.updLvl l f).cores = s.cores := rfl
@[simp] theorem State.updLvl_coreMem (l : Fin 4) (f : LevelState → LevelState) : (s.updLvl l f).coreMem = s.coreMem := rfl
@[simp] theorem State.updLvl_hubMem (l : Fin 4) (f : LevelState → LevelState) : (s.updLvl l f).hubMem = s.hubMem := rfl
@[simp] theorem State.updLvl_stemMem (l : Fin 4) (f : LevelState → LevelState) : (s.updLvl l f).stemMem = s.stemMem := rfl
@[simp] theorem State.updLvl_nearMem (l : Fin 4) (f : LevelState → LevelState) : (s.updLvl l f).nearMem = s.nearMem := rfl
@[simp] theorem State.updLvl_farMem (l : Fin 4) (f : LevelState → LevelState) : (s.updLvl l f).farMem = s.farMem := rfl
@[simp] theorem State.updLvl_flushes (l : Fin 4) (f : LevelState → LevelState) : (s.updLvl l f).flushes = s.flushes := rfl
@[simp] theorem State.updLvl_hostMem (l : Fin 4) (f : LevelState → LevelState) : (s.updLvl l f).hostMem = s.hostMem := rfl
@[simp] theorem State.updLvl_barMem (l : Fin 4) (f : LevelState → LevelState) : (s.updLvl l f).barMem = s.barMem := rfl
@[simp] theorem State.updLvl_fns (l : Fin 4) (f : LevelState → LevelState) : (s.updLvl l f).fns = s.fns := rfl
@[simp] theorem State.updLvl_mem (l : Fin 4) (f : LevelState → LevelState) : (s.updLvl l f).mem = s.mem := rfl
@[simp] theorem State.updLvl_links (l : Fin 4) (f : LevelState → LevelState) : (s.updLvl l f).links = s.links := rfl
@[simp] theorem State.updLvl_pwr (l : Fin 4) (f : LevelState → LevelState) : (s.updLvl l f).pwr = s.pwr := rfl
@[simp] theorem State.updLvl_asy (l : Fin 4) (f : LevelState → LevelState) : (s.updLvl l f).asy = s.asy := rfl
@[simp] theorem State.updLvl_rosterMsg (l : Fin 4) (f : LevelState → LevelState) : (s.updLvl l f).rosterMsg = s.rosterMsg := rfl
@[simp] theorem State.updLvl_takes (l : Fin 4) (f : LevelState → LevelState) : (s.updLvl l f).takes = s.takes := rfl

/-! ### updJob -/

@[simp] theorem State.updJob_now (l : Fin 4) (f : Job → Job) : (s.updJob l f).now = s.now := rfl
@[simp] theorem State.updJob_freeCtr (l : Fin 4) (f : Job → Job) : (s.updJob l f).freeCtr = s.freeCtr := rfl
@[simp] theorem State.updJob_pending (l : Fin 4) (f : Job → Job) : (s.updJob l f).pending = s.pending := rfl
@[simp] theorem State.updJob_raised (l : Fin 4) (f : Job → Job) : (s.updJob l f).raised = s.raised := rfl
@[simp] theorem State.updJob_boot (l : Fin 4) (f : Job → Job) : (s.updJob l f).boot = s.boot := rfl
@[simp] theorem State.updJob_cad (l : Fin 4) (f : Job → Job) : (s.updJob l f).cad = s.cad := rfl
@[simp] theorem State.updJob_cores (l : Fin 4) (f : Job → Job) : (s.updJob l f).cores = s.cores := rfl
@[simp] theorem State.updJob_coreMem (l : Fin 4) (f : Job → Job) : (s.updJob l f).coreMem = s.coreMem := rfl
@[simp] theorem State.updJob_hubMem (l : Fin 4) (f : Job → Job) : (s.updJob l f).hubMem = s.hubMem := rfl
@[simp] theorem State.updJob_stemMem (l : Fin 4) (f : Job → Job) : (s.updJob l f).stemMem = s.stemMem := rfl
@[simp] theorem State.updJob_nearMem (l : Fin 4) (f : Job → Job) : (s.updJob l f).nearMem = s.nearMem := rfl
@[simp] theorem State.updJob_farMem (l : Fin 4) (f : Job → Job) : (s.updJob l f).farMem = s.farMem := rfl
@[simp] theorem State.updJob_flushes (l : Fin 4) (f : Job → Job) : (s.updJob l f).flushes = s.flushes := rfl
@[simp] theorem State.updJob_hostMem (l : Fin 4) (f : Job → Job) : (s.updJob l f).hostMem = s.hostMem := rfl
@[simp] theorem State.updJob_barMem (l : Fin 4) (f : Job → Job) : (s.updJob l f).barMem = s.barMem := rfl
@[simp] theorem State.updJob_fns (l : Fin 4) (f : Job → Job) : (s.updJob l f).fns = s.fns := rfl
@[simp] theorem State.updJob_mem (l : Fin 4) (f : Job → Job) : (s.updJob l f).mem = s.mem := rfl
@[simp] theorem State.updJob_links (l : Fin 4) (f : Job → Job) : (s.updJob l f).links = s.links := rfl
@[simp] theorem State.updJob_pwr (l : Fin 4) (f : Job → Job) : (s.updJob l f).pwr = s.pwr := rfl
@[simp] theorem State.updJob_asy (l : Fin 4) (f : Job → Job) : (s.updJob l f).asy = s.asy := rfl
@[simp] theorem State.updJob_rosterMsg (l : Fin 4) (f : Job → Job) : (s.updJob l f).rosterMsg = s.rosterMsg := rfl
@[simp] theorem State.updJob_takes (l : Fin 4) (f : Job → Job) : (s.updJob l f).takes = s.takes := rfl

/-! ### updEng -/

@[simp] theorem State.updEng_now (l : Fin 4) (e : Nat) (f : EngineState → EngineState) : (s.updEng l e f).now = s.now := rfl
@[simp] theorem State.updEng_freeCtr (l : Fin 4) (e : Nat) (f : EngineState → EngineState) : (s.updEng l e f).freeCtr = s.freeCtr := rfl
@[simp] theorem State.updEng_pending (l : Fin 4) (e : Nat) (f : EngineState → EngineState) : (s.updEng l e f).pending = s.pending := rfl
@[simp] theorem State.updEng_raised (l : Fin 4) (e : Nat) (f : EngineState → EngineState) : (s.updEng l e f).raised = s.raised := rfl
@[simp] theorem State.updEng_boot (l : Fin 4) (e : Nat) (f : EngineState → EngineState) : (s.updEng l e f).boot = s.boot := rfl
@[simp] theorem State.updEng_cad (l : Fin 4) (e : Nat) (f : EngineState → EngineState) : (s.updEng l e f).cad = s.cad := rfl
@[simp] theorem State.updEng_cores (l : Fin 4) (e : Nat) (f : EngineState → EngineState) : (s.updEng l e f).cores = s.cores := rfl
@[simp] theorem State.updEng_coreMem (l : Fin 4) (e : Nat) (f : EngineState → EngineState) : (s.updEng l e f).coreMem = s.coreMem := rfl
@[simp] theorem State.updEng_hubMem (l : Fin 4) (e : Nat) (f : EngineState → EngineState) : (s.updEng l e f).hubMem = s.hubMem := rfl
@[simp] theorem State.updEng_stemMem (l : Fin 4) (e : Nat) (f : EngineState → EngineState) : (s.updEng l e f).stemMem = s.stemMem := rfl
@[simp] theorem State.updEng_nearMem (l : Fin 4) (e : Nat) (f : EngineState → EngineState) : (s.updEng l e f).nearMem = s.nearMem := rfl
@[simp] theorem State.updEng_farMem (l : Fin 4) (e : Nat) (f : EngineState → EngineState) : (s.updEng l e f).farMem = s.farMem := rfl
@[simp] theorem State.updEng_flushes (l : Fin 4) (e : Nat) (f : EngineState → EngineState) : (s.updEng l e f).flushes = s.flushes := rfl
@[simp] theorem State.updEng_hostMem (l : Fin 4) (e : Nat) (f : EngineState → EngineState) : (s.updEng l e f).hostMem = s.hostMem := rfl
@[simp] theorem State.updEng_barMem (l : Fin 4) (e : Nat) (f : EngineState → EngineState) : (s.updEng l e f).barMem = s.barMem := rfl
@[simp] theorem State.updEng_fns (l : Fin 4) (e : Nat) (f : EngineState → EngineState) : (s.updEng l e f).fns = s.fns := rfl
@[simp] theorem State.updEng_mem (l : Fin 4) (e : Nat) (f : EngineState → EngineState) : (s.updEng l e f).mem = s.mem := rfl
@[simp] theorem State.updEng_links (l : Fin 4) (e : Nat) (f : EngineState → EngineState) : (s.updEng l e f).links = s.links := rfl
@[simp] theorem State.updEng_pwr (l : Fin 4) (e : Nat) (f : EngineState → EngineState) : (s.updEng l e f).pwr = s.pwr := rfl
@[simp] theorem State.updEng_asy (l : Fin 4) (e : Nat) (f : EngineState → EngineState) : (s.updEng l e f).asy = s.asy := rfl
@[simp] theorem State.updEng_rosterMsg (l : Fin 4) (e : Nat) (f : EngineState → EngineState) : (s.updEng l e f).rosterMsg = s.rosterMsg := rfl
@[simp] theorem State.updEng_takes (l : Fin 4) (e : Nat) (f : EngineState → EngineState) : (s.updEng l e f).takes = s.takes := rfl

/-! ### setCore -/

@[simp] theorem State.setCore_now (n : Nat) (x : CoreState) : (s.setCore n x).now = s.now := rfl
@[simp] theorem State.setCore_freeCtr (n : Nat) (x : CoreState) : (s.setCore n x).freeCtr = s.freeCtr := rfl
@[simp] theorem State.setCore_pending (n : Nat) (x : CoreState) : (s.setCore n x).pending = s.pending := rfl
@[simp] theorem State.setCore_raised (n : Nat) (x : CoreState) : (s.setCore n x).raised = s.raised := rfl
@[simp] theorem State.setCore_boot (n : Nat) (x : CoreState) : (s.setCore n x).boot = s.boot := rfl
@[simp] theorem State.setCore_cad (n : Nat) (x : CoreState) : (s.setCore n x).cad = s.cad := rfl
@[simp] theorem State.setCore_levels (n : Nat) (x : CoreState) : (s.setCore n x).levels = s.levels := rfl
@[simp] theorem State.setCore_coreMem (n : Nat) (x : CoreState) : (s.setCore n x).coreMem = s.coreMem := rfl
@[simp] theorem State.setCore_hubMem (n : Nat) (x : CoreState) : (s.setCore n x).hubMem = s.hubMem := rfl
@[simp] theorem State.setCore_stemMem (n : Nat) (x : CoreState) : (s.setCore n x).stemMem = s.stemMem := rfl
@[simp] theorem State.setCore_nearMem (n : Nat) (x : CoreState) : (s.setCore n x).nearMem = s.nearMem := rfl
@[simp] theorem State.setCore_farMem (n : Nat) (x : CoreState) : (s.setCore n x).farMem = s.farMem := rfl
@[simp] theorem State.setCore_flushes (n : Nat) (x : CoreState) : (s.setCore n x).flushes = s.flushes := rfl
@[simp] theorem State.setCore_hostMem (n : Nat) (x : CoreState) : (s.setCore n x).hostMem = s.hostMem := rfl
@[simp] theorem State.setCore_barMem (n : Nat) (x : CoreState) : (s.setCore n x).barMem = s.barMem := rfl
@[simp] theorem State.setCore_fns (n : Nat) (x : CoreState) : (s.setCore n x).fns = s.fns := rfl
@[simp] theorem State.setCore_mem (n : Nat) (x : CoreState) : (s.setCore n x).mem = s.mem := rfl
@[simp] theorem State.setCore_links (n : Nat) (x : CoreState) : (s.setCore n x).links = s.links := rfl
@[simp] theorem State.setCore_pwr (n : Nat) (x : CoreState) : (s.setCore n x).pwr = s.pwr := rfl
@[simp] theorem State.setCore_asy (n : Nat) (x : CoreState) : (s.setCore n x).asy = s.asy := rfl
@[simp] theorem State.setCore_rosterMsg (n : Nat) (x : CoreState) : (s.setCore n x).rosterMsg = s.rosterMsg := rfl
@[simp] theorem State.setCore_takes (n : Nat) (x : CoreState) : (s.setCore n x).takes = s.takes := rfl

/-! ### updCore -/

@[simp] theorem State.updCore_now (n : Nat) (f : CoreState → CoreState) : (s.updCore n f).now = s.now := rfl
@[simp] theorem State.updCore_freeCtr (n : Nat) (f : CoreState → CoreState) : (s.updCore n f).freeCtr = s.freeCtr := rfl
@[simp] theorem State.updCore_pending (n : Nat) (f : CoreState → CoreState) : (s.updCore n f).pending = s.pending := rfl
@[simp] theorem State.updCore_raised (n : Nat) (f : CoreState → CoreState) : (s.updCore n f).raised = s.raised := rfl
@[simp] theorem State.updCore_boot (n : Nat) (f : CoreState → CoreState) : (s.updCore n f).boot = s.boot := rfl
@[simp] theorem State.updCore_cad (n : Nat) (f : CoreState → CoreState) : (s.updCore n f).cad = s.cad := rfl
@[simp] theorem State.updCore_levels (n : Nat) (f : CoreState → CoreState) : (s.updCore n f).levels = s.levels := rfl
@[simp] theorem State.updCore_coreMem (n : Nat) (f : CoreState → CoreState) : (s.updCore n f).coreMem = s.coreMem := rfl
@[simp] theorem State.updCore_hubMem (n : Nat) (f : CoreState → CoreState) : (s.updCore n f).hubMem = s.hubMem := rfl
@[simp] theorem State.updCore_stemMem (n : Nat) (f : CoreState → CoreState) : (s.updCore n f).stemMem = s.stemMem := rfl
@[simp] theorem State.updCore_nearMem (n : Nat) (f : CoreState → CoreState) : (s.updCore n f).nearMem = s.nearMem := rfl
@[simp] theorem State.updCore_farMem (n : Nat) (f : CoreState → CoreState) : (s.updCore n f).farMem = s.farMem := rfl
@[simp] theorem State.updCore_flushes (n : Nat) (f : CoreState → CoreState) : (s.updCore n f).flushes = s.flushes := rfl
@[simp] theorem State.updCore_hostMem (n : Nat) (f : CoreState → CoreState) : (s.updCore n f).hostMem = s.hostMem := rfl
@[simp] theorem State.updCore_barMem (n : Nat) (f : CoreState → CoreState) : (s.updCore n f).barMem = s.barMem := rfl
@[simp] theorem State.updCore_fns (n : Nat) (f : CoreState → CoreState) : (s.updCore n f).fns = s.fns := rfl
@[simp] theorem State.updCore_mem (n : Nat) (f : CoreState → CoreState) : (s.updCore n f).mem = s.mem := rfl
@[simp] theorem State.updCore_links (n : Nat) (f : CoreState → CoreState) : (s.updCore n f).links = s.links := rfl
@[simp] theorem State.updCore_pwr (n : Nat) (f : CoreState → CoreState) : (s.updCore n f).pwr = s.pwr := rfl
@[simp] theorem State.updCore_asy (n : Nat) (f : CoreState → CoreState) : (s.updCore n f).asy = s.asy := rfl
@[simp] theorem State.updCore_rosterMsg (n : Nat) (f : CoreState → CoreState) : (s.updCore n f).rosterMsg = s.rosterMsg := rfl
@[simp] theorem State.updCore_takes (n : Nat) (f : CoreState → CoreState) : (s.updCore n f).takes = s.takes := rfl

/-! ### setFn -/

@[simp] theorem State.setFn_now (n : Nat) (x : Fn) : (s.setFn n x).now = s.now := rfl
@[simp] theorem State.setFn_freeCtr (n : Nat) (x : Fn) : (s.setFn n x).freeCtr = s.freeCtr := rfl
@[simp] theorem State.setFn_pending (n : Nat) (x : Fn) : (s.setFn n x).pending = s.pending := rfl
@[simp] theorem State.setFn_raised (n : Nat) (x : Fn) : (s.setFn n x).raised = s.raised := rfl
@[simp] theorem State.setFn_boot (n : Nat) (x : Fn) : (s.setFn n x).boot = s.boot := rfl
@[simp] theorem State.setFn_cad (n : Nat) (x : Fn) : (s.setFn n x).cad = s.cad := rfl
@[simp] theorem State.setFn_levels (n : Nat) (x : Fn) : (s.setFn n x).levels = s.levels := rfl
@[simp] theorem State.setFn_cores (n : Nat) (x : Fn) : (s.setFn n x).cores = s.cores := rfl
@[simp] theorem State.setFn_coreMem (n : Nat) (x : Fn) : (s.setFn n x).coreMem = s.coreMem := rfl
@[simp] theorem State.setFn_hubMem (n : Nat) (x : Fn) : (s.setFn n x).hubMem = s.hubMem := rfl
@[simp] theorem State.setFn_stemMem (n : Nat) (x : Fn) : (s.setFn n x).stemMem = s.stemMem := rfl
@[simp] theorem State.setFn_nearMem (n : Nat) (x : Fn) : (s.setFn n x).nearMem = s.nearMem := rfl
@[simp] theorem State.setFn_farMem (n : Nat) (x : Fn) : (s.setFn n x).farMem = s.farMem := rfl
@[simp] theorem State.setFn_flushes (n : Nat) (x : Fn) : (s.setFn n x).flushes = s.flushes := rfl
@[simp] theorem State.setFn_hostMem (n : Nat) (x : Fn) : (s.setFn n x).hostMem = s.hostMem := rfl
@[simp] theorem State.setFn_barMem (n : Nat) (x : Fn) : (s.setFn n x).barMem = s.barMem := rfl
@[simp] theorem State.setFn_mem (n : Nat) (x : Fn) : (s.setFn n x).mem = s.mem := rfl
@[simp] theorem State.setFn_links (n : Nat) (x : Fn) : (s.setFn n x).links = s.links := rfl
@[simp] theorem State.setFn_pwr (n : Nat) (x : Fn) : (s.setFn n x).pwr = s.pwr := rfl
@[simp] theorem State.setFn_asy (n : Nat) (x : Fn) : (s.setFn n x).asy = s.asy := rfl
@[simp] theorem State.setFn_rosterMsg (n : Nat) (x : Fn) : (s.setFn n x).rosterMsg = s.rosterMsg := rfl
@[simp] theorem State.setFn_takes (n : Nat) (x : Fn) : (s.setFn n x).takes = s.takes := rfl

/-! ### updFn -/

@[simp] theorem State.updFn_now (n : Nat) (f : Fn → Fn) : (s.updFn n f).now = s.now := rfl
@[simp] theorem State.updFn_freeCtr (n : Nat) (f : Fn → Fn) : (s.updFn n f).freeCtr = s.freeCtr := rfl
@[simp] theorem State.updFn_pending (n : Nat) (f : Fn → Fn) : (s.updFn n f).pending = s.pending := rfl
@[simp] theorem State.updFn_raised (n : Nat) (f : Fn → Fn) : (s.updFn n f).raised = s.raised := rfl
@[simp] theorem State.updFn_boot (n : Nat) (f : Fn → Fn) : (s.updFn n f).boot = s.boot := rfl
@[simp] theorem State.updFn_cad (n : Nat) (f : Fn → Fn) : (s.updFn n f).cad = s.cad := rfl
@[simp] theorem State.updFn_levels (n : Nat) (f : Fn → Fn) : (s.updFn n f).levels = s.levels := rfl
@[simp] theorem State.updFn_cores (n : Nat) (f : Fn → Fn) : (s.updFn n f).cores = s.cores := rfl
@[simp] theorem State.updFn_coreMem (n : Nat) (f : Fn → Fn) : (s.updFn n f).coreMem = s.coreMem := rfl
@[simp] theorem State.updFn_hubMem (n : Nat) (f : Fn → Fn) : (s.updFn n f).hubMem = s.hubMem := rfl
@[simp] theorem State.updFn_stemMem (n : Nat) (f : Fn → Fn) : (s.updFn n f).stemMem = s.stemMem := rfl
@[simp] theorem State.updFn_nearMem (n : Nat) (f : Fn → Fn) : (s.updFn n f).nearMem = s.nearMem := rfl
@[simp] theorem State.updFn_farMem (n : Nat) (f : Fn → Fn) : (s.updFn n f).farMem = s.farMem := rfl
@[simp] theorem State.updFn_flushes (n : Nat) (f : Fn → Fn) : (s.updFn n f).flushes = s.flushes := rfl
@[simp] theorem State.updFn_hostMem (n : Nat) (f : Fn → Fn) : (s.updFn n f).hostMem = s.hostMem := rfl
@[simp] theorem State.updFn_barMem (n : Nat) (f : Fn → Fn) : (s.updFn n f).barMem = s.barMem := rfl
@[simp] theorem State.updFn_mem (n : Nat) (f : Fn → Fn) : (s.updFn n f).mem = s.mem := rfl
@[simp] theorem State.updFn_links (n : Nat) (f : Fn → Fn) : (s.updFn n f).links = s.links := rfl
@[simp] theorem State.updFn_pwr (n : Nat) (f : Fn → Fn) : (s.updFn n f).pwr = s.pwr := rfl
@[simp] theorem State.updFn_asy (n : Nat) (f : Fn → Fn) : (s.updFn n f).asy = s.asy := rfl
@[simp] theorem State.updFn_rosterMsg (n : Nat) (f : Fn → Fn) : (s.updFn n f).rosterMsg = s.rosterMsg := rfl
@[simp] theorem State.updFn_takes (n : Nat) (f : Fn → Fn) : (s.updFn n f).takes = s.takes := rfl

/-! ### setLink -/

@[simp] theorem State.setLink_now (h : Nat) (x : LinkHalf) : (s.setLink h x).now = s.now := rfl
@[simp] theorem State.setLink_freeCtr (h : Nat) (x : LinkHalf) : (s.setLink h x).freeCtr = s.freeCtr := rfl
@[simp] theorem State.setLink_pending (h : Nat) (x : LinkHalf) : (s.setLink h x).pending = s.pending := rfl
@[simp] theorem State.setLink_raised (h : Nat) (x : LinkHalf) : (s.setLink h x).raised = s.raised := rfl
@[simp] theorem State.setLink_boot (h : Nat) (x : LinkHalf) : (s.setLink h x).boot = s.boot := rfl
@[simp] theorem State.setLink_cad (h : Nat) (x : LinkHalf) : (s.setLink h x).cad = s.cad := rfl
@[simp] theorem State.setLink_levels (h : Nat) (x : LinkHalf) : (s.setLink h x).levels = s.levels := rfl
@[simp] theorem State.setLink_cores (h : Nat) (x : LinkHalf) : (s.setLink h x).cores = s.cores := rfl
@[simp] theorem State.setLink_coreMem (h : Nat) (x : LinkHalf) : (s.setLink h x).coreMem = s.coreMem := rfl
@[simp] theorem State.setLink_hubMem (h : Nat) (x : LinkHalf) : (s.setLink h x).hubMem = s.hubMem := rfl
@[simp] theorem State.setLink_stemMem (h : Nat) (x : LinkHalf) : (s.setLink h x).stemMem = s.stemMem := rfl
@[simp] theorem State.setLink_nearMem (h : Nat) (x : LinkHalf) : (s.setLink h x).nearMem = s.nearMem := rfl
@[simp] theorem State.setLink_farMem (h : Nat) (x : LinkHalf) : (s.setLink h x).farMem = s.farMem := rfl
@[simp] theorem State.setLink_flushes (h : Nat) (x : LinkHalf) : (s.setLink h x).flushes = s.flushes := rfl
@[simp] theorem State.setLink_hostMem (h : Nat) (x : LinkHalf) : (s.setLink h x).hostMem = s.hostMem := rfl
@[simp] theorem State.setLink_barMem (h : Nat) (x : LinkHalf) : (s.setLink h x).barMem = s.barMem := rfl
@[simp] theorem State.setLink_fns (h : Nat) (x : LinkHalf) : (s.setLink h x).fns = s.fns := rfl
@[simp] theorem State.setLink_mem (h : Nat) (x : LinkHalf) : (s.setLink h x).mem = s.mem := rfl
@[simp] theorem State.setLink_pwr (h : Nat) (x : LinkHalf) : (s.setLink h x).pwr = s.pwr := rfl
@[simp] theorem State.setLink_asy (h : Nat) (x : LinkHalf) : (s.setLink h x).asy = s.asy := rfl
@[simp] theorem State.setLink_rosterMsg (h : Nat) (x : LinkHalf) : (s.setLink h x).rosterMsg = s.rosterMsg := rfl
@[simp] theorem State.setLink_takes (h : Nat) (x : LinkHalf) : (s.setLink h x).takes = s.takes := rfl

/-! ### Reading back -/

@[simp] theorem State.lvl_setLvl_same (l : Fin 4) (x : LevelState) : (s.setLvl l x).lvl l = x :=
  tabGet_put_same LevelState.absent s.levels l.val x

@[simp] theorem State.lvl_setLvl_ne {l k : Fin 4} (x : LevelState) (h : k ≠ l) : (s.setLvl l x).lvl k = s.lvl k :=
  tabGet_put_ne LevelState.absent s.levels x (fun e => h (Fin.ext e))

@[simp] theorem State.lvl_updLvl_same (l : Fin 4) (f : LevelState → LevelState) : (s.updLvl l f).lvl l = f (s.lvl l) :=
  s.lvl_setLvl_same l _

@[simp] theorem State.lvl_updLvl_ne {l k : Fin 4} (f : LevelState → LevelState) (h : k ≠ l) :
    (s.updLvl l f).lvl k = s.lvl k := s.lvl_setLvl_ne _ h

@[simp] theorem State.lvl_updJob_same (l : Fin 4) (f : Job → Job) :
    (s.updJob l f).lvl l = { s.lvl l with job := (s.lvl l).job.map f } := s.lvl_setLvl_same l _

@[simp] theorem State.lvl_updJob_ne {l k : Fin 4} (f : Job → Job) (h : k ≠ l) : (s.updJob l f).lvl k = s.lvl k :=
  s.lvl_setLvl_ne _ h

@[simp] theorem State.lvl_updEng_same (l : Fin 4) (e : Nat) (f : EngineState → EngineState) :
    (s.updEng l e f).lvl l = (s.lvl l).setEng e (f ((s.lvl l).eng e)) := s.lvl_setLvl_same l _

@[simp] theorem State.lvl_updEng_ne {l k : Fin 4} (e : Nat) (f : EngineState → EngineState) (h : k ≠ l) :
    (s.updEng l e f).lvl k = s.lvl k := s.lvl_setLvl_ne _ h

@[simp] theorem LevelState.eng_setEng_same (ls : LevelState) (e : Nat) (x : EngineState) : (ls.setEng e x).eng e = x :=
  tabGet_put_same EngineState.fresh ls.engines e x

@[simp] theorem LevelState.eng_setEng_ne (ls : LevelState) {e k : Nat} (x : EngineState) (h : k ≠ e) :
    (ls.setEng e x).eng k = ls.eng k := tabGet_put_ne EngineState.fresh ls.engines x h

@[simp] theorem LevelState.tally_setTally_same (ls : LevelState) (t : Nat) (x : TallyState) : (ls.setTally t x).tally t = x :=
  tabGet_put_same TallyState.fresh ls.tallies t x

@[simp] theorem LevelState.tally_setTally_ne (ls : LevelState) {t k : Nat} (x : TallyState) (h : k ≠ t) :
    (ls.setTally t x).tally k = ls.tally k := tabGet_put_ne TallyState.fresh ls.tallies x h

@[simp] theorem LevelState.timer_setTimer_same (ls : LevelState) (t : Nat) (x : PhaseTimer) : (ls.setTimer t x).timer t = x :=
  tabGet_put_same PhaseTimer.fresh ls.timers t x

@[simp] theorem LevelState.timer_setTimer_ne (ls : LevelState) {t k : Nat} (x : PhaseTimer) (h : k ≠ t) :
    (ls.setTimer t x).timer k = ls.timer k := tabGet_put_ne PhaseTimer.fresh ls.timers x h

@[simp] theorem State.core_setCore_same (n : Nat) (x : CoreState) : (s.setCore n x).core n = x :=
  tabGet_put_same CoreState.fresh s.cores n x

@[simp] theorem State.core_setCore_ne {n k : Nat} (x : CoreState) (h : k ≠ n) : (s.setCore n x).core k = s.core k :=
  tabGet_put_ne CoreState.fresh s.cores x h

@[simp] theorem State.core_updCore_same (n : Nat) (f : CoreState → CoreState) : (s.updCore n f).core n = f (s.core n) :=
  s.core_setCore_same n _

@[simp] theorem State.core_updCore_ne {n k : Nat} (f : CoreState → CoreState) (h : k ≠ n) : (s.updCore n f).core k = s.core k :=
  s.core_setCore_ne _ h

@[simp] theorem State.fn_setFn_same (n : Nat) (x : Fn) : (s.setFn n x).fn n = x := tabGet_put_same Fn.fresh s.fns n x

@[simp] theorem State.fn_setFn_ne {n k : Nat} (x : Fn) (h : k ≠ n) : (s.setFn n x).fn k = s.fn k :=
  tabGet_put_ne Fn.fresh s.fns x h

@[simp] theorem State.fn_updFn_same (n : Nat) (f : Fn → Fn) : (s.updFn n f).fn n = f (s.fn n) := s.fn_setFn_same n _

@[simp] theorem State.fn_updFn_ne {n k : Nat} (f : Fn → Fn) (h : k ≠ n) : (s.updFn n f).fn k = s.fn k := s.fn_setFn_ne _ h

@[simp] theorem State.link_setLink_same (h : Nat) (x : LinkHalf) : (s.setLink h x).link h = x :=
  tabGet_put_same LinkHalf.down s.links h x

@[simp] theorem State.link_setLink_ne {h k : Nat} (x : LinkHalf) (hk : k ≠ h) : (s.setLink h x).link k = s.link k :=
  tabGet_put_ne LinkHalf.down s.links x hk

/-! ### Readers see only their own part -/

@[simp] theorem State.core_setLvl (l : Fin 4) (x : LevelState) (k : Nat) : (s.setLvl l x).core k = s.core k := rfl
@[simp] theorem State.fn_setLvl (l : Fin 4) (x : LevelState) (k : Nat) : (s.setLvl l x).fn k = s.fn k := rfl
@[simp] theorem State.link_setLvl (l : Fin 4) (x : LevelState) (k : Nat) : (s.setLvl l x).link k = s.link k := rfl
@[simp] theorem State.core_updLvl (l : Fin 4) (f : LevelState → LevelState) (k : Nat) : (s.updLvl l f).core k = s.core k := rfl
@[simp] theorem State.fn_updLvl (l : Fin 4) (f : LevelState → LevelState) (k : Nat) : (s.updLvl l f).fn k = s.fn k := rfl
@[simp] theorem State.link_updLvl (l : Fin 4) (f : LevelState → LevelState) (k : Nat) : (s.updLvl l f).link k = s.link k := rfl
@[simp] theorem State.core_updJob (l : Fin 4) (f : Job → Job) (k : Nat) : (s.updJob l f).core k = s.core k := rfl
@[simp] theorem State.fn_updJob (l : Fin 4) (f : Job → Job) (k : Nat) : (s.updJob l f).fn k = s.fn k := rfl
@[simp] theorem State.link_updJob (l : Fin 4) (f : Job → Job) (k : Nat) : (s.updJob l f).link k = s.link k := rfl
@[simp] theorem State.core_updEng (l : Fin 4) (e : Nat) (f : EngineState → EngineState) (k : Nat) : (s.updEng l e f).core k = s.core k := rfl
@[simp] theorem State.fn_updEng (l : Fin 4) (e : Nat) (f : EngineState → EngineState) (k : Nat) : (s.updEng l e f).fn k = s.fn k := rfl
@[simp] theorem State.link_updEng (l : Fin 4) (e : Nat) (f : EngineState → EngineState) (k : Nat) : (s.updEng l e f).link k = s.link k := rfl
@[simp] theorem State.lvl_setCore (n : Nat) (x : CoreState) (k : Fin 4) : (s.setCore n x).lvl k = s.lvl k := rfl
@[simp] theorem State.fn_setCore (n : Nat) (x : CoreState) (k : Nat) : (s.setCore n x).fn k = s.fn k := rfl
@[simp] theorem State.link_setCore (n : Nat) (x : CoreState) (k : Nat) : (s.setCore n x).link k = s.link k := rfl
@[simp] theorem State.lvl_updCore (n : Nat) (f : CoreState → CoreState) (k : Fin 4) : (s.updCore n f).lvl k = s.lvl k := rfl
@[simp] theorem State.fn_updCore (n : Nat) (f : CoreState → CoreState) (k : Nat) : (s.updCore n f).fn k = s.fn k := rfl
@[simp] theorem State.link_updCore (n : Nat) (f : CoreState → CoreState) (k : Nat) : (s.updCore n f).link k = s.link k := rfl
@[simp] theorem State.lvl_setFn (n : Nat) (x : Fn) (k : Fin 4) : (s.setFn n x).lvl k = s.lvl k := rfl
@[simp] theorem State.core_setFn (n : Nat) (x : Fn) (k : Nat) : (s.setFn n x).core k = s.core k := rfl
@[simp] theorem State.link_setFn (n : Nat) (x : Fn) (k : Nat) : (s.setFn n x).link k = s.link k := rfl
@[simp] theorem State.lvl_updFn (n : Nat) (f : Fn → Fn) (k : Fin 4) : (s.updFn n f).lvl k = s.lvl k := rfl
@[simp] theorem State.core_updFn (n : Nat) (f : Fn → Fn) (k : Nat) : (s.updFn n f).core k = s.core k := rfl
@[simp] theorem State.link_updFn (n : Nat) (f : Fn → Fn) (k : Nat) : (s.updFn n f).link k = s.link k := rfl
@[simp] theorem State.lvl_setLink (h : Nat) (x : LinkHalf) (k : Fin 4) : (s.setLink h x).lvl k = s.lvl k := rfl
@[simp] theorem State.core_setLink (h : Nat) (x : LinkHalf) (k : Nat) : (s.setLink h x).core k = s.core k := rfl
@[simp] theorem State.fn_setLink (h : Nat) (x : LinkHalf) (k : Nat) : (s.setLink h x).fn k = s.fn k := rfl

/-! ### Parts of a Level -/

@[simp] theorem LevelState.setEng_record (ls : LevelState) (e : Nat) (x : EngineState) : (ls.setEng e x).record = ls.record := rfl
@[simp] theorem LevelState.setEng_image (ls : LevelState) (e : Nat) (x : EngineState) : (ls.setEng e x).image = ls.image := rfl
@[simp] theorem LevelState.setEng_ledgerArea (ls : LevelState) (e : Nat) (x : EngineState) : (ls.setEng e x).ledgerArea = ls.ledgerArea := rfl
@[simp] theorem LevelState.setEng_ledger (ls : LevelState) (e : Nat) (x : EngineState) : (ls.setEng e x).ledger = ls.ledger := rfl
@[simp] theorem LevelState.setEng_invalid (ls : LevelState) (e : Nat) (x : EngineState) : (ls.setEng e x).invalid = ls.invalid := rfl
@[simp] theorem LevelState.setEng_invalidRaised (ls : LevelState) (e : Nat) (x : EngineState) : (ls.setEng e x).invalidRaised = ls.invalidRaised := rfl
@[simp] theorem LevelState.setEng_deferred (ls : LevelState) (e : Nat) (x : EngineState) : (ls.setEng e x).deferred = ls.deferred := rfl
@[simp] theorem LevelState.setEng_tallies (ls : LevelState) (e : Nat) (x : EngineState) : (ls.setEng e x).tallies = ls.tallies := rfl
@[simp] theorem LevelState.setEng_timers (ls : LevelState) (e : Nat) (x : EngineState) : (ls.setEng e x).timers = ls.timers := rfl
@[simp] theorem LevelState.setEng_batches (ls : LevelState) (e : Nat) (x : EngineState) : (ls.setEng e x).batches = ls.batches := rfl
@[simp] theorem LevelState.setEng_requests (ls : LevelState) (e : Nat) (x : EngineState) : (ls.setEng e x).requests = ls.requests := rfl
@[simp] theorem LevelState.setEng_generations (ls : LevelState) (e : Nat) (x : EngineState) : (ls.setEng e x).generations = ls.generations := rfl
@[simp] theorem LevelState.setEng_job (ls : LevelState) (e : Nat) (x : EngineState) : (ls.setEng e x).job = ls.job := rfl
@[simp] theorem LevelState.setEng_graceHeld (ls : LevelState) (e : Nat) (x : EngineState) : (ls.setEng e x).graceHeld = ls.graceHeld := rfl
@[simp] theorem LevelState.setEng_lstep (ls : LevelState) (e : Nat) (x : EngineState) : (ls.setEng e x).lstep = ls.lstep := rfl
@[simp] theorem LevelState.setEng_offset (ls : LevelState) (e : Nat) (x : EngineState) : (ls.setEng e x).offset = ls.offset := rfl
@[simp] theorem LevelState.setEng_slipCount (ls : LevelState) (e : Nat) (x : EngineState) : (ls.setEng e x).slipCount = ls.slipCount := rfl
@[simp] theorem LevelState.setEng_slipMax (ls : LevelState) (e : Nat) (x : EngineState) : (ls.setEng e x).slipMax = ls.slipMax := rfl
@[simp] theorem LevelState.setEng_slipFirst (ls : LevelState) (e : Nat) (x : EngineState) : (ls.setEng e x).slipFirst = ls.slipFirst := rfl
@[simp] theorem LevelState.setEng_log (ls : LevelState) (e : Nat) (x : EngineState) : (ls.setEng e x).log = ls.log := rfl
@[simp] theorem LevelState.setEng_tallyLog (ls : LevelState) (e : Nat) (x : EngineState) : (ls.setEng e x).tallyLog = ls.tallyLog := rfl
@[simp] theorem LevelState.setEng_acct (ls : LevelState) (e : Nat) (x : EngineState) : (ls.setEng e x).acct = ls.acct := rfl
@[simp] theorem LevelState.setEng_handed (ls : LevelState) (e : Nat) (x : EngineState) : (ls.setEng e x).handed = ls.handed := rfl
@[simp] theorem LevelState.setEng_results (ls : LevelState) (e : Nat) (x : EngineState) : (ls.setEng e x).results = ls.results := rfl
@[simp] theorem LevelState.setTally_record (ls : LevelState) (t : Nat) (x : TallyState) : (ls.setTally t x).record = ls.record := rfl
@[simp] theorem LevelState.setTally_image (ls : LevelState) (t : Nat) (x : TallyState) : (ls.setTally t x).image = ls.image := rfl
@[simp] theorem LevelState.setTally_ledgerArea (ls : LevelState) (t : Nat) (x : TallyState) : (ls.setTally t x).ledgerArea = ls.ledgerArea := rfl
@[simp] theorem LevelState.setTally_ledger (ls : LevelState) (t : Nat) (x : TallyState) : (ls.setTally t x).ledger = ls.ledger := rfl
@[simp] theorem LevelState.setTally_invalid (ls : LevelState) (t : Nat) (x : TallyState) : (ls.setTally t x).invalid = ls.invalid := rfl
@[simp] theorem LevelState.setTally_invalidRaised (ls : LevelState) (t : Nat) (x : TallyState) : (ls.setTally t x).invalidRaised = ls.invalidRaised := rfl
@[simp] theorem LevelState.setTally_deferred (ls : LevelState) (t : Nat) (x : TallyState) : (ls.setTally t x).deferred = ls.deferred := rfl
@[simp] theorem LevelState.setTally_timers (ls : LevelState) (t : Nat) (x : TallyState) : (ls.setTally t x).timers = ls.timers := rfl
@[simp] theorem LevelState.setTally_engines (ls : LevelState) (t : Nat) (x : TallyState) : (ls.setTally t x).engines = ls.engines := rfl
@[simp] theorem LevelState.setTally_batches (ls : LevelState) (t : Nat) (x : TallyState) : (ls.setTally t x).batches = ls.batches := rfl
@[simp] theorem LevelState.setTally_requests (ls : LevelState) (t : Nat) (x : TallyState) : (ls.setTally t x).requests = ls.requests := rfl
@[simp] theorem LevelState.setTally_generations (ls : LevelState) (t : Nat) (x : TallyState) : (ls.setTally t x).generations = ls.generations := rfl
@[simp] theorem LevelState.setTally_job (ls : LevelState) (t : Nat) (x : TallyState) : (ls.setTally t x).job = ls.job := rfl
@[simp] theorem LevelState.setTally_graceHeld (ls : LevelState) (t : Nat) (x : TallyState) : (ls.setTally t x).graceHeld = ls.graceHeld := rfl
@[simp] theorem LevelState.setTally_lstep (ls : LevelState) (t : Nat) (x : TallyState) : (ls.setTally t x).lstep = ls.lstep := rfl
@[simp] theorem LevelState.setTally_offset (ls : LevelState) (t : Nat) (x : TallyState) : (ls.setTally t x).offset = ls.offset := rfl
@[simp] theorem LevelState.setTally_slipCount (ls : LevelState) (t : Nat) (x : TallyState) : (ls.setTally t x).slipCount = ls.slipCount := rfl
@[simp] theorem LevelState.setTally_slipMax (ls : LevelState) (t : Nat) (x : TallyState) : (ls.setTally t x).slipMax = ls.slipMax := rfl
@[simp] theorem LevelState.setTally_slipFirst (ls : LevelState) (t : Nat) (x : TallyState) : (ls.setTally t x).slipFirst = ls.slipFirst := rfl
@[simp] theorem LevelState.setTally_log (ls : LevelState) (t : Nat) (x : TallyState) : (ls.setTally t x).log = ls.log := rfl
@[simp] theorem LevelState.setTally_tallyLog (ls : LevelState) (t : Nat) (x : TallyState) : (ls.setTally t x).tallyLog = ls.tallyLog := rfl
@[simp] theorem LevelState.setTally_acct (ls : LevelState) (t : Nat) (x : TallyState) : (ls.setTally t x).acct = ls.acct := rfl
@[simp] theorem LevelState.setTally_handed (ls : LevelState) (t : Nat) (x : TallyState) : (ls.setTally t x).handed = ls.handed := rfl
@[simp] theorem LevelState.setTally_results (ls : LevelState) (t : Nat) (x : TallyState) : (ls.setTally t x).results = ls.results := rfl
@[simp] theorem LevelState.setTimer_record (ls : LevelState) (t : Nat) (x : PhaseTimer) : (ls.setTimer t x).record = ls.record := rfl
@[simp] theorem LevelState.setTimer_image (ls : LevelState) (t : Nat) (x : PhaseTimer) : (ls.setTimer t x).image = ls.image := rfl
@[simp] theorem LevelState.setTimer_ledgerArea (ls : LevelState) (t : Nat) (x : PhaseTimer) : (ls.setTimer t x).ledgerArea = ls.ledgerArea := rfl
@[simp] theorem LevelState.setTimer_ledger (ls : LevelState) (t : Nat) (x : PhaseTimer) : (ls.setTimer t x).ledger = ls.ledger := rfl
@[simp] theorem LevelState.setTimer_invalid (ls : LevelState) (t : Nat) (x : PhaseTimer) : (ls.setTimer t x).invalid = ls.invalid := rfl
@[simp] theorem LevelState.setTimer_invalidRaised (ls : LevelState) (t : Nat) (x : PhaseTimer) : (ls.setTimer t x).invalidRaised = ls.invalidRaised := rfl
@[simp] theorem LevelState.setTimer_deferred (ls : LevelState) (t : Nat) (x : PhaseTimer) : (ls.setTimer t x).deferred = ls.deferred := rfl
@[simp] theorem LevelState.setTimer_tallies (ls : LevelState) (t : Nat) (x : PhaseTimer) : (ls.setTimer t x).tallies = ls.tallies := rfl
@[simp] theorem LevelState.setTimer_engines (ls : LevelState) (t : Nat) (x : PhaseTimer) : (ls.setTimer t x).engines = ls.engines := rfl
@[simp] theorem LevelState.setTimer_batches (ls : LevelState) (t : Nat) (x : PhaseTimer) : (ls.setTimer t x).batches = ls.batches := rfl
@[simp] theorem LevelState.setTimer_requests (ls : LevelState) (t : Nat) (x : PhaseTimer) : (ls.setTimer t x).requests = ls.requests := rfl
@[simp] theorem LevelState.setTimer_generations (ls : LevelState) (t : Nat) (x : PhaseTimer) : (ls.setTimer t x).generations = ls.generations := rfl
@[simp] theorem LevelState.setTimer_job (ls : LevelState) (t : Nat) (x : PhaseTimer) : (ls.setTimer t x).job = ls.job := rfl
@[simp] theorem LevelState.setTimer_graceHeld (ls : LevelState) (t : Nat) (x : PhaseTimer) : (ls.setTimer t x).graceHeld = ls.graceHeld := rfl
@[simp] theorem LevelState.setTimer_lstep (ls : LevelState) (t : Nat) (x : PhaseTimer) : (ls.setTimer t x).lstep = ls.lstep := rfl
@[simp] theorem LevelState.setTimer_offset (ls : LevelState) (t : Nat) (x : PhaseTimer) : (ls.setTimer t x).offset = ls.offset := rfl
@[simp] theorem LevelState.setTimer_slipCount (ls : LevelState) (t : Nat) (x : PhaseTimer) : (ls.setTimer t x).slipCount = ls.slipCount := rfl
@[simp] theorem LevelState.setTimer_slipMax (ls : LevelState) (t : Nat) (x : PhaseTimer) : (ls.setTimer t x).slipMax = ls.slipMax := rfl
@[simp] theorem LevelState.setTimer_slipFirst (ls : LevelState) (t : Nat) (x : PhaseTimer) : (ls.setTimer t x).slipFirst = ls.slipFirst := rfl
@[simp] theorem LevelState.setTimer_log (ls : LevelState) (t : Nat) (x : PhaseTimer) : (ls.setTimer t x).log = ls.log := rfl
@[simp] theorem LevelState.setTimer_tallyLog (ls : LevelState) (t : Nat) (x : PhaseTimer) : (ls.setTimer t x).tallyLog = ls.tallyLog := rfl
@[simp] theorem LevelState.setTimer_acct (ls : LevelState) (t : Nat) (x : PhaseTimer) : (ls.setTimer t x).acct = ls.acct := rfl
@[simp] theorem LevelState.setTimer_handed (ls : LevelState) (t : Nat) (x : PhaseTimer) : (ls.setTimer t x).handed = ls.handed := rfl
@[simp] theorem LevelState.setTimer_results (ls : LevelState) (t : Nat) (x : PhaseTimer) : (ls.setTimer t x).results = ls.results := rfl

@[simp] theorem LevelState.tally_setEng (ls : LevelState) (e : Nat) (x : EngineState) (k : Nat) : (ls.setEng e x).tally k = ls.tally k := rfl
@[simp] theorem LevelState.timer_setEng (ls : LevelState) (e : Nat) (x : EngineState) (k : Nat) : (ls.setEng e x).timer k = ls.timer k := rfl
@[simp] theorem LevelState.eng_setTally (ls : LevelState) (t : Nat) (x : TallyState) (k : Nat) : (ls.setTally t x).eng k = ls.eng k := rfl
@[simp] theorem LevelState.timer_setTally (ls : LevelState) (t : Nat) (x : TallyState) (k : Nat) : (ls.setTally t x).timer k = ls.timer k := rfl
@[simp] theorem LevelState.eng_setTimer (ls : LevelState) (t : Nat) (x : PhaseTimer) (k : Nat) : (ls.setTimer t x).eng k = ls.eng k := rfl
@[simp] theorem LevelState.tally_setTimer (ls : LevelState) (t : Nat) (x : PhaseTimer) (k : Nat) : (ls.setTimer t x).tally k = ls.tally k := rfl

end Sys2Proof.Machine
end

