-- ==== Sys2Proof/Laws/Ops.lean ====
section
/-!
SUPPORT. Laws/Ops.lean: what the shared operations over events, logs, stops, Tallies and memory can do, said once.
-/
namespace Sys2Proof.Machine

/-! ### Noting: events, log entries, stops and containment -/

theorem JobNoted.refl (a : Option Job) : JobNoted a a := by
  cases a with
  | none => exact ⟨false, false, false, rfl⟩
  | some j => exact ⟨j.stopPending, j.contained, j.wrapRaised, rfl⟩

theorem JobNoted.trans {a b c : Option Job} (h : JobNoted a b) (g : JobNoted b c) : JobNoted a c := by
  obtain ⟨_, _, _, rfl⟩ := h
  obtain ⟨p, q, r, rfl⟩ := g
  exact ⟨p, q, r, by cases a <;> rfl⟩

theorem Noted.refl (s : State) : Noted s s := ⟨rfl, fun _ => rfl, fun _ => .refl _, fun _ => rfl⟩

theorem Noted.trans {a b c : State} (h : Noted a b) (g : Noted b c) : Noted a c where
  rest := by rw [g.rest, h.rest]
  lvl k := by rw [g.lvl k, h.lvl k]
  job k := (h.job k).trans (g.job k)
  fn n := by rw [g.fn n, h.fn n]

theorem Noted.foldl {α : Type} (f : State → α → State) (h : ∀ s x, Noted s (f s x)) (xs : List α) (s : State) :
    Noted s (xs.foldl f s) := by
  induction xs generalizing s with
  | nil => exact .refl s
  | cons x xs ih => exact (h s x).trans (ih _)

/-- Changing the log and the job of a Level, the job only in its marks. -/
theorem noted_setLvl (s : State) (l : Fin 4) (x : LevelState) (h : x = { s.lvl l with log := x.log, job := x.job })
    (j : JobNoted (s.lvl l).job x.job) : Noted s (s.setLvl l x) where
  rest := rfl
  lvl k := by
    by_cases hk : k = l
    · subst hk; simpa using h
    · simp [hk]
  job k := by
    by_cases hk : k = l
    · subst hk; simpa using j
    · simp [hk, JobNoted.refl]
  fn n := rfl

theorem State.logPut_noted (s : State) (l : Fin 4) (kind : Nat) (body : List Byte) : Noted s (s.logPut l kind body) := by
  unfold State.logPut
  dsimp only
  split
  · exact noted_setLvl s l _ rfl (.refl _)
  · exact .refl s

theorem State.notify_noted (s : State) (n : Nat) (e : Event) : Noted s (s.updFn n fun f => f.notify e) where
  rest := rfl
  lvl k := rfl
  job k := .refl _
  fn k := by
    by_cases hk : k = n
    · subst hk
      simp only [State.fn_updFn_same]
      unfold Fn.notify
      split
      · rfl
      · split <;> rfl
    · simp [hk]

theorem State.post_noted (s : State) (e : Event) : Noted s (s.post e) := by
  have h1 : Noted s { s with raised := e :: s.raised } := ⟨rfl, fun _ => rfl, fun _ => .refl _, fun _ => rfl⟩
  have h2 := h1.trans (Noted.foldl (fun s l => s.logPut l 0x0D e.logBody) (fun s l => s.logPut_noted l _ _) (eventLogs e.level) _)
  unfold State.post
  dsimp only
  split
  · exact h2
  · exact h2.trans (Noted.foldl _ (fun s n => s.notify_noted n e) _ _)

theorem State.updJob_noted (s : State) (l : Fin 4) (f : Job → Job)
    (h : ∀ j, ∃ p c w, f j = j.marked p c w) :
    Noted s (s.updJob l f) := by
  refine noted_setLvl s l _ rfl ?_
  show JobNoted _ ((s.lvl l).job.map f)
  generalize (s.lvl l).job = a
  cases a with
  | none => exact .refl _
  | some j =>
    obtain ⟨p, c, w, e⟩ := h j
    exact ⟨p, c, w, congrArg some e⟩

theorem State.checkWrap_noted (s : State) (l : Fin 4) : Noted s (s.checkWrap l) := by
  unfold State.checkWrap
  dsimp only
  split
  · split
    · exact (State.updJob_noted s l _ fun _ => ⟨_, _, _, rfl⟩).trans (State.post_noted _ _)
    · exact .refl s
  · exact .refl s

/-- An event enters the list of events raised, the Pit Logs and the notices, and marks a wrapped log; nothing else (R562). -/
theorem State.raise_noted (s : State) (code : Nat) (level : Option (Fin 4)) (unit aux entry a b c : Nat) :
    Noted s (s.raise code level unit aux entry a b c) := by
  exact (s.post_noted _).trans (Noted.foldl _ State.checkWrap_noted _ _)

/-- A Pit Log entry changes the log and may raise EV_LOG_WRAP; nothing else (R461). -/
theorem State.log_noted (s : State) (l : Fin 4) (kind : Nat) (body : List Byte) : Noted s (s.log l kind body) :=
  (s.logPut_noted l kind body).trans (State.checkWrap_noted _ _)

/-- A stop only marks the job (R71). -/
theorem State.stopJob_noted (s : State) (l : Fin 4) : Noted s (s.stopJob l) :=
  State.updJob_noted s l _ fun j => by split <;> exact ⟨_, _, _, rfl⟩

/-- Containment only marks the job (R416). -/
theorem State.contain_noted (s : State) (l : Fin 4) : Noted s (s.contain l) :=
  State.updJob_noted s l _ fun j => by split <;> exact ⟨_, _, _, rfl⟩

/-! ### Events raised -/

@[simp] theorem State.logPut_raised (s : State) (l : Fin 4) (kind : Nat) (body : List Byte) :
    (s.logPut l kind body).raised = s.raised := by
  unfold State.logPut
  dsimp only
  split <;> rfl

theorem State.foldl_raised {α : Type} (f : State → α → State) (h : ∀ s x, (f s x).raised = s.raised) (xs : List α) (s : State) :
    (xs.foldl f s).raised = s.raised := by
  induction xs generalizing s with
  | nil => rfl
  | cons x xs ih => rw [List.foldl_cons, ih, h]

@[simp] theorem State.post_raised (s : State) (e : Event) : (s.post e).raised = e :: s.raised := by
  have h1 : ((eventLogs e.level).foldl (fun s l => State.logPut s l 0x0D e.logBody) { s with raised := e :: s.raised }).raised =
      e :: s.raised := State.foldl_raised _ (fun s l => s.logPut_raised l _ _) _ _
  unfold State.post
  dsimp only
  split
  · exact h1
  · exact (State.foldl_raised (fun s n => State.updFn s n fun f => f.notify e) (fun _ _ => rfl) _ _).trans h1

theorem State.checkWrap_raised (s : State) (l : Fin 4) : ∃ p, (s.checkWrap l).raised = p ++ s.raised := by
  unfold State.checkWrap
  dsimp only
  split
  · split
    · rw [State.post_raised]; exact ⟨[_], rfl⟩
    · exact ⟨[], rfl⟩
  · exact ⟨[], rfl⟩

/-- Raising an event raises it, with the present cadence time (R562). -/
theorem State.raise_raises (s : State) (code : Nat) (level : Option (Fin 4)) (unit aux entry : Nat) (a b c : Nat) :
    Raises s (s.raise code level unit aux entry a b c) (s.event code level unit aux entry a b c) := by
  have wraps : ∀ (ls : List (Fin 4)) (s : State), ∃ p, (ls.foldl State.checkWrap s).raised = p ++ s.raised := fun ls => by
    induction ls with
    | nil => exact fun s => ⟨[], rfl⟩
    | cons l ls ih =>
      intro s
      obtain ⟨p, hp⟩ := s.checkWrap_raised l
      obtain ⟨q, hq⟩ := ih (s.checkWrap l)
      exact ⟨q ++ p, by rw [List.foldl_cons, hq, hp, List.append_assoc]⟩
  obtain ⟨p, h⟩ := wraps (eventLogs level) (s.post (s.event code level unit aux entry a b c))
  exact ⟨[], p, by show (List.foldl State.checkWrap _ _).raised = _; rw [h, State.post_raised]; rfl⟩

/-! Fields that noting leaves as they are. -/

section
variable {s t : State} (h : Noted s t)
include h

theorem Noted.now : t.now = s.now := by rw [h.rest]
theorem Noted.freeCtr : t.freeCtr = s.freeCtr := by rw [h.rest]
theorem Noted.pending : t.pending = s.pending := by rw [h.rest]
theorem Noted.boot : t.boot = s.boot := by rw [h.rest]
theorem Noted.cad : t.cad = s.cad := by rw [h.rest]
theorem Noted.cores : t.cores = s.cores := by rw [h.rest]
theorem Noted.coreMem : t.coreMem = s.coreMem := by rw [h.rest]
theorem Noted.hubMem : t.hubMem = s.hubMem := by rw [h.rest]
theorem Noted.stemMem : t.stemMem = s.stemMem := by rw [h.rest]
theorem Noted.nearMem : t.nearMem = s.nearMem := by rw [h.rest]
theorem Noted.farMem : t.farMem = s.farMem := by rw [h.rest]
theorem Noted.flushes : t.flushes = s.flushes := by rw [h.rest]
theorem Noted.hostMem : t.hostMem = s.hostMem := by rw [h.rest]
theorem Noted.barMem : t.barMem = s.barMem := by rw [h.rest]
theorem Noted.mem : t.mem = s.mem := by rw [h.rest]
theorem Noted.links : t.links = s.links := by rw [h.rest]
theorem Noted.pwr : t.pwr = s.pwr := by rw [h.rest]
theorem Noted.asy : t.asy = s.asy := by rw [h.rest]
theorem Noted.rosterMsg : t.rosterMsg = s.rosterMsg := by rw [h.rest]
theorem Noted.takes : t.takes = s.takes := by rw [h.rest]
theorem Noted.core (n : Nat) : t.core n = s.core n := by unfold State.core; rw [h.cores]
theorem Noted.link (n : Nat) : t.link n = s.link n := by unfold State.link; rw [h.links]
theorem Noted.image (k : Fin 4) : (t.lvl k).image = (s.lvl k).image := by rw [h.lvl k]
theorem Noted.record (k : Fin 4) : (t.lvl k).record = (s.lvl k).record := by rw [h.lvl k]
theorem Noted.engines (k : Fin 4) : (t.lvl k).engines = (s.lvl k).engines := by rw [h.lvl k]
theorem Noted.eng (k : Fin 4) (e : Nat) : (t.lvl k).eng e = (s.lvl k).eng e := by unfold LevelState.eng; rw [h.engines]
theorem Noted.tally (k : Fin 4) (n : Nat) : (t.lvl k).tally n = (s.lvl k).tally n := by
  unfold LevelState.tally; rw [h.lvl k]
theorem Noted.timer (k : Fin 4) (n : Nat) : (t.lvl k).timer n = (s.lvl k).timer n := by
  unfold LevelState.timer; rw [h.lvl k]
theorem Noted.ledger (k : Fin 4) : (t.lvl k).ledger = (s.lvl k).ledger := by rw [h.lvl k]
theorem Noted.taken (n : Nat) : (t.fn n).taken = (s.fn n).taken := by rw [h.fn n]

end

/-! ### Memory -/

/-- What one write leaves as it is: everything but one memory and the failed blocks it heals. -/
theorem State.applyWrite_frame (s : State) (w : Write) :
    s.applyWrite w = { s with
      coreMem := (s.applyWrite w).coreMem, nearMem := (s.applyWrite w).nearMem, hubMem := (s.applyWrite w).hubMem,
      farMem := (s.applyWrite w).farMem, mem := (s.applyWrite w).mem } := by
  unfold State.applyWrite
  split
  all_goals first | rfl | (split <;> rfl)

theorem State.applyWrites_frame (s : State) (ws : List Write) :
    s.applyWrites ws = { s with
      coreMem := (s.applyWrites ws).coreMem, nearMem := (s.applyWrites ws).nearMem, hubMem := (s.applyWrites ws).hubMem,
      farMem := (s.applyWrites ws).farMem, mem := (s.applyWrites ws).mem } := by
  unfold State.applyWrites
  induction ws generalizing s with
  | nil => rfl
  | cons w ws ih => rw [List.foldl_cons, ih, s.applyWrite_frame w]

end Sys2Proof.Machine
end

