-- ==== Sys2Proof/Laws/Launch.lean ====
section
/-!
SUPPORT. Laws/Launch.lean: what a dispatch, a command's beginning and its reports can do, said once.
-/
namespace Sys2Proof.Machine

/-! ### Noting inside one Level -/

theorem NotedIn.refl (l : Fin 4) (s : State) : NotedIn l s s := ⟨.refl s, fun _ _ => rfl⟩

theorem NotedIn.trans {l : Fin 4} {a b c : State} (h : NotedIn l a b) (g : NotedIn l b c) : NotedIn l a c :=
  ⟨h.toNoted.trans g.toNoted, fun k hk => by rw [g.others k hk, h.others k hk]⟩

theorem NotedIn.foldl {α : Type} {l : Fin 4} (f : State → α → State) (h : ∀ s x, NotedIn l s (f s x)) (xs : List α) (s : State) :
    NotedIn l s (xs.foldl f s) := by
  induction xs generalizing s with
  | nil => exact .refl l s
  | cons x xs ih => exact (h s x).trans (ih _)

theorem State.logPut_notedIn (s : State) (l : Fin 4) (kind : Nat) (body : List Byte) : NotedIn l s (s.logPut l kind body) := by
  refine ⟨s.logPut_noted l kind body, fun k hk => ?_⟩
  unfold State.logPut
  dsimp only
  split
  · simp [hk]
  · rfl

theorem State.updJob_notedIn (s : State) (l : Fin 4) (f : Job → Job) (h : ∀ j, ∃ p c w, f j = j.marked p c w) :
    NotedIn l s (s.updJob l f) :=
  ⟨s.updJob_noted l f h, fun k hk => by simp [State.updJob, State.updLvl, hk]⟩

theorem State.notify_fold_lvl (e : Event) (ns : List Nat) (s : State) (k : Fin 4) :
    (ns.foldl (fun s n => State.updFn s n fun f => f.notify e) s).lvl k = s.lvl k := by
  induction ns generalizing s with
  | nil => rfl
  | cons n ns ih => rw [List.foldl_cons, ih]; rfl

theorem State.post_notedIn (s : State) (l : Fin 4) (e : Event) (h : e.level = some l) : NotedIn l s (s.post e) := by
  refine ⟨s.post_noted e, fun k hk => ?_⟩
  have h1 : (((eventLogs e.level).foldl (fun s l => State.logPut s l 0x0D e.logBody) { s with raised := e :: s.raised }).lvl k) = s.lvl k := by
    rw [h]
    exact (State.logPut_notedIn { s with raised := e :: s.raised } l _ _).others k hk
  unfold State.post
  dsimp only
  split
  · exact h1
  · rw [State.notify_fold_lvl]; exact h1

theorem State.checkWrap_notedIn (s : State) (l : Fin 4) : NotedIn l s (s.checkWrap l) := by
  unfold State.checkWrap
  dsimp only
  split
  · split
    · exact (State.updJob_notedIn s l _ fun _ => ⟨_, _, _, rfl⟩).trans (State.post_notedIn _ l _ rfl)
    · exact .refl l s
  · exact .refl l s

theorem State.raise_notedIn (s : State) (code : Nat) (l : Fin 4) (unit aux entry : Nat) (a b c : Nat) :
    NotedIn l s (s.raise code (some l) unit aux entry a b c) :=
  (s.post_notedIn l _ rfl).trans (State.checkWrap_notedIn _ l)

theorem State.log_notedIn (s : State) (l : Fin 4) (kind : Nat) (body : List Byte) : NotedIn l s (s.log l kind body) :=
  (s.logPut_notedIn l kind body).trans (State.checkWrap_notedIn _ l)

theorem State.stopJob_notedIn (s : State) (l : Fin 4) : NotedIn l s (s.stopJob l) :=
  State.updJob_notedIn s l _ fun j => by split <;> exact ⟨_, _, _, rfl⟩

theorem State.contain_notedIn (s : State) (l : Fin 4) : NotedIn l s (s.contain l) :=
  State.updJob_notedIn s l _ fun j => by split <;> exact ⟨_, _, _, rfl⟩

theorem State.invalidDesc_notedIn (s : State) (c : Cmd) : NotedIn c.lvl s (s.invalidDesc c) :=
  (s.raise_notedIn _ c.lvl _ _ _ _ _ _).trans (State.stopJob_notedIn _ c.lvl)

theorem State.reportFarIn_notedIn (s : State) (ws : List FarWindow) (c : Cmd) (a : Acc) : NotedIn c.lvl s (s.reportFarIn ws c a) := by
  unfold State.reportFarIn
  refine NotedIn.foldl _ (fun s x => ?_) _ _
  split <;> exact (s.raise_notedIn _ c.lvl _ _ _ _ _ _).trans (State.contain_notedIn _ c.lvl)

theorem State.reportFailures_notedIn (s : State) (c : Cmd) (a : Acc) : NotedIn c.lvl s (s.reportFailures c a) := by
  unfold State.reportFailures
  dsimp only
  refine (((s.reportFarIn_notedIn _ c a).trans (NotedIn.foldl _ (fun s x => ?_) _ _)).trans (NotedIn.foldl _ (fun s x => ?_) _ _)).trans
    (NotedIn.foldl _ (fun s x => ?_) _ _) <;>
  exact (s.raise_notedIn _ c.lvl _ _ _ _ _ _).trans (State.contain_notedIn _ c.lvl)

theorem State.reportRefused_notedIn (s : State) (c : Cmd) (a : Acc) : NotedIn c.lvl s (s.reportRefused c a) := by
  have h (s : State) (o : Option Nat) (code : Nat) : NotedIn c.lvl s (match o with
      | some x => (s.raise code (some c.lvl) c.eng 0 c.entry x).stopJob c.lvl
      | none => s) := by
    cases o with
    | none => exact .refl _ _
    | some x => exact (s.raise_notedIn _ c.lvl _ _ _ _ _ _).trans (State.stopJob_notedIn _ c.lvl)
  unfold State.reportRefused
  dsimp only
  have h3 := ((h s a.nearBad 0x3011).trans (h _ a.farBad 0x3012)).trans (h _ a.frozenBad 0x3013)
  split
  · exact h3
  · exact h3.trans (State.stopJob_notedIn _ c.lvl)

theorem State.storeBounds_notedIn (s : State) (l : Fin 4) (eng entry : Nat) (refused : List Nat) :
    NotedIn l s (s.storeBounds l eng entry refused) := by
  unfold State.storeBounds
  split
  · exact .refl l s
  · exact (s.raise_notedIn _ l _ _ _ _ _ _).trans (State.stopJob_notedIn _ l)

/-! ### Dispatches -/

/-- Noting in the Level after a dispatch is part of the dispatch. -/
theorem Dispatches.noted {s t u : State} {l : Fin 4} {r : Ready} {add : List Running} (h : Dispatches s t l r add)
    (g : NotedIn l t u) : Dispatches s u l r add where
  rest := by rw [g.rest, h.rest]
  others k hk := by rw [g.others k hk, h.others k hk]
  level := by rw [g.lvl l, h.level]
  job := h.job.trans (g.job l)
  fn n := by rw [g.fn n, h.fn n]
  engines k hk := by rw [g.toNoted.eng, h.engines k hk]
  engine := by rw [g.toNoted.eng]; exact h.engine
  tally n := by rw [g.toNoted.tally, h.tally n]

/-- Changing, after a dispatch, the slip registers of the Level and the commands and the slip mark of the engine. -/
theorem Dispatches.setLvl {s t : State} {l : Fin 4} {r : Ready} {add : List Running} (h : Dispatches s t l r add)
    (x : LevelState) (new : List Running)
    (hx : x = { t.lvl l with engines := x.engines, slipCount := x.slipCount, slipMax := x.slipMax, slipFirst := x.slipFirst })
    (hg : ∀ g, g ≠ r.en.engine → x.eng g = (t.lvl l).eng g)
    (he : ∃ slip, x.eng r.en.engine = { (t.lvl l).eng r.en.engine with
      running := ((t.lvl l).eng r.en.engine).running ++ new, slipCycle := slip }) :
    Dispatches s (t.setLvl l x) l r (add ++ new) where
  rest := by rw [State.setLvl, h.rest]
  others k hk := by simp [hk, h.others k hk]
  level := by rw [State.lvl_setLvl_same, hx, h.level]
  job := by rw [State.lvl_setLvl_same, hx]; exact h.job
  fn := h.fn
  engines g hk := by rw [State.lvl_setLvl_same, hg g hk, h.engines g hk]
  engine := by
    obtain ⟨a, ha⟩ := he
    obtain ⟨b, hb⟩ := h.engine
    exact ⟨a, by rw [State.lvl_setLvl_same, ha, hb]; simp⟩
  tally n := by rw [State.lvl_setLvl_same, LevelState.tally, hx]; exact h.tally n

/-- Slip beyond a budget changes the slip registers, the engine's mark, and what noting changes. -/
theorem Dispatches.slip {s t : State} {l : Fin 4} {r : Ready} {add : List Running} (h : Dispatches s t l r add)
    (entry slip : Nat) : Dispatches s (t.slipBeyond l r.en.engine entry slip) l r add := by
  have h1 : ∀ a b c, Dispatches s (t.setLvl l { t.lvl l with slipCount := a, slipMax := b, slipFirst := c }) l r add :=
    fun a b c => by
      have := h.setLvl { t.lvl l with slipCount := a, slipMax := b, slipFirst := c } [] rfl (fun _ _ => rfl)
        (Exists.intro ((t.lvl l).eng r.en.engine).slipCycle (by rw [List.append_nil]; rfl))
      simpa using this
  unfold State.slipBeyond
  dsimp only
  split
  · exact h1 _ _ _
  · refine Dispatches.noted ?_ (State.raise_notedIn _ _ l _ _ _ _ _ _)
    have h2 := (h1 (satInc32 (t.lvl l).slipCount)
      (BitVec.ofNat 32 (min (2 ^ 32 - 1) (max (t.lvl l).slipMax.toNat slip))) ((t.lvl l).slipFirst <|> some entry))
    generalize hu : t.setLvl l _ = u at h2 ⊢
    have h3 := h2.setLvl ((u.lvl l).setEng r.en.engine { (u.lvl l).eng r.en.engine with slipCycle := u.cad.ordinal + 1 }) []
      rfl (fun g hg => by simp [hg]) ⟨u.cad.ordinal + 1, by simp⟩
    rw [List.append_nil] at h3
    exact h3

/-- The bookkeeping of a dispatch. -/
theorem State.dispatched_dispatches (s : State) (l : Fin 4) (e : Nat) (r : Ready) :
    Dispatches s (s.dispatched l e r) l r [] := by
  have h1 : ∀ u : State, u = { s with levels := u.levels } → (∀ k, k ≠ l → u.lvl k = s.lvl k) →
      u.lvl l = { s.lvl l with engines := (u.lvl l).engines, tallies := (u.lvl l).tallies } →
      (∀ g, g ≠ r.en.engine → (u.lvl l).eng g = (s.lvl l).eng g) →
      (u.lvl l).eng r.en.engine = { (s.lvl l).eng r.en.engine with
        dispatched := tabPut 0 ((s.lvl l).eng r.en.engine).dispatched r.ctx
          (tabGet 0 ((s.lvl l).eng r.en.engine).dispatched r.ctx + 1) } →
      (∀ n, (u.lvl l).tally n = r.tallyAfter (s.lvl l) n) → Dispatches s u l r [] := by
    intro u hu hk hx hg he ht
    refine ⟨by rw [hu], hk, by rw [hx], by rw [hx]; exact .refl _, fun n => ?_, hg, ⟨_, by rw [he, List.append_nil]⟩, ht⟩
    have : u.fn n = s.fn n := by unfold State.fn; rw [hu]
    rw [this]
  unfold State.dispatched
  dsimp only
  have h2 : Dispatches s
      (if r.en.waitTally = true then
        (s.updEng l r.en.engine fun st => { st with dispatched := tabPut 0 st.dispatched r.ctx (tabGet 0 st.dispatched r.ctx + 1) }).updLvl l
          fun ls => ls.tallyConsume r.en.tally
      else s.updEng l r.en.engine fun st => { st with dispatched := tabPut 0 st.dispatched r.ctx (tabGet 0 st.dispatched r.ctx + 1) })
      l r [] := by
    split
    · rename_i hw
      have hc : ∀ ls : LevelState, ls.tallyConsume r.en.tally = { ls with tallies := (ls.tallyConsume r.en.tally).tallies } := by
        intro ls; unfold LevelState.tallyConsume; dsimp only; split <;> rfl
      refine h1 _ rfl (fun k hk => by simp [State.updEng, hk]) ?_ (fun g hg => ?_) ?_ (fun n => ?_)
      · rw [State.lvl_updLvl_same, hc]; simp [State.updEng, LevelState.setEng]
      · rw [State.lvl_updLvl_same, hc]; simp [State.updEng, hg, LevelState.eng, LevelState.setEng]
      · rw [State.lvl_updLvl_same, hc]; simp [State.updEng, LevelState.eng, LevelState.setEng]
      · rw [State.lvl_updLvl_same]
        unfold LevelState.tallyConsume Ready.tallyAfter
        simp only [State.updEng, State.lvl_updLvl_same, hw, LevelState.tally_setEng, true_and]
        by_cases hl : ((s.lvl l).tally r.en.tally).level = true
        · rw [if_pos hl]
          by_cases hn : n = r.en.tally
          · subst hn; simp [hl]
          · simp [hn]
        · rw [if_neg hl]
          by_cases hn : n = r.en.tally
          · subst hn; simp at hl; simp [hl]
          · simp [hn]
    · rename_i hw
      refine h1 _ rfl (fun k hk => by simp [State.updEng, hk]) ?_ (fun g hg => by simp [State.updEng, hg]) (by simp [State.updEng])
        (fun n => by simp [State.updEng, Ready.tallyAfter, hw])
      simp [State.updEng, LevelState.setEng]
  split
  · exact h2.slip e r.slip
  · exact h2

/-- A command that begins joins the commands of its engine. -/
theorem Dispatches.launch {s t : State} {l : Fin 4} {r : Ready} (h : Dispatches s t l r []) (c : Cmd)
    (a : Acc) (contribs : List Contribution) (after : After) (arrays issued : Nat) (hl : c.lvl = l) (he : c.eng = r.en.engine) :
    Dispatches s (t.launch c a contribs after arrays issued) l r
      [{ runningOf t c a contribs after with arrays := arrays, issued := issued }] := by
  subst hl
  unfold State.launch
  dsimp only
  refine Dispatches.noted (Dispatches.noted ?_ (State.reportFailures_notedIn _ c a)) (State.reportRefused_notedIn _ c a)
  rw [he]
  exact h.setLvl _ _ rfl (fun g hg => by simp [hg]) ⟨((t.lvl c.lvl).eng r.en.engine).slipCycle, by simp⟩

/-! ### What reads depend on -/

/-- Reading a core store depends on the stores, the failed blocks, the shares and the chute ranges alone. -/
theorem readCore_congr (s t : State) (c : Cmd) (hm : t.coreMem = s.coreMem) (hf : t.mem = s.mem)
    (hs : t.shares c.lvl = s.shares c.lvl) (hc : t.chutes c.lvl = s.chutes c.lvl) (a : Acc) (core addr n : Nat) (stage : Bool) :
    readCore t c a core addr n stage = readCore s c a core addr n stage := by
  unfold readCore
  rw [hm, hf, hs, hc]

/-- Noting leaves a job's shares, chute ranges and windows as they are. -/
theorem shares_noted (s t : State) (l : Fin 4) (h : JobNoted (s.lvl l).job (t.lvl l).job) :
    t.shares l = s.shares l ∧ t.chutes l = s.chutes l ∧ t.windows l = s.windows l := by
  unfold State.shares State.chutes State.windows
  obtain ⟨_, _, _, h⟩ := h
  rw [h]
  cases (s.lvl l).job <;> exact ⟨rfl, rfl, rfl⟩

end Sys2Proof.Machine
end

