-- ==== Sys2Proof/Laws/Cadence.lean ====
section
/-!
SUPPORT. Laws/Cadence.lean: what a cycle boundary and the end of a reference cycle can do, said once.
-/
namespace Sys2Proof.Machine

/-- `t` differs from `s` at most in the cadence, the clock, events, notices and logs, and each Level's job, offset and step, the
cycle's counts and what each command of an engine has been charged. -/
structure Bounded (s t : State) : Prop where
  rest : t = { s with cad := t.cad, levels := t.levels, raised := t.raised, fns := t.fns, now := t.now }
  lvl : ∀ l, t.lvl l = { s.lvl l with
    job := (t.lvl l).job, offset := (t.lvl l).offset, lstep := (t.lvl l).lstep, log := (t.lvl l).log,
    acct := (t.lvl l).acct, frame := (t.lvl l).frame, engines := (t.lvl l).engines, switchWork := (t.lvl l).switchWork }

theorem Bounded.refl (s : State) : Bounded s s := ⟨rfl, fun _ => rfl⟩

theorem Bounded.trans {a b c : State} (h : Bounded a b) (g : Bounded b c) : Bounded a c :=
  ⟨by rw [g.rest, h.rest], fun l => by rw [g.lvl l, h.lvl l]⟩

theorem Noted.bounded {a b : State} (g : Noted a b) : Bounded a b := ⟨by rw [g.rest], fun l => by rw [g.lvl l]⟩

theorem Bounded.foldl {α : Type} (f : State → α → State) (h : ∀ s x, Bounded s (f s x)) (xs : List α) (s : State) :
    Bounded s (xs.foldl f s) := by
  induction xs generalizing s with
  | nil => exact .refl s
  | cons x xs ih => exact (h s x).trans (ih _)

/-- A Level at a boundary changes its job, its offset and its step. -/
theorem LevelState.boundary_frame (ls : LevelState) (cad : Cadence) (a b c : Bool) :
    ls.boundary cad a b c = { ls with
      job := (ls.boundary cad a b c).job, offset := (ls.boundary cad a b c).offset, lstep := (ls.boundary cad a b c).lstep } := by
  unfold LevelState.boundary
  split
  · dsimp only
    split
    · split <;> rfl
    · split
      · rfl
      · split <;> rfl
    · rfl
    · rfl
  · rfl

/-- What is counted of a cycle is charged in the engines, and nothing else of the Level changes. -/
theorem LevelState.countCycle_frame (ls : LevelState) (t : Nat) :
    ls.countCycle t = { ls with
      acct := (ls.countCycle t).acct, frame := (ls.countCycle t).frame, engines := (ls.countCycle t).engines,
      switchWork := (ls.countCycle t).switchWork } := rfl

theorem State.updLvl_bounded (s : State) (l : Fin 4) (f : LevelState → LevelState)
    (h : ∀ ls, f ls = { ls with
      job := (f ls).job, offset := (f ls).offset, lstep := (f ls).lstep, acct := (f ls).acct, frame := (f ls).frame,
      engines := (f ls).engines, switchWork := (f ls).switchWork }) :
    Bounded s (s.updLvl l f) := by
  refine ⟨rfl, fun k => ?_⟩
  by_cases hk : k = l
  · subst hk; rw [State.lvl_updLvl_same, h]
  · rw [State.lvl_updLvl_ne _ _ hk]

/-- A fold over the Levels keeps what each of its parts keeps. -/
theorem foldl_keeps {α β : Type} (p : State → β) (f : State → α → State) (h : ∀ s x, p (f s x) = p s) (xs : List α) (s : State) :
    p (xs.foldl f s) = p s := by
  induction xs generalizing s with
  | nil => rfl
  | cons x xs ih => rw [List.foldl_cons, ih, h]

/-- Entering a cycle in the logs is noting. -/
theorem State.logCycle_noted (s : State) (body : List Byte) : Noted s (s.logCycle body) :=
  Noted.foldl _ (fun s l => s.log_noted l 3 _) _ s

/-- The functions after a boundary: the messages taken that start a job learn of it. -/
def fnsAtBoundary (fns : Tab Fn) (cad : Cadence) (c : Bool) : Tab Fn :=
  fns.map fun f => (f.1, { f.2 with taken := f.2.taken.map fun t => t.atBoundary cad c })

/-- A boundary changes the cadence, then every Level. -/
theorem State.boundary_eq (s : State) (t early : Nat) (number : BitVec 64) (a b c : Bool) :
    s.boundary t early number a b c =
      (List.finRange 4).foldl (fun u l => State.updLvl u l fun ls => (ls.countCycle t).boundary (s.cad.begun t early number) a b c)
        { s with cad := s.cad.begun t early number, fns := fnsAtBoundary s.fns (s.cad.begun t early number) c } := rfl

/-- A fold over the Levels changes each once. -/
theorem State.foldl_updLvl (f : LevelState → LevelState) (ls : List (Fin 4)) (h : ls.Nodup) (s : State) (k : Fin 4) :
    (ls.foldl (fun u l => State.updLvl u l f) s).lvl k = if k ∈ ls then f (s.lvl k) else s.lvl k := by
  induction ls generalizing s with
  | nil => rfl
  | cons l ls ih =>
    rw [List.foldl_cons, ih (List.nodup_cons.mp h).2]
    by_cases hk : k = l
    · subst hk
      simp [(List.nodup_cons.mp h).1]
    · simp [hk, State.lvl_updLvl_ne _ _ hk]

/-- Each Level after a boundary is its own boundary, after the counts of the cycle (R43, R51). -/
theorem State.boundary_lvl (s : State) (t early : Nat) (number : BitVec 64) (a b c : Bool) (l : Fin 4) :
    (s.boundary t early number a b c).lvl l = ((s.lvl l).countCycle t).boundary (s.cad.begun t early number) a b c := by
  rw [s.boundary_eq, State.foldl_updLvl _ _ (by decide), if_pos (List.mem_finRange l)]
  rfl

theorem State.boundary_bounded (s : State) (t early : Nat) (number : BitVec 64) (a b c : Bool) :
    Bounded s (s.boundary t early number a b c) := by
  have h1 : Bounded s { s with cad := s.cad.begun t early number, fns := fnsAtBoundary s.fns (s.cad.begun t early number) c } :=
    ⟨rfl, fun _ => rfl⟩
  rw [s.boundary_eq]
  refine h1.trans (Bounded.foldl _ (fun s l => s.updLvl_bounded l _ fun ls => ?_) _ _)
  rw [LevelState.boundary_frame, LevelState.countCycle_frame]

theorem State.boundary_cad (s : State) (t early : Nat) (number : BitVec 64) (a b c : Bool) :
    (s.boundary t early number a b c).cad = s.cad.begun t early number := by
  rw [s.boundary_eq]
  exact foldl_keeps State.cad
    (fun u l => State.updLvl u l fun ls => (ls.countCycle t).boundary (s.cad.begun t early number) a b c) (fun _ _ => rfl) _ _

theorem State.boundary_now (s : State) (t early : Nat) (number : BitVec 64) (a b c : Bool) :
    (s.boundary t early number a b c).now = s.now := by
  rw [s.boundary_eq]
  exact foldl_keeps State.now
    (fun u l => State.updLvl u l fun ls => (ls.countCycle t).boundary (s.cad.begun t early number) a b c) (fun _ _ => rfl) _ _

theorem State.asOf_cad (s : State) (t : Nat) (f : State → State) : (s.asOf t f).cad = (f { s with now := t }).cad := rfl

/-- What is done as of another time differs as it would at that time, but for the clock. -/
theorem State.asOf_bounded (s : State) (t : Nat) (f : State → State) (h : Bounded { s with now := t } (f { s with now := t })) :
    Bounded s (s.asOf t f) ∧ (s.asOf t f).now = s.now := by
  unfold State.asOf
  generalize f { s with now := t } = u at h
  refine ⟨⟨?_, fun l => h.lvl l⟩, rfl⟩
  dsimp only
  rw [h.rest]

/-- Events that may be raised after a boundary. -/
theorem State.raiseIf_noted (s : State) (c : Bool) (code a b : Nat) :
    Noted s (if c = true then s.raise code none 0 0 0 a b else s) := by
  split
  · exact s.raise_noted _ _ _ _ _ _ _ _
  · exact .refl s

theorem State.raiseUnless_noted (s : State) (c : Bool) (code a b : Nat) :
    Noted s (if c = true then s else s.raise code none 0 0 0 a b) := by
  split
  · exact .refl s
  · exact s.raise_noted _ _ _ _ _ _ _ _

/-- The end of a cycle while LOCKED: the log, the boundary, and the events of the boundary, which are noted. -/
theorem State.lockedEnd_noted (s : State) (t : Nat) (edge cons : Bool) : ∃ (u v : State) (n : BitVec 64) (a b c short : Bool) (from_ : Nat),
    Noted s u ∧ v = State.boundary { u with cad := s.cad.lockedEnd t edge cons } t 0 n a b c ∧
      n = ((s.cad.judge t edge cons).word.map CycleWord.number).getD (s.cad.number + 1) ∧
      short = (edge && decide (s.cad.angleAt t < 0xFFFF)) ∧ from_ = s.cad.angleAt t ∧
      Noted { v with cad := { v.cad with compressed := short, compressedFrom := from_ } } (s.lockedEnd t edge cons) := by
  unfold State.lockedEnd
  dsimp only
  exact ⟨_, _, _, _, _, _, _, _, s.logCycle_noted _, rfl, rfl, rfl, rfl,
    ((State.raiseUnless_noted _ _ _ _ _).trans (State.raiseIf_noted _ _ _ _ _)).trans
      ((State.raiseIf_noted _ _ _ _ _).trans (State.raiseIf_noted _ _ _ _ _))⟩

/-- The end of a cycle while LOCKED is a boundary. -/
theorem State.lockedEnd_bounded (s : State) (t : Nat) (edge cons : Bool) : Bounded s (s.lockedEnd t edge cons) := by
  obtain ⟨u, v, n, a, b, c, short, from_, h, hv, -, -, -, g⟩ := s.lockedEnd_noted t edge cons
  have h1 : Bounded u { u with cad := s.cad.lockedEnd t edge cons } := ⟨rfl, fun _ => rfl⟩
  have h2 := (h.bounded.trans h1).trans (State.boundary_bounded { u with cad := s.cad.lockedEnd t edge cons } t 0 n a b c)
  rw [← hv] at h2
  have h3 : Bounded v { v with cad := { v.cad with compressed := short, compressedFrom := from_ } } := ⟨rfl, fun _ => rfl⟩
  exact (h2.trans h3).trans g.bounded

theorem State.lockedEnd_now (s : State) (t : Nat) (edge cons : Bool) : (s.lockedEnd t edge cons).now = s.now := by
  obtain ⟨u, v, n, a, b, c, short, from_, h, hv, -, -, -, g⟩ := s.lockedEnd_noted t edge cons
  rw [g.now]
  show v.now = s.now
  rw [hv, State.boundary_now]
  exact h.now

/-- The cadence that it leaves. -/
theorem State.lockedEnd_cad (s : State) (t : Nat) (edge cons : Bool) :
    (s.lockedEnd t edge cons).cad = { (s.cad.lockedEnd t edge cons).begun t 0
        (((s.cad.judge t edge cons).word.map CycleWord.number).getD (s.cad.number + 1)) with
      compressed := edge && decide (s.cad.angleAt t < 0xFFFF), compressedFrom := s.cad.angleAt t } := by
  obtain ⟨u, v, n, a, b, c, short, from_, h, hv, hn, hs, hf, g⟩ := s.lockedEnd_noted t edge cons
  rw [g.cad]
  show { v.cad with compressed := short, compressedFrom := from_ } = _
  rw [hv, State.boundary_cad, hn, hs, hf]

end Sys2Proof.Machine
end

