-- ==== Sys2Proof/Laws/Ledger.lean ====
section
/-!
SUPPORT. Laws/Ledger.lean: what the application of a contribution, the closing of a record and the abandonment of a command can
change, said once.
-/
namespace Sys2Proof.Machine

theorem Recorded.refl (l : Fin 4) (s : State) : Recorded l s s where
  rest := rfl
  others _ _ := rfl
  level := rfl
  job := by
    cases h : (s.lvl l).job with
    | none => exact ⟨false, false, false, false, none, rfl⟩
    | some j => exact ⟨j.stopPending, j.contained, j.wrapRaised, j.rangeRaised, j.replay, rfl⟩
  fn _ := rfl
  near _ _ := rfl
  failed _ _ := .rfl

theorem Recorded.trans {l : Fin 4} {a b c : State} (h : Recorded l a b) (g : Recorded l b c) : Recorded l a c where
  rest := by
    have := g.rest
    rw [h.rest] at this
    exact this
  others k hk := by rw [g.others k hk, h.others k hk]
  level := by rw [g.level, h.level]
  job := by
    obtain ⟨_, _, _, _, _, e⟩ := h.job
    obtain ⟨p, c, w, x, r, f⟩ := g.job
    exact ⟨p, c, w, x, r, by rw [f, e]; cases (a.lvl l).job <;> rfl⟩
  fn n := by rw [g.fn n, h.fn n]
  near x hx := by
    rw [g.near x (by rw [h.level]; exact hx), h.near x hx]
  failed x hx := (g.failed x (by rw [h.level]; exact hx)).trans (h.failed x hx)

theorem Recorded.foldl {α : Type} {l : Fin 4} (f : State → α → State) (h : ∀ s x, Recorded l s (f s x)) (xs : List α) (s : State) :
    Recorded l s (xs.foldl f s) := by
  induction xs generalizing s with
  | nil => exact .refl l s
  | cons x xs ih => exact (h s x).trans (ih _)

/-- Noting in the Level is part of what may be recorded. -/
theorem NotedIn.recorded {l : Fin 4} {s t : State} (h : NotedIn l s t) : Recorded l s t where
  rest := by rw [h.rest]
  others := h.others
  level := by rw [h.lvl l]
  job := by
    obtain ⟨p, c, w, e⟩ := h.job l
    cases hj : (s.lvl l).job with
    | none => exact ⟨false, false, false, false, none, by rw [e, hj]; rfl⟩
    | some j => exact ⟨p, c, w, j.rangeRaised, j.replay, by rw [e, hj]; rfl⟩
  fn := h.fn
  near a _ := by rw [h.rest]
  failed _ _ := by rw [h.rest]

/-- Changing of a Level what recording may change. -/
theorem Recorded.updLvl (s : State) (l : Fin 4) (f : LevelState → LevelState)
    (h : ∀ ls, f ls = { ls with
      ledger := (f ls).ledger, deferred := (f ls).deferred, invalid := (f ls).invalid, invalidRaised := (f ls).invalidRaised,
      job := (f ls).job })
    (j : ∀ ls, ∃ p c w g r, (f ls).job = ls.job.map fun j => { j.marked p c w with rangeRaised := g, replay := r }) :
    Recorded l s (s.updLvl l f) where
  rest := rfl
  others k hk := by simp [hk]
  level := by rw [State.lvl_updLvl_same, h]
  job := by rw [State.lvl_updLvl_same]; exact j _
  fn _ := rfl
  near _ _ := rfl
  failed _ _ := .rfl

/-- A Level's job as it is. -/
theorem job_kept (a : Option Job) :
    ∃ p c w g r, a = a.map fun j => { j.marked p c w with rangeRaised := g, replay := r } := by
  cases a with
  | none => exact ⟨false, false, false, false, none, rfl⟩
  | some j => exact ⟨j.stopPending, j.contained, j.wrapRaised, j.rangeRaised, j.replay, rfl⟩

/-- Changing only what a job has reported. -/
theorem Recorded.updJob (s : State) (l : Fin 4) (f : Job → Job) (h : ∀ j, ∃ g r, f j = { j with rangeRaised := g, replay := r }) :
    Recorded l s (s.updJob l f) := by
  refine Recorded.updLvl s l _ (fun _ => rfl) fun ls => ?_
  show ∃ p c w g r, ls.job.map f = _
  cases ls.job with
  | none => exact ⟨false, false, false, false, none, rfl⟩
  | some j =>
    obtain ⟨g, r, e⟩ := h j
    exact ⟨j.stopPending, j.contained, j.wrapRaised, g, r, congrArg some e⟩

theorem coordBytes_length (o : Option (Coord × Nat × Nat)) : (coordBytes o).length = 32 := by
  cases o <;> simp only [coordBytes, List.length_append, List.length_replicate, leBytes_length]

theorem LedgerRecord.bytes_length (r : LedgerRecord) (t : Nat) : (r.bytes t).length = 2048 := by
  unfold LedgerRecord.bytes LedgerRecord.body
  simp only [List.length_append, List.length_replicate, leBytes_length,
    length_flatMap_range _ 8 _ fun _ => leBytes_length 8 _, length_flatMap_range _ 4 _ fun _ => leBytes_length 4 _,
    length_flatMap_range _ 32 _ fun _ => coordBytes_length _]

/-- A record that the ledger area has room for stands there (R185). -/
theorem State.putRecord_recorded (s : State) (l : Fin 4) (t : Nat) (r : LedgerRecord)
    (h : ∀ base n, (s.lvl l).ledgerArea = some (base, n) → t < n) : Recorded l s (s.putRecord l t r) := by
  have h1 : Recorded l s (s.setLvl l { s.lvl l with ledger := tabPut .fresh (s.lvl l).ledger t r }) :=
    Recorded.updLvl s l (fun ls => { ls with ledger := tabPut .fresh ls.ledger t r }) (fun _ => rfl) fun ls => job_kept ls.job
  unfold State.putRecord
  dsimp only
  split
  · rename_i base n ha
    have ht := h base n ha
    have hb := r.bytes_length t
    generalize r.bytes t = bs at hb
    exact ⟨rfl, h1.others, h1.level, h1.job, h1.fn, fun a ha' => memGet_write_outside _ _ _ _ (by
      rcases ha' base n ha with h2 | h2 <;> omega), fun b hb' => by
        show b ∈ healRange _ _ _ ↔ _
        simp only [healRange, List.mem_filter, State.setLvl, Bool.not_eq_true', Bool.and_eq_false_iff, decide_eq_false_iff_not,
          and_iff_left_iff_imp]
        rcases hb' base n ha with h2 | h2 <;> omega⟩
  · exact h1

theorem State.replayDiverged_recorded (s : State) (l : Fin 4) (step kind what : Nat) :
    Recorded l s (s.replayDiverged l step kind what) := by
  have h (x : Option Replay) : Recorded l s ((s.updJob l fun j => { j with replay := x }).raise 0x9005 (some l) 0 kind 0 step what) :=
    (Recorded.updJob s l (fun j => { j with replay := x }) fun j => ⟨j.rangeRaised, x, rfl⟩).trans
      (State.raise_notedIn _ _ l _ _ _ _ _ _).recorded
  unfold State.replayDiverged
  split
  · split
    · split
      · exact .refl l s
      · dsimp only
        split
        · exact (h _).trans (State.stopJob_notedIn _ l).recorded
        · exact h _
    · exact .refl l s
  · exact .refl l s

theorem State.replayLedger_recorded (s : State) (l : Fin 4) (t : Nat) (r : LedgerRecord) : Recorded l s (s.replayLedger l t r) := by
  unfold State.replayLedger
  split
  · split
    · dsimp only
      split
      · split
        · exact .refl l s
        · exact s.replayDiverged_recorded l _ _ _
      · exact s.replayDiverged_recorded l _ _ _
    · exact .refl l s
  · exact .refl l s

theorem State.closeRecord_recorded (s : State) (l : Fin 4) (t : Nat)
    (h : ∀ base n, (s.lvl l).ledgerArea = some (base, n) → t < n) : Recorded l s (s.closeRecord l t) := by
  unfold State.closeRecord
  dsimp only
  split
  · exact ((s.putRecord_recorded l t _ h).trans (State.log_notedIn _ l _ _).recorded).trans (State.replayLedger_recorded _ l _ _)
  · exact .refl l s

theorem State.feedRecord_recorded (s : State) (l : Fin 4) (f : Fed)
    (h : ∀ base n, (s.lvl l).ledgerArea = some (base, n) → f.contrib.tensor < n) : Recorded l s (s.feedRecord l f) := by
  have h1 : Recorded l s (if ((s.lvl l).record_ f.contrib.tensor).joins f then s else s.closeRecord l f.contrib.tensor) := by
    split
    · exact .refl l s
    · exact s.closeRecord_recorded l _ h
  unfold State.feedRecord
  dsimp only
  generalize (if ((s.lvl l).record_ f.contrib.tensor).joins f then s else s.closeRecord l f.contrib.tensor) = u at h1 ⊢
  have h2 := fun r => h1.trans (u.putRecord_recorded l f.contrib.tensor r fun base n ha => h base n (by rw [h1.level] at ha; exact ha))
  split
  · split
    · exact (h2 _).trans (Recorded.updLvl _ l _ (fun _ => rfl) fun ls => job_kept ls.job)
    · exact h2 _
  · exact h2 _

/-- A contribution is applied, kept until it may be, or discarded; nothing else changes (R186, R201). -/
theorem State.applyFed_recorded (s : State) (l : Fin 4) (f : Fed) : Recorded l s (s.applyFed l f) := by
  unfold State.applyFed
  dsimp only
  split
  · exact .refl l s
  · split
    · exact .refl l s
    · rename_i base n ha
      split
      · split
        · split
          · exact .refl l s
          · exact (Recorded.updJob s l _ fun j => ⟨true, j.replay, rfl⟩).trans (State.raise_notedIn _ _ l _ _ _ _ _ _).recorded
        · exact .refl l s
      · split
        · exact Recorded.updLvl s l _ (fun _ => rfl) fun ls => job_kept ls.job
        · refine s.feedRecord_recorded l f fun base' n' ha' => ?_
          rw [ha] at ha'
          cases ha'
          omega

theorem State.flushDeferred_recorded (s : State) (l : Fin 4) : Recorded l s (s.flushDeferred l) :=
  (Recorded.updLvl s l (fun ls => { ls with deferred := [] }) (fun _ => rfl) fun ls => job_kept ls.job).trans
    (Recorded.foldl _ (fun s f => s.applyFed_recorded l f) _ _)

theorem State.checkInvalid_recorded (s : State) (l : Fin 4) : Recorded l s (s.checkInvalid l) := by
  have h (s : State) (x : Nat × Nat) (a b c d : Nat) :
      Recorded l s ((s.updLvl l fun ls => { ls with invalidRaised := x :: ls.invalidRaised }).raise 0x1001 (some l) 0 a 0 b c d) :=
    (Recorded.updLvl s l (fun ls => { ls with invalidRaised := x :: ls.invalidRaised }) (fun _ => rfl) fun ls => job_kept ls.job).trans
      (State.raise_notedIn _ _ l _ _ _ _ _ _).recorded
  unfold State.checkInvalid
  dsimp only
  split
  · exact .refl l s
  · refine Recorded.foldl _ (fun s inv => ?_) _ s
    split
    · exact h s (inv.tensor, inv.step) inv.tensor inv.coord.chunk inv.coord.row inv.coord.col
    · exact .refl l s

/-- The contributions of a completed command are applied (R188). -/
theorem State.contributeAll_recorded (s : State) (l : Fin 4) (cs : List Contribution) (step entry eng : Nat) :
    Recorded l s (s.contributeAll l cs step entry eng) :=
  ((Recorded.foldl _ (fun s _ => s.applyFed_recorded l _) cs s).trans (State.flushDeferred_recorded _ l)).trans
    (State.checkInvalid_recorded _ l)

/-- A command is abandoned: its refusals are reported, and the contributions that waited for its own applied (R71, R106, R201). -/
theorem State.abandon_recorded (s : State) (l : Fin 4) (eng : Nat) (r : Running) : Recorded l s (s.abandon l eng r) :=
  ((s.storeBounds_notedIn l eng r.entry r.refused).recorded.trans (State.flushDeferred_recorded _ l)).trans
    (State.checkInvalid_recorded _ l)

end Sys2Proof.Machine
end

