-- ==== Sys2Proof/Laws/Vector.lean ====
section
/-!
SUPPORT. Laws/Vector.lean: writing lanes, and what one step of a vector program can do, said once.
-/
namespace Sys2Proof.Machine

/-- Writing lanes writes those lanes of that register and nothing else (R209). -/
theorem VRegs.setLanes_lane (g : VRegs) (r : BitVec 5) (is : List Nat) (x : Nat → BitVec 32) (h : ∀ i ∈ is, i < 256)
    (y : BitVec 5) (i : Fin 256) :
    (g.setLanes r is x).lane y i.val = if y = r ∧ i.val ∈ is then x i.val else g.lane y i.val := by
  unfold VRegs.setLanes VRegs.lane
  dsimp only
  generalize g.v = t
  induction is generalizing t with
  | nil => simp
  | cons a as ih =>
    rw [List.foldl_cons, ih (fun i hi => h i (List.mem_cons_of_mem _ hi))]
    by_cases h1 : y = r ∧ i.val ∈ as
    · rw [if_pos h1, if_pos ⟨h1.1, List.mem_cons_of_mem _ h1.2⟩]
    · rw [if_neg h1]
      have ha := h a List.mem_cons_self
      by_cases h2 : y = r ∧ i.val = a
      · rw [if_pos ⟨h2.1, by rw [h2.2]; exact List.mem_cons_self⟩, h2.1, h2.2, tabGet_put_same]
      · have hn : y.toNat * 256 + i.val ≠ r.toNat * 256 + a := by
          intro e
          have hi := i.isLt
          exact h2 ⟨BitVec.eq_of_toNat_eq (by omega), by omega⟩
        rw [tabGet_put_ne _ _ _ hn, if_neg]
        intro h3
        rcases List.mem_cons.1 h3.2 with h4 | h4
        · exact h2 ⟨h3.1, h4⟩
        · exact h1 ⟨h3.1, h4⟩

@[simp] theorem VRegs.setLanes_m (g : VRegs) (r : BitVec 5) (is : List Nat) (x : Nat → BitVec 32) : (g.setLanes r is x).m = g.m := rfl
@[simp] theorem VRegs.setLanes_p (g : VRegs) (r : BitVec 5) (is : List Nat) (x : Nat → BitVec 32) : (g.setLanes r is x).p = g.p := rfl

/-- The enabled lanes are lanes. -/
theorem VRegs.enabled_lt (g : VRegs) (f : VFields) : ∀ i ∈ g.enabled f, i < 256 := by
  intro i h
  exact List.mem_range.1 (List.mem_filter.1 h).1

theorem VRegs.mem_enabled (g : VRegs) (f : VFields) (i : Fin 256) : i.val ∈ g.enabled f ↔ (g.mask f.mask).getLsbD i.val = true := by
  unfold VRegs.enabled
  simp [List.mem_filter]

end Sys2Proof.Machine
end

