-- ==== Sys2Proof/Tests/Slice0.lean ====
section
/-!
SUPPORT. Tests/Slice0.lean: the model's own tests. First the helpers that build small states; then the smoke tests of
WellFormed; then, for each statement with hypotheses, states that meet them, clause by clause; last, tests with values from the
worked examples of the spec.
-/
namespace Sys2Proof.Tests
open Sys2Proof Sys2Proof.Machine
set_option Elab.async false

/-! ### Small states -/

/-- A number from its fields: lowest bit and value. -/
def fields (fs : List (Nat × Nat)) : Nat := fs.foldl (fun a f => a + f.2 * 2 ^ f.1) 0

/-- An entry at the beginning of its step, for an engine and opcode, with a descriptor word. -/
def entryOf (eng op desc : Nat) : Entry :=
  { cycle := 0, angle := 0, engine := eng, opcode := op, nonpreempt := false, waitTally := false, signalTally := false, tally := 0,
    budget := 0xFFFF, desc := desc }

/-- An image of two cycles with some entries and one descriptor of 128 bytes. -/
def imageOf (es : List Entry) (d : Nat) : Image :=
  { major := 4, minor := 0, usesExchange := false, spill := false, periodNs := 10000000, loop := 2, contexts := 8, tallies := 256,
    build := 0, crc := 0, nearAddr := 0, size := 4096, entries := es, slices := [], descs := leBytes 128 d }

/-- A declaration of nothing. -/
def noDecl : Declaration :=
  { crc := 0, shares := [], chutes := [], passBuffer := none, batches := [], windows := [], exchange := none, frozen := [],
    skipMaps := [], spill := none }

/-- A running job. -/
def jobOf (d : Declaration) : Job :=
  { phase := .running, tensors := 4, grace := 16, graceLeft := 16, seed := 1, mask := 0, payload := [], decl := d, startCycle := 1,
    stepLimit := 0, beginOrdinal := 0, stopPending := false, stopDue := false, beginDue := none, graceExpired := none,
    closing := none, contained := false, rangeRaised := false, wrapRaised := false, restoreDirty := false, restored := none,
    snapTake := none, resident := [], saved := [], exchange := none, replay := none }

/-- Level 0 with the whole part. -/
def levelOf (img : Image) (j : Job) : LevelState :=
  { LevelState.absent with
    record := ⟨0x0F, 0, 32, 16, 32, 8, 0xFF, 0x0F, 0xFFFF, 0xFFFF⟩, image := some img, job := some j, lstep := 1,
    ledgerArea := some (0, 4) }

/-- A part whose firmware runs and whose near memory has trained, with Level 0 as given. -/
def partOf (x : LevelState) : State :=
  { State.reset with
    levels := [(0, x)], mem := { MemoryState.fresh with density := 2, rate := 40, quads := 15 },
    boot := { Boot.fresh 0 0 with resetHigh := true, perstHigh := true, romDone := true, linkUp := true, fw := .running } }

/-- A part with one entry to dispatch: engine, opcode, descriptor. -/
def oneEntry (eng op d : Nat) : State := partOf (levelOf (imageOf [entryOf eng op 0] d) (jobOf noDecl))

/-- Entry 0 is ready and its descriptor passes. -/
def goes (s : State) (engOk : Nat → Bool) (op : Nat) (ok : Ready → Bool) : Bool := ((s.ready 0 0 engOk op).map ok).getD false

/-- An entry that goes has a ready record. -/
theorem goes_ready {s : State} {engOk : Nat → Bool} {op : Nat} {ok : Ready → Bool} (h : goes s engOk op ok = true) :
    ∃ r, s.ready 0 0 engOk op = some r ∧ ok r = true := by
  unfold goes at h
  cases hr : s.ready 0 0 engOk op with
  | none => simp [hr] at h
  | some r => exact ⟨r, rfl, by simpa [hr] using h⟩

/-! ### WellFormed refuses what the operands' types let through -/

/-- One well-formed and one ill-formed command for each check. -/
theorem test_wf :
    Instr.wf (.nop 0 1048575) = true ∧ Instr.wf (.nop 0 1048576) = false ∧
    Instr.wf (.commandComplete 0 0x60) = true ∧ Instr.wf (.commandComplete 0 0x24) = false ∧
    Instr.wf (.slotWindowEnd 0 0x31 0) = true ∧ Instr.wf (.slotWindowEnd 0 0x32 0) = false ∧
    Instr.wf (.crusherOutputDelivery 0 0x28) = true ∧ Instr.wf (.crusherOutputDelivery 0 0x32) = false ∧
    Instr.wf (.stemItemDelivery 0 0x37) = true ∧ Instr.wf (.stemItemDelivery 0 0x38) = false ∧
    Instr.wf (.registerWrite 0 0 4 0) = true ∧ Instr.wf (.registerWrite 0 0 3 0) = false ∧
    Instr.wf (.farRead 0 0 ⟨[(16 * 2 ^ 64 - 1, 0)], [], [], []⟩) = true ∧ Instr.wf (.farRead 0 0 ⟨[(16 * 2 ^ 64, 0)], [], [], []⟩) = false ∧
    Instr.wf (.contextSwitch 0 0 4095) = true ∧ Instr.wf (.contextSwitch 0 0 4096) = false ∧
    Instr.wf (.loadForecastFrame 0 2097151) = true ∧ Instr.wf (.loadForecastFrame 0 2097152) = false ∧
    Instr.wf (.currentSample ⟨List.replicate 10 0, List.replicate 10 0, List.replicate 10 0, List.replicate 4 0⟩) = true ∧
    Instr.wf (.currentSample ⟨[], [], [], []⟩) = false ∧
    Instr.wf (.railSample (List.replicate 10 0) (List.replicate 10 0)) = true ∧ Instr.wf (.railSample [] []) = false ∧
    Instr.wf (.limitEvaluation ⟨[0, 0, 0, 0], 0⟩) = true ∧ Instr.wf (.limitEvaluation ⟨[], 0⟩) = false ∧
    Instr.wf (.patrolScrub 0 (2 ^ 33 - 1) .clean) = true ∧ Instr.wf (.patrolScrub 0 (2 ^ 33) .clean) = false ∧
    Instr.wf (.bringupComplete ⟨List.replicate 32 40, List.replicate 32 64, true, List.replicate 16 default, none⟩) = true ∧
    Instr.wf (.bringupComplete ⟨List.replicate 32 41, List.replicate 32 64, true, List.replicate 16 default, none⟩) = false := by
  decide +kernel

/-! ### Queue, clock and cadence -/

/-- StepRunsFront, IdleStepTicks, WellFormedKept and ResetState: a queue with a command in front, and an empty one. -/
theorem wit_queue : ({ State.reset with pending := [.nop 0 0, .powerUp] } : State).pending = .nop 0 0 :: [.powerUp] ∧
    State.reset.pending = [] ∧ State.reset.wellFormed = true := by decide +kernel

/-- WellFormedKept and EveryCommandGoesOn: from reset a step answers a next state. -/
theorem wit_step : ∃ t, step State.reset = .next t := ⟨_, rfl⟩

/-- A running part whose Winder is locked on a 10 ms period, whose last edge came at hub clock 0, and whose time is given. -/
def lockedAt (now : Nat) : State :=
  { State.reset with
    now := now, boot := { State.reset.boot with fw := .running }, cad := { Cadence.fresh 0 with
      state := .locked, history := [20000000], lastAccepted := some 0, lastEdge := some 0, number := 7 } }

/-- LockedCycleEnds: the edge on time; the flywheel one clock after the window, and not yet at its last clock. -/
theorem wit_LockedCycleEnds :
    let s := lockedAt 20000000
    s.boot.fw = .running ∧ s.cad.state = .locked ∧ s.cad.measured = some ⟨20000000, 1⟩ ∧ s.cad.lastAccepted = some 0 ∧ 10000 ≤ s.now - 0 ∧
      inWindowOf ⟨20000000, 1⟩ (s.cad.lastEdge.getD 0) s.now = (true, 1) ∧
      inWindowOf ⟨20000000, 1⟩ 0 20000305 = (true, 1) ∧ inWindowOf ⟨20000000, 1⟩ 0 20000306 ≠ (true, 1) ∧
      (lockedAt 20000306).cad.measured = some ⟨20000000, 1⟩ ∧
      20000000 * 65536 + max (20 * 1 * 65536) 20000000 < (20000306 - 0) * 1 * 65536 ∧
      (20000305 - 0) * 1 * 65536 ≤ 20000000 * 65536 + max (20 * 1 * 65536) 20000000 := by decide +kernel

/-- OtherEdges: an edge before bring-up has ended, a glitch at its last clock, the first edge, an edge outside the window in LOCKED,
and edges outside LOCKED. -/
theorem wit_OtherEdges :
    State.reset.boot.fw ≠ .running ∧ (lockedAt 9999).boot.fw = .running ∧
    (let s := { lockedAt 0 with cad := Cadence.fresh 0 }
     s.boot.fw = .running ∧ s.cad.lastAccepted = none ∧ s.cad.state ≠ .locked) ∧
    (lockedAt 9999).cad.lastAccepted = some 0 ∧ (lockedAt 9999).now - 0 < 10000 ∧ State.reset.cad.lastAccepted = none ∧
    10000 ≤ (lockedAt 10000).now - 0 ∧ inWindowOf ⟨20000000, 1⟩ 0 (lockedAt 10000).now ≠ (true, 1) ∧
    (let c := { Cadence.fresh 0 with lastAccepted := some 0, lastEdge := some 0, words := [⟨4000, 1, 0⟩] }
     c.state ≠ .locked ∧ (c.judge 20000000 true true).good = true ∧ (c.judge 20000000 true true).cad.goodRun < 16 ∧
       ({ c with goodRun := 15 }.judge 20000000 true true).cad.goodRun = 16 ∧
       ({ c with words := [⟨4000, 1, 4⟩] }.judge 20000000 true true).periodChange = true ∧
       ({ c with words := [] }.judge 20000000 true true).good = false) := by decide +kernel

/-- CycleWordKept: a word that is kept, and one that comes before bring-up has ended. Its check is that of R33 over number 5 and
flags 1. -/
theorem wit_CycleWordKept : (lockedAt 0).boot.fw = .running ∧ State.reset.boot.fw ≠ .running ∧ (0x9A#8 = 0x9A ∧ cycleWordCheck 5 1 = cycleWordCheck 5 1 ∧ (5#64 ≠ BitVec.allOnes 64)) := by decide +kernel

/-- HoldoverBoundaries: the period has just passed; it has not; a grace that has run out, and one that has not. -/
theorem wit_HoldoverBoundaries :
    (let s := { State.reset with now := 20000000 }
     s.cad.state ≠ .locked ∧ s.cad.holdoverEnd ≤ s.now * clockParts) ∧
    (let s := { State.reset with now := 19999999 }
     ¬(s.cad.state ≠ .locked ∧ s.cad.holdoverEnd ≤ s.now * clockParts)) ∧
    ((partOf (levelOf (imageOf [] 0) { jobOf noDecl with graceExpired := some (9, 8, 7) })).lvl 0).job =
      some { jobOf noDecl with graceExpired := some (9, 8, 7) } ∧
    (jobOf noDecl).graceExpired = none := by decide +kernel

/-- LevelAtBoundary: a running job in the first and in the last cycle of its loop, with a stop ahead, with one due and without one; and
a job in each other phase. -/
theorem wit_LevelAtBoundary :
    let ls := levelOf (imageOf [] 0) (jobOf noDecl)
    ls.image = some (imageOf [] 0) ∧ ls.job = some (jobOf noDecl) ∧ (jobOf noDecl).phase = .running ∧
      (jobOf noDecl).stopDue = false ∧ ls.offset + 1 < (imageOf [] 0).loop ∧
      (imageOf [] 0).loop ≤ ({ ls with offset := 1 } : LevelState).offset + 1 ∧
      ({ jobOf noDecl with stopPending := true } : Job).stopPending = true ∧
      (∀ ph ∈ [Phase.opening, .opened, .draining, .stopped],
        ({ ls with job := some { jobOf noDecl with phase := ph, stopDue := true } } : LevelState).job =
          some { jobOf noDecl with phase := ph, stopDue := true }) ∧
      ({ jobOf noDecl with stopDue := true } : Job).stopDue = true ∧
      (let j := { jobOf noDecl with phase := .started, startCycle := 5 }
       j.phase = .started ∧ j.stopDue = false ∧ j.stopPending = false ∧ j.beginDue = none ∧ j.startCycle ≤ (lockedAt 0).cad.number ∧
         ¬(j.startCycle ≤ (Cadence.fresh 0).number) ∧ ({ j with stopPending := true } : Job).stopDue = false) := by decide +kernel

/-! ### Dispatch -/

/-- ReadyWhenR68Says, EntriesHeldOrInvalid, WinderOpcodes and FillLevels: the entries of the Winder and FILL_SET go, with both
kinds of operand; where the engine still runs a command, nothing goes. -/
theorem wit_Winder :
    ([0x00, 0x01, 0x02, 0x03, 0x04, 0x05, 0x06].all fun op => goes (oneEntry 0xF0 op 0) isWinder op fun _ => true) = true ∧
    goes (partOf (levelOf (imageOf [entryOf 0xF0 0x01 0x50000] 0) (jobOf noDecl))) isWinder 0x01
      (fun r => decide (bitField r.en.desc 16 16 = 5)) = true ∧
    goes (oneEntry 0x00 0x01 0) isCoreEng 0x01 (fun r => decide (bitField r.en.desc 0 3 ≤ 4)) = true ∧
    goes (partOf (levelOf (imageOf [entryOf 0x00 0x01 7] 0) (jobOf noDecl))) isCoreEng 0x01
      (fun r => decide (4 < bitField r.en.desc 0 3)) = true ∧
    (oneEntry 0xF0 0x00 0).ready 0 1 isWinder 0x00 = none ∧
    (partOf (levelOf (imageOf [entryOf 0xF0 0x00 0] 0) { jobOf noDecl with stopDue := true })).ready 0 0 isWinder 0x00 = none := by
  decide +kernel

/-- FillLevels: a core whose step has come, one whose interval still runs, and one at its target. -/
theorem wit_FillSteps :
    let s (target step : Nat) : State := State.reset.setCore 0 { CoreState.fresh with fillTarget := target, fillStep := step }
    let next (s : State) : Nat := (s.core 0).fillFrom + (s.core 0).fillStep * 64 * arithParts
    ((s 4 0).core 0).fillLevel ≠ ((s 4 0).core 0).fillTarget ∧ next (s 4 0) ≤ (s 4 0).arith 0 ∧ (s 4 1).arith 0 < next (s 4 1) ∧
      ((s 0 1).core 0).fillLevel = ((s 0 1).core 0).fillTarget := by decide +kernel

/-- EntriesHeldOrInvalid: with a descriptor of zeros every row beyond the Winder's and FILL_SET is ready and invalid. -/
theorem wit_EntriesInvalid :
    ((entryRows.drop 8).all fun row => [0x00, 0x10, 0x20, 0x28, 0x30, 0x31, 0x34, 0x38, 0x40, 0x60].any fun g =>
      let s := oneEntry g row.opcode 0
      ((s.ready 0 0 row.engines row.opcode).map fun r => !row.valid (s.dispatched 0 0 r) 0 0 r).getD false) = true := by
  decide +kernel

/-- Descriptors that pass: a pass of one row, one column and one group, on array A0. -/
def passD (packed trans : Bool) : Nat :=
  fields [(11, trans.toNat), (12, 1), (16, packed.toNat), (20, 1), (34, 1), (42, 1), (52, trans.toNat), (192, 0x1000000)]

/-- PassesBegin: each of the five opcodes goes with a valid descriptor. -/
theorem wit_PassesBegin :
    ([(0x10, Form.full, false), (0x11, .full, true), (0x12, .packed, false), (0x13, .packed, true), (0x14, .wide, false)].all
      fun p => goes (oneEntry 0x00 p.1 (passD (decide (p.2.1 = .packed)) p.2.2)) isCoreEng p.1
        fun r => (PassDesc.ofNat (r.img.descNat r.en 64)).ok p.2.1 p.2.2) = true := by decide +kernel

/-- StreamsBegin and ProgramBegins: each stream operation, and PROGRAM, goes with a valid descriptor. -/
theorem wit_StreamsBegin :
    ([0x20, 0x21, 0x22, 0x23, 0x24, 0x25, 0x26, 0x27, 0x28, 0x29].all fun op =>
      let mx := decide (0x24 ≤ op) && decide (op ≤ 0x27)
      goes (oneEntry 0x10 op (fields [(0, mx.toNat), (276, 1)])) isVecEng op
        fun r => (StreamDesc.ofNat (r.img.descNat r.en 64)).ok mx) = true ∧
    goes (oneEntry 0x10 0x01 (fields [(32, 1)])) isVecEng 0x01 programValid = true := by decide +kernel

/-! ### Vector programs -/

/-- A command that runs a program. -/
def progRun : Running :=
  { entry := 0, step := 1, ctx := 0, since := 0, overrun := none, writes := [], contribs := [], refused := [], after := .program,
    noStamp := false, nearBytes := 0, farBytes := 0, arrays := 0, issued := 0, progress := 0, ctl := none, regs := none }

/-- A declaration with one share: the first 64 KiB of core 0 for context 0. -/
def oneShare : Declaration := { noDecl with shares := [⟨0, 0, 0, false, false, false, 0, 65536, 0⟩] }

/-- Core 0 runs a program of two instruction words, with registers and open loops. -/
def progPart (w : Nat) (g : VRegs) (loops : List (Nat × Nat)) : State :=
  let x := levelOf (imageOf [entryOf 0x10 0x01 0] 0) (jobOf oneShare)
  { partOf { x with engines := [(0x10, { EngineState.fresh with running := [progRun] })] } with
    coreMem := memWrite [] 0 (leBytes 8 w ++ leBytes 8 w),
    cores := [(0, { CoreState.fresh with
      regs := g, ctl := { Control.idle with running := true, length := 2, loops := loops } })] }

/-- An instruction word with opcode `o`, VD 3, VA 1, VB 2 and an IMM. -/
def word (o imm : Nat) : Nat := fields [(0, o), (8, 3), (13, 1), (18, 2), (36, imm)]

/-- LaneInstructions, LoadsAndStores, ControlInstructions: every opcode but PROGRAM's own can be the next instruction; ENDLOOP in a
loop, LOOP with and without iterations. -/
theorem wit_Instructions :
    (∀ o ∈ [0x00, 0x01, 0x02, 0x03, 0x04, 0x05, 0x06, 0x07, 0x10, 0x11, 0x12, 0x13, 0x14, 0x15, 0x20, 0x21, 0x22, 0x23, 0x24, 0x25,
        0x30, 0x31, 0x32, 0x33, 0x34, 0x35, 0x36, 0x37, 0x40, 0x41, 0x42, 0x50, 0x51, 0x60, 0x61, 0x62, 0x63, 0x70, 0x71, 0x72, 0x73,
        0x74, 0x75, 0x80, 0x81, 0x82, 0x84, 0x85],
      atInstr (progPart (word o 5) ⟨[], [], []⟩ []) 0 o (vfieldsOf (word o 5)) 0 progRun []) ∧
    atInstr (progPart (word 0x82 0) ⟨[], [], []⟩ []) 0 0x82 (vfieldsOf (word 0x82 0)) 0 progRun [] ∧
    (∀ left ∈ [1, 2], let s := progPart (word 0x83 0) ⟨[], [], []⟩ [(0, left)]
      atInstr s 0 0x83 (vfieldsOf (word 0x83 0)) 0 progRun [] ∧ (nextCtl s 0).loops = [(0, left)]) ∧
    (vfieldsOf (word 0x82 5)).imm ≠ 0 ∧ (vfieldsOf (word 0x82 0)).imm = 0 := by
  unfold atInstr
  decide +kernel

/-- ComparesAndReductions: with M0 every lane is enabled; with an M1 of zeros none is. -/
theorem wit_Reductions :
    let g : VRegs := ⟨[], [], []⟩
    let none_ := fields [(0, 0x62), (28, 1)]
    (List.range 256).filter (fun i => (g.mask 0).getLsbD i) = 0 :: (List.range 255).map (· + 1) ∧
    (List.range 256).filter (fun i => (g.mask (vfieldsOf none_).mask).getLsbD i) = [] ∧
    atInstr (progPart none_ g []) 0 0x62 (vfieldsOf none_) 0 progRun [] := by
  unfold atInstr
  decide +kernel

/-- NarrowAndEnd: the Level of the program has its job. -/
theorem wit_NarrowAndEnd : ((progPart (word 0x41 5) ⟨[], [], []⟩ []).lvl 0).job = some (jobOf oneShare) := by decide +kernel

/-! ### Ore Pass, Crusher, stem, Belt and copies -/

/-- An Ore Pass descriptor: one token, a vocabulary of 64 in one chunk, SCALE_T 1.0. -/
def oreD : Nat := fields [(8, 1), (40, 64), (160, 0x40000), (192, 0x80000), (416, 0x3F800000), (608, 64)]

/-- A part about to dispatch an Ore Pass opcode, with the span state of a given header. -/
def orePart (op next : Nat) (fin : Bool) : State :=
  { partOf (levelOf (imageOf [entryOf 0x20 op 0] oreD) (jobOf { noDecl with passBuffer := some (0, 0x200000) })) with
    hubMem := memWrite [] 0x80000 (SpanHeader.bytes ⟨next, 64, 1, 0, 0, fin⟩) }

/-- OrePassBegins: each of the five commands goes. -/
theorem wit_OrePassBegins :
    let good (op next : Nat) (fin isOpen stage : Bool) (cond : OreCtx → Bool) : Bool :=
      let s := orePart op next fin
      goes s isOreEng op fun r => oreValid isOpen stage cond (s.dispatched 0 0 r) 0 r
    good 1 0 false true false (fun _ => true) = true ∧ good 2 0 false false true (fun _ => true) = true ∧
      good 3 0 false false false (fun x => decide (x.d.chunk = x.head.next)) = true ∧
      good 4 1 false false false (fun x => decide (x.d.chunks ≤ x.head.next) && !x.head.final) = true ∧
      good 5 1 true false false (fun x => x.head.final) = true := by decide +kernel

/-- A media descriptor of one item: clip 0, image 1, audio 2; delivered to near memory. -/
def mediaD (k : Nat) : Nat :=
  fields [(64, 1), (112, if k = 2 then 3 else 0), (120, if k = 2 then 1 else 3), (128, 1), (144, 1), (192, 1),
    (368, if k = 2 then 0 else 1), (384, 1)]

/-- A stem descriptor of one item, one channel in and out, one tap. -/
def stemD (src : Nat) : Nat :=
  fields [(0, src), (16, 1), (21, 1), (30, 1), (35, 1), (40, 1), (45, 1), (66, 1), (81, 1), (96, 1)]

/-- A gather descriptor of one pixel and one tap of 16 channels. -/
def gatherD : Nat :=
  fields [(10, 1), (28, 1), (33, 1), (38, 1), (46, 1), (54, 1), (62, 1), (90, 1), (105, 1), (120, 16), (136, 1), (168, 1), (183, 1),
    (228, 1), (254, 1)]

/-- CrusherBegins, StemConvBegins and CopiesBegin: each command goes. -/
theorem wit_CrusherBegins :
    goes (oneEntry 0x28 1 (mediaD 0)) isVideo 1 (fun r => (MediaDesc.ofNat (r.img.descNat r.en 128)).ok .clip) = true ∧
    goes (oneEntry 0x30 1 (mediaD 1)) (fun x => decide (x = 0x30)) 1
      (fun r => (MediaDesc.ofNat (r.img.descNat r.en 128)).ok .image) = true ∧
    goes (oneEntry 0x31 1 (mediaD 2)) (fun x => decide (x = 0x31)) 1
      (fun r => (MediaDesc.ofNat (r.img.descNat r.en 128)).ok .audio) = true ∧
    ([0, 2].all fun src => goes (oneEntry 0x34 1 (stemD src)) isStem 1 fun r => (StemDesc.ofNat (r.img.descNat r.en 64)).ok) = true ∧
    ([CopyOp.move, .pack, .unpack, .fill].zipIdx.all fun p =>
      goes (oneEntry 0x40 (p.2 + 1) (fields [(92, 128), (116, 192), (140, 192), (164, 1)])) isCopyEng (p.2 + 1)
        fun r => (CopyDesc.ofNat (r.img.descNat r.en 64)).ok p.1) = true ∧
    goes (oneEntry 0x40 0x30 gatherD) isCopyEng 0x30 (fun r => (GatherDesc.ofNat (r.img.descNat r.en 64)).ok) = true := by
  decide +kernel

/-- CrusherBegins: with every link half up no read of far memory fails. -/
theorem wit_CrusherFar (r : Ready) :
    let s := { oneEntry 0x30 1 (mediaD 1) with links := (List.range 16).map fun h => (h, ⟨true, true, 2 ^ 40, false, true, 0⟩) }
    ∀ key, (((s.dispatched 0 0 r).withEnv .quiet).far).fails key = none := by
  intro s key
  have e : ((s.dispatched 0 0 r).withEnv .quiet).far = ⟨[], [], [], []⟩ :=
    (congrArg (fun u => (State.withEnv u .quiet).far) (State.dispatched_dispatches s 0 0 r).rest).trans rfl
  rw [e]
  rfl

/-- BeltBegins: SAMPLE with a segment table of one segment of one column, ROUTE and DETECT. -/
theorem wit_BeltBegins :
    (let s := { oneEntry 0x38 1 (fields [(0, 1), (21, 1), (42, 1), (120, 128)]) with nearMem := memWrite [] 0 (leBytes 16 (2 ^ 84)) }
     goes s isBelt 1 fun r => sampleValid (s.dispatched 0 0 r) 0 0 r) = true ∧
    goes (oneEntry 0x38 2 (fields [(0, 1), (13, 1), (24, 1), (101, 1)])) isBelt 2
      (fun r => (RouteDesc.ofNat (r.img.descNat r.en 64)).ok) = true ∧
    goes (oneEntry 0x38 3 (fields [(0, 1), (13, 1), (34, 1), (64, 1), (81, 1)])) isBelt 3
      (fun r => (DetectDesc.ofNat (r.img.descNat r.en 64)).ok) = true := by decide +kernel

/-- A Level-0 engine with a command that delivers outputs, and outputs handed to stem engine 0. -/
def delivering (eng : Nat) (d : Delivery) (handed : List HandItem) : State :=
  let x := levelOf (imageOf [entryOf eng 1 0] (stemD 0)) (jobOf noDecl)
  partOf { x with
    engines := [(eng, { EngineState.fresh with running := [{ progRun with after := .deliver d }] })], handed := tabPut [] [] 0 handed }

/-- Deliveries: a Crusher engine, which hands its output to a stem engine that takes it, or to one that does not; a stem engine that
takes nothing; one that waits, one that takes an output of its shape, and one that is handed another shape. -/
theorem wit_Deliveries :
    let d : Delivery := ⟨0, 0, 1, false, none, [], [], none, false, false, []⟩
    let item (c : Nat) : HandItem := ⟨0, c, 1, 1, 1, [0x3F80]⟩
    let head (s : State) (eng : Nat) := ((s.lvl 0).eng eng).running
    let sd := StemDesc.ofNat ((imageOf [entryOf 0x34 1 0] (stemD 0)).descNat (entryOf 0x34 1 0) 64)
    head (delivering 0x28 d []) 0x28 = [{ progRun with after := .deliver d }] ∧
    head (delivering 0x34 d []) 0x34 = [{ progRun with after := .deliver d }] ∧
    tabGet [] ((delivering 0x34 { d with takes := true } []).lvl 0).handed 0 = [] ∧
    tabGet [] ((delivering 0x34 { d with takes := true } [item 1]).lvl 0).handed 0 = [item 1] ∧
    ((item 1).channels = sd.cIn ∧ (item 1).classH = sd.inH ∧ (item 1).classW = sd.inW ∧ (item 1).format = 0) ∧
    (item 2).channels ≠ sd.cIn ∧ isStem 0x34 = true ∧ d.left ≠ 0 ∧ d.gives = none ∧
    ((delivering 0x34 { d with takes := true } []).lvl 0).stemTakes 0 = true ∧
    ((delivering 0x28 { d with gives := some 0 } []).lvl 0).stemTakes 0 = false ∧
    (let x := (delivering 0x34 { d with takes := true } []).lvl 0
     let st := { EngineState.fresh with running := [{ progRun with after := .deliver { d with gives := some 0 } }] }
     let y := { x with engines := tabPut .fresh x.engines 0x28 st }
     y.stemTakes 0 = true ∧ (y.eng 0x28).running = [{ progRun with after := .deliver { d with gives := some 0 } }]) := by decide +kernel

/-! ### The exchange engine -/

/-- A far window of 1 MiB at far address 0 on link half 0. -/
def farWin : FarWindow := ⟨0, 0x100000, 1, false, true, true, false, false, 0⟩

/-- A region of one index, one element and one shard. -/
def regionOf : Region :=
  { base := 0, layout := 1, capacity := 1, shards := 1, copies := 1, contribF32 := true, reducedBf16 := false, mean := false,
    elements := 1, journal := 1, amax := 0, autoLeave := 0, guardNs := 0, rosterOff := 4096, slotOff := 0x2000, slotSize := 0x2000,
    journalOff := 0x8000, entrySize := 0x4000, size := 0x10000 }

/-- A job of index 0 with the exchange, index 0 active. -/
def exchJob : Job :=
  { jobOf { noDecl with windows := [farWin], exchange := some ⟨0, 0, 1, 1⟩ } with
    exchange := some ⟨regionOf, [0], [0], 1, []⟩ }

/-- A part about to dispatch an exchange opcode of index 0's job; the close is the given count of the step's first cycle. -/
def exchPart (op close : Nat) : State :=
  let x := levelOf (imageOf [entryOf 0x60 op 0] (fields [(16, close), (160, 0x2000)])) exchJob
  { partOf x with links := [(0, ⟨true, true, 2 ^ 40, false, true, 0⟩)] }

/-- Entry 0 is a ready exchange command, and a condition on what it works on holds. -/
def exchGoes (s : State) (op : Nat) (p : Ready → ExchCtx → Bool) : Bool :=
  ((s.ready 0 0 isExchange op).bind fun r => (exchCtx (s.dispatched 0 0 r) 0 0 (r.step + r.job.firstStep)).map fun x =>
    x.d.ok (s.dispatched 0 0 r) 0 x.exch.region op && p r x).getD false

/-- Such a command is at the exchange engine. -/
theorem exchGoes_at {s : State} {op : Nat} {p : Ready → ExchCtx → Bool} (h : exchGoes s op p = true) :
    ∃ r x, exchangeAt s 0 0 r op x ∧ p r x = true := by
  unfold exchGoes at h
  cases hr : s.ready 0 0 isExchange op with
  | none => simp [hr] at h
  | some r =>
    cases hx : exchCtx (s.dispatched 0 0 r) 0 0 (r.step + r.job.firstStep) with
    | none => simp [hr, hx] at h
    | some x =>
      simp only [hr, hx, Option.bind_some, Option.map_some, Option.getD_some, Bool.and_eq_true] at h
      exact ⟨r, x, ⟨hr, hx, h.1⟩, h.2⟩

/-- Far memory as other agents have left it: nothing new. -/
def noEnv : FarEnv := .quiet

/-- ContributeAndJournal: CONTRIBUTE of an active index; JOURNAL_READ of a gap and of an entry that stands. -/
theorem wit_ContributeAndJournal :
    exchGoes (exchPart 1 0) 1 (fun _ x => x.exch.activeAt x.step = [x.job.ownIndex]) = true ∧
    exchGoes (exchPart 5 0) 5 (fun r x =>
      journalGap (((exchPart 5 0).dispatched 0 0 r).withEnv noEnv) 0 x.exch.region x.d.replayStep true) = true ∧
    exchGoes (exchPart 5 0) 5 (fun r x =>
      !journalGap (((exchPart 5 0).dispatched 0 0 r).withEnv noEnv) 0 x.exch.region x.d.replayStep false) = true := by
  decide +kernel

/-- ContributeAndJournal: a JOURNAL_READ whose reads all succeed, and with the link down one whose stamps cannot be read. -/
theorem wit_JournalReads :
    let stamps (s : State) : Bool := exchGoes s 5 fun r x =>
      decide (((s.dispatched 0 0 r).withEnv noEnv).readStamps (r.exchCmd 0 0) (x.exch.region.shardStamps x.d.replayStep)).failedFar.isEmpty
    let work (s : State) : Bool := exchGoes s 5 fun r x =>
      (gatherWork ((s.dispatched 0 0 r).withEnv noEnv) (r.exchCmd 0 0) x x.d.replayStep 0 true).1.failedFar.isEmpty
    stamps (exchPart 5 0) = true ∧ work (exchPart 5 0) = true ∧ stamps { exchPart 5 0 with links := [] } = false := by decide +kernel

/-- ExchangeReads and StampsAndCloses: REDUCE, GATHER and ROSTER_SYNC whose reads succeed; and with the link down a REDUCE whose
stamps cannot be read, and a ROSTER_SYNC that cannot read the roster. -/
theorem wit_ReadsUnderR365 :
    let stamps (s : State) (op : Nat) : Bool := exchGoes s op fun r x =>
      (exchangeLook ((s.dispatched 0 0 r).withEnv noEnv) (r.exchCmd 0 0) x op).failedFar.isEmpty
    let work (s : State) (op : Nat) : Bool := exchGoes s op fun r x =>
      ((exchangeTry ((s.dispatched 0 0 r).withEnv noEnv) (r.exchCmd 0 0) x op).map fun q => q.1.failedFar.isEmpty).getD false
    ([2, 3, 4].all fun op => stamps (exchPart op 0) op && work (exchPart op 0) op) = true ∧
      stamps { exchPart 2 0 with links := [] } 2 = false ∧ stamps { exchPart 4 0 with links := [] } 4 = true ∧
      work { exchPart 4 0 with links := [] } 4 = false := by decide +kernel

/-- ExchangeReads: REDUCE, GATHER and ROSTER_SYNC that work at once, and that wait for a close still ahead. -/
theorem wit_ExchangeReads :
    ([2, 3, 4].all fun op => exchGoes (exchPart op 0) op fun r x => decide (x.job.replay = none) &&
      (exchangeTry (((exchPart op 0).dispatched 0 0 r).withEnv noEnv) (r.exchCmd 0 0) x op).isSome) = true ∧
    exchGoes (exchPart 4 9) 4 (fun r x =>
      (exchangeTry (((exchPart 4 9).dispatched 0 0 r).withEnv noEnv) (r.exchCmd 0 0) x 4).isNone) = true := by decide +kernel

/-- ExchangeReads: a ROSTER message for Level 0: one that joins in time, on a Level that is contained and on one that is not, one that
changes nothing, one past the close, and one whose old entry cannot be read. -/
theorem wit_RosterPending :
    let p (join : Bool) (eff : Nat) : PendingRoster := ⟨0, 0, 0, join, 0, eff, [], none⟩
    let s (q : PendingRoster) (now : Nat) : State := { exchPart 4 0 with rosterMsg := some q, now := now }
    let test (s : State) (q : PendingRoster) (f : State → PendingRoster → RosterEntry → ExchCtx → Ready → Bool) : Bool :=
      exchGoes s 4 fun r x =>
        let v := (s.dispatched 0 0 r).withEnv noEnv
        decide (s.rosterMsg = some q) && f v q (v.rosterEntry 0 x.exch.region q.index) x r
    let read (v : State) (r : Ready) (x : ExchCtx) : Bool :=
      (readFar v (r.exchCmd 0 0) .empty (x.exch.region.rosterAt 0) 64).2.failedFar.isEmpty
    let joins (v : State) (q : PendingRoster) (old : RosterEntry) (x : ExchCtx) (r : Ready) : Bool :=
      decide (q.decide old x.exch.autoLeft x.step = 0) && read v r x
    test (s (p true 5) 0) (p true 5) (fun v q old x r => joins v q old x r && !v.isContained 0) = true ∧
    test ((s (p true 5) 0).updJob 0 fun j => { j with contained := true }) (p true 5)
      (fun v q old x r => joins v q old x r && v.isContained 0) = true ∧
    test (s (p false 5) 0) (p false 5) (fun v q old x r => decide (q.decide old x.exch.autoLeft x.step ≠ 0) && read v r x) = true ∧
    test (s (p true 5) 400) (p true 5) (fun v q old x r => joins v q old x r &&
      decide (x.job.closeCount x.img (r.step + r.job.firstStep) x.d.close < v.countNow x.job)) = true ∧
    test { s (p true 5) 0 with links := [] } (p true 5) (fun v _ _ x r => !read v r x) = true := by decide +kernel

/-- StampsAndCloses: a waiting REDUCE that may go on and a waiting ROSTER_SYNC that may not; a CONTRIBUTE whose close has passed. -/
theorem wit_StampsAndCloses :
    let at_ (op close now : Nat) (after : After) (f : State → Running → Cmd → ExchCtx → Nat → Bool) : Bool :=
      let y := (exchPart op close).lvl 0
      let s := { (exchPart op close).setLvl 0 { y with
        engines := [(0x60, { EngineState.fresh with running := [{ progRun with after := after }] })] } with now := now }
      ((s.exchangeRunning 0).map fun q => f s q.1 q.2.1 q.2.2.1 q.2.2.2).getD false
    at_ 2 0 0 .waiting (fun s r c x op => decide (r.after = .waiting) && (exchangeTry (s.withEnv noEnv) c x op).isSome) = true ∧
    at_ 4 9 0 .waiting (fun s r c x op => decide (r.after = .waiting) && (exchangeTry (s.withEnv noEnv) c x op).isNone) = true ∧
    at_ 2 0 0 .none (fun _ r _ _ _ => decide (r.after ≠ .waiting)) = true ∧
    at_ 2 0 400 .waiting (fun s r c x op => decide (op = 2) && !r.noStamp && decide (r.after = .waiting) &&
      decide (x.job.closeCount x.img c.step x.d.close < s.countNow x.job)) = true := by decide +kernel

/-- A move of one row of 64 bytes between far address 0x1000 and core 0, with a stamp. -/
def moveD : Nat := fields [(0, 0x1000), (110, 64), (182, 1), (202, 1), (320, 0x2000)]

/-- FarMovesAndSnapshots: FAR_READ and FAR_WRITE go. -/
theorem wit_FarMoves :
    let s (op : Nat) : State :=
      partOf (levelOf (imageOf [entryOf 0x60 op 0] moveD) (jobOf { noDecl with windows := [farWin] }))
    goes (s 0x10) isExchange 0x10 (fun r => (MoveDesc.ofNat (r.img.descNat r.en 128)).ok ((s 0x10).windows 0) false) = true ∧
    goes (s 0x11) isExchange 0x11 (fun r => (MoveDesc.ofNat (r.img.descNat r.en 128)).ok ((s 0x11).windows 0) true) = true := by
  decide +kernel

/-! ### Jobs, slices, completion, the ledger and the Lamp Room -/

/-- A part with a given job on Level 0 and the engines as listed. -/
def jobPart (j : Job) (es : List (Nat × EngineState)) : State :=
  partOf { levelOf (imageOf [entryOf 0x60 0x20 0] 0) j with engines := es }

/-- JobsBeginAndStop: a job due to begin, with and without the exchange; one due to stop; a draining one at rest and one that is
not; an entry that has stalled for 65,536 counts, on a Tally and without one. -/
theorem wit_JobsBeginAndStop :
    (let j := { jobOf noDecl with phase := .started, beginDue := some 0 }
     ((jobPart j []).lvl 0).job = some j ∧ j.phase = .started ∧ j.stopDue = false ∧ j.beginDue = some 0 ∧ j.exchange = none) ∧
    (let j := { exchJob with phase := .started, beginDue := some 0 }
     ((jobPart j []).lvl 0).job = some j ∧ j.beginDue = some 0 ∧ j.exchange.isSome = true ∧ j.replay = none ∧
       windowOf j.decl.windows regionOf.base = some farWin) ∧
    (let read (s : State) : List (Option Nat × Nat) :=
       (readFar (s.withEnv noEnv) ⟨0, 0x60, 0, 0xFFFFFFFF, 1⟩ .empty (regionOf.rosterAt 0) (64 * regionOf.capacity)).2.failedFar
     let s := jobPart { exchJob with phase := .started, beginDue := some 0 } []
     read { s with links := [(0, ⟨true, true, 2 ^ 40, false, true, 0⟩)] } = [] ∧ read s ≠ []) ∧
    ({ jobOf noDecl with stopDue := true } : Job).stopDue = true ∧
    ((jobPart { jobOf { noDecl with passBuffer := some (0, 0x200000) } with phase := .draining } []).lvl 0).quiet = true ∧
    ((jobPart { jobOf noDecl with phase := .draining } [(0x60, { EngineState.fresh with running := [progRun] })]).lvl 0).quiet = false ∧
    (let x := levelOf (imageOf [entryOf 0xF0 0 0, { entryOf 0x60 0x20 0 with waitTally := true }] 0) (jobOf noDecl)
     let s := { partOf x with cad := { Cadence.fresh 0 with ordinal := 1 } }
     let img := imageOf [entryOf 0xF0 0 0, { entryOf 0x60 0x20 0 with waitTally := true }] 0
     (s.lvl 0).nextEntry img 0xF0 0 = some (0, 0) ∧ (s.lvl 0).nextEntry img 0x60 0 = some (1, 0) ∧
       0 + 65536 + EngineState.fresh.waited 8 0 (s.countNow (jobOf noDecl)) ≤ s.countNow (jobOf noDecl) ∧
       tabGet 0 ((s.lvl 0).eng 0x60).stalled 0 ≠ tabGet 0 ((s.lvl 0).eng 0x60).dispatched 0 + 1 ∧
       ((s.lvl 0).tally 0).count < ((s.lvl 0).tally 0).target ∧
       ¬(0 + 65536 + EngineState.fresh.waited 8 0 ((partOf x).countNow (jobOf noDecl)) ≤ (partOf x).countNow (jobOf noDecl))) := by
  decide +kernel

/-- An image with a slice of context 1 over the first half of the step and one of context 2 over the rest, on every engine. -/
def sliced : Image :=
  { imageOf [entryOf 0x00 0x10 0] 0 with
    slices := [⟨0, 65536, 1, 32, 64, BitVec.allOnes 256⟩, ⟨65536, 131072, 2, 32, 64, BitVec.allOnes 256⟩] }

/-- A part with that image, an engine 0 as given, in the second cycle of the step or the first. -/
def slicePart (st : EngineState) (ordinal : Nat) : State :=
  { partOf { levelOf sliced (jobOf noDecl) with engines := [(0, st)] } with cad := { Cadence.fresh 0 with ordinal := ordinal } }

/-- SlicesAndWindows: a slice that has reached its end with nothing running and with one command that is suspended; a slice
that begins on an idle engine; a switch that has taken its time; and an engine shared by slot windows, in and out of them. -/
theorem wit_SlicesAndWindows :
    (let st := { EngineState.fresh with slice := some (0, 0), lastSlice := some (0, 0) }
     let s := slicePart st 1
     st.switching = false ∧ sliced.sliceStop 0 0 - sliced.deduction 0 0 0 (st.owes 1) ≤ s.countNow (jobOf noDecl) ∧
       (sliced.joined 0 0 0).isSome = false ∧ st.slotHeld = [] ∧ st.running = [] ∧
       (sliced.contextOf (sliced.entries.getD 0 default)).2 = true ∧ 
       ({ progRun with after := .none, writes := [⟨0, .near, 0, [1]⟩] } : Running).canSuspend 0 = true ∧
       ({ progRun with after := .none } : Running).canSuspend 0 = false ∧
       ({ progRun with after := .pass ⟨passD false false, 0x10, [], [], [], 0, false, none⟩ } : Running).canSuspend 0 = true) ∧
    (let st := { EngineState.fresh with lastSlice := some (0, 0) }
     let s := slicePart st 1
     (s.lvl 0).sliceNext 0 = some (1, 0) ∧ st.slice = none ∧
       max (sliced.sliceStart 1 0) st.overrunEnd ≤ s.countNow (jobOf noDecl) ∧
       ¬(sliced.sliceStop 1 0 - sliced.deduction 0 1 0 (st.owes 2) ≤ max (sliced.sliceStart 1 0) st.overrunEnd) ∧ st.ctx ≠ 2) ∧
    (let w : Switch := ⟨0, true, 0, 0⟩
     let st := { EngineState.fresh with ctx := 2, switching := true, switch := some w }
     let s := { slicePart st 1 with now := 2000 }
     w.since + s.switchClocks (s.lvl 0) 0 w ≤ s.now ∧ (s.lvl 0).partnerLoads 0 2 = false ∧ (jobOf noDecl).phase = .running ∧
       ({ jobOf noDecl with stopDue := true } : Job).stopDue = true) ∧
    (let s := jobPart (jobOf noDecl) []
     bitAt ((s.lvl 0).record.slots 0x30).toNat (s.angle / 0x1000) = true ∧ s.inWindow 0 0x30 = true) ∧
    (let s := partOf { levelOf sliced (jobOf noDecl) with record := ⟨0x0F, 0, 32, 16, 32, 8, 0xFF, 0x0F, 2, 2⟩ }
     bitAt ((s.lvl 0).record.slots 0x30).toNat (s.angle / 0x1000) = false ∧ s.inWindow 0 0x30 = false) := by decide +kernel

/-- A slice that is joined by one of the same context at its end, without debt; and one that a debt has emptied. -/
theorem wit_SlicesJoined :
    let img := { sliced with slices := [⟨0, 65536, 1, 32, 64, BitVec.allOnes 256⟩, ⟨65536, 131072, 1, 32, 64, BitVec.allOnes 256⟩] }
    img.deduction 0 0 0 0 = 0 ∧ (img.joined 0 0 0).isSome = true ∧
      (let st := { EngineState.fresh with lastSlice := some (0, 0), debt := [(2, 65536)] }
       sliced.sliceStop 1 0 - sliced.deduction 0 1 0 (st.owes 2) ≤ max (sliced.sliceStart 1 0) st.overrunEnd) := by decide +kernel

/-- SlicesAndWindows: a pass that has been suspended and saved, and whose engine has switched back to its context. -/
theorem wit_PassResumes :
    let q : Running := { progRun with
      ctx := 2, progress := 1, arrays := 1, after := .pass ⟨passD false false, 0x10, [], [], [], 0, true, none⟩ }
    let st := { EngineState.fresh with ctx := 2, switching := true, switch := some ⟨0, true, 0, 0⟩, suspended := [(2, q)] }
    let d : Declaration := { noDecl with shares := [⟨2, 0, 0, false, false, false, 0, 2 ^ 20, 0⟩] }
    let s := { partOf { levelOf sliced (jobOf d) with engines := [(0, st)] } with now := 10 ^ 7 }
    ((s.lvl 0).eng 0) = st ∧ 0 + s.switchClocks (s.lvl 0) 0 ⟨0, true, 0, 0⟩ ≤ s.now ∧ (s.lvl 0).partnerLoads 0 2 = false ∧
      (st.suspended.filter fun x => x.1 = 2) = [(2, q)] ∧ q.after ≠ .program ∧ q.liveBytes 0 ≠ 0 ∧
      s.saveShare 0 0 2 = some ⟨2, 0, 0, false, false, false, 0, 2 ^ 20, 0⟩ := by decide +kernel

/-- CommandsEnd: a command that completes, one that is abandoned with the draining job, one that may not end yet; and a program that
has ended, one that can go on, and one that has passed its end. -/
theorem wit_CommandsEnd :
    let st (a : After) : EngineState := { EngineState.fresh with running := [{ progRun with after := a }] }
    let head (s : State) (e : Nat) := ((s.lvl 0).eng e).running
    let prog (ctl : Control) : State := (jobPart (jobOf oneShare) [(0x10, st .program)]).setCore 0 { CoreState.fresh with ctl := ctl }
    let stuck (s : State) : Bool := programStuck (s.core 0).ctl (fetchWord s ⟨0, 0x10, 0, 0, 1⟩ .empty 0 (s.core 0).ctl).1
    let at_ (ip : Nat) : Control := { Control.idle with running := true, ip := ip, length := 1 }
    head (jobPart (jobOf noDecl) [(0x40, st .none)]) 0x40 = [{ progRun with after := .none }] ∧
    ((jobPart (jobOf noDecl) [(0x40, st .none)]).lvl 0).ending 0x40 { progRun with after := .none } = .completes ∧
    head (prog .idle) 0x10 = [progRun] ∧ ((prog .idle).core 0).ctl.running = false ∧
    ((prog (at_ 0)).core 0).ctl.running = true ∧ ((prog (at_ 0)).core 0).ctl.level = 0 ∧ stuck (prog (at_ 0)) = false ∧
    ((prog (at_ 1)).core 0).ctl.running = true ∧ stuck (prog (at_ 1)) = true ∧
    (let a : After := .waiting
     ((jobPart (jobOf noDecl) [(0x60, st a)]).lvl 0).ending 0x60 { progRun with after := a } = .notYet) ∧
    (let a : After := .deliver ⟨0, 0, 0, true, none, [], [], none, false, false, []⟩
     ((jobPart { jobOf noDecl with phase := .draining } [(0x28, st a)]).lvl 0).ending 0x28 { progRun with after := a } =
      .abandoned) := by decide +kernel

/-- LedgerRecordsClose: an OPEN record of a step that has ended, which nothing feeds; one of the present step, and one at an edge into
which counts are compressed. -/
theorem wit_LedgerRecordsClose :
    let x := { levelOf (imageOf [] 0) (jobOf noDecl) with ledger := [(1, { LedgerRecord.fresh with state := 1, step := 9, lstep := 1 })] }
    (x.record_ 1).state = 1 ∧ x.feeds 1 (x.record_ 1).lstep = false ∧ ¬((x.record_ 1).lstep < x.lstep.toNat) ∧
      (x.record_ 1).lstep < ({ x with lstep := 2 } : LevelState).lstep.toNat ∧ (partOf x).atCompressed = false ∧
      ({ partOf x with cad := { Cadence.fresh 0 with compressed := true, compressedAt := 0 } } : State).atCompressed = true := by
  decide +kernel

/-- LampRoom: a declared batch, an admission that is due and one that is not, and a boundary. -/
theorem wit_LampRoom :
    let d : BatchDecl := ⟨1, List.replicate 96 0⟩
    let x := { levelOf (imageOf [] 0) (jobOf { noDecl with batches := [d] }) with
      batches := [(0, { Batch.fresh with due := [(1, 0)] })] }
    x.batchDecl 0 = some d ∧ x.offset = d.le 0x1E 2 ∧ (x.batch 0).admitted < x.lstep.toNat ∧ (x.batch 0).due = [(1, 0)] ∧
      ¬(({ x with offset := 1 } : LevelState).offset = d.le 0x1E 2) ∧ (x.batch 1).due = [] ∧ (partOf x).requestsTaken 0 = [] ∧
      (let m : Taken := ⟨0, 0, 0, 0, 0x30, 0, 255, 0, 0, [], true, false, 0, [], none, false, false⟩
       ({ partOf x with fns := [(0, { Fn.fresh with taken := [m] })] } : State).requestsTaken 0 = [(0, m)]) := by decide +kernel

/-! ### Adit: slots, messages and replies -/

/-- Payload bytes from their values, each at a byte offset. -/
def payload (n : Nat) (fs : List (Nat × Nat)) : List Byte := leBytes n (fields (fs.map fun f => (8 * f.1, f.2)))

/-- A message of a code taken in slot 0. -/
def takenOf (msg : Nat) (p : List Byte) : Taken :=
  { slot := 0, seq := 0, turn := 0, cycle := 0, msg := msg, tag := 0, vector := 255, level := 0, length := p.length, payload := p,
    headerOk := true, working := false, status := 0, reply := [], begun := none, dropped := false, orphan := false }

/-- A part where a function with every feature agreed has taken a message. -/
def msgPart (x : LevelState) (fn : Nat) (m : Taken) : State :=
  { partOf x with fns := tabPut .fresh [] fn { Fn.fresh with version := 3, features := 0x3F, taken := [m] } }

/-- A message of slot 0 that passes the checks of R488, by computation. -/
def passesB (s : State) (fn : Fin 5) (x : Taken) : Bool :=
  decide (s.taken fn.val 0 = some x) && !x.working && s.inTurn fn.val x && decide (s.precheck fn.val x = none)

/-- It is at its row. -/
theorem passesB_passes {s : State} {fn : Fin 5} {x : Taken} (h : passesB s fn x = true) : passes s fn 0 x.msg x := by
  simp only [passesB, Bool.and_eq_true, decide_eq_true_eq, Bool.not_eq_true'] at h
  exact ⟨⟨h.1.1.1, rfl, h.1.1.2, h.1.2⟩, h.2⟩

/-- A Level with an image and no job. -/
def idleLevel : LevelState := { levelOf (imageOf [] 0) (jobOf noDecl) with job := none }

/-- ScansAndNotices: a posted slot of a known code while firmware runs; a notice and a FREE slot; a pending and masked vector. -/
theorem wit_ScansAndNotices :
    (let s := { partOf idleLevel with barMem := memWrite (memWrite [] 0x10000 (leBytes 4 1)) 0x10010 (leBytes 2 1) }
     s.boot.fw = .running ∧ s.boot.awake = true ∧ s.scanDeferred 0 = false ∧ posted s 0 0 = true ∧
       s.lampHolds 0 (s.copySlot 0 0 0) = false ∧ (∀ i < 16, posted s 0 i = true → knownMsg (s.bar 0 (inSlot i + 0x10) 2) = true) ∧
       (s.fn 0).taken = []) ∧
    (let n : Notice := ⟨0, 0, default, none⟩
     let s := { partOf idleLevel with fns := [(0, { Fn.fresh with waiting := [n], msixPending := 1, noticeVector := 0 })] }
     (s.fn 0).waiting = [n] ∧ s.replyFirst n = false ∧ (List.range 16).find? (fun i => s.bar 0 (outSlot i) 4 = 0) = some 0 ∧
       s.aditUp = true ∧ (s.fn 0).msixPending.getLsbD 0 = true ∧ (s.fn 0).msixMask.getLsbD 0 = true) ∧
    (let m : Taken := { takenOf 0x51 [] with working := true }
     let n : Notice := ⟨0, 0, default, some (0, 0)⟩
     let s := { partOf idleLevel with fns := [(0, { Fn.fresh with taken := [m], waiting := [n] })] }
     (s.fn 0).waiting.head? = some n ∧ s.replyFirst n = true) ∧
    State.reset.aditUp = false ∧ State.reset.boot.fw ≠ .running ∧ (State.reset.fn 0).waiting = [] ∧ (State.reset.fn 0).msixPending.getLsbD 0 = false := by
  decide +kernel

/-- The first inbound slot of the PF has a given OWNER. -/
def ownerPart (o : Nat) : State := { partOf idleLevel with barMem := memWrite [] 0x10000 (leBytes 4 o) }

/-- HostWrites: the words that the ownership table accepts and refuses, at the first and last word of a slot, and the other
places of BAR0. -/
theorem wit_HostWrites :
    (∀ p ∈ [(0, 0x10000, 1), (0, 0x10FFC, 7), (3, 0x10000, 0)], wordTaken (ownerPart p.1) 0 p.2.1 p.2.2) ∧
      (∀ p ∈ [(1, 0x10FFC, 7), (1, 0x10000, 0), (2, 0x10000, 0), (3, 0x10004, 0), (0, 0x20000, 0)],
        ¬wordTaken (ownerPart p.1) 0 p.2.1 p.2.2) ∧
      ((0x10000#24).toNat % 8 = 0 ∧ (0x10FFC#24).toNat % 4 = 0) ∧
      (0x8000 ≤ (0x8000#24).toNat ∧ (0x83FC#24).toNat < 0x8400 ∧ (0x83FC#24).toNat % 16 = 12 ∧ (0x83F8#24).toNat % 8 = 0) ∧
      (0x800000 ≤ (0x800000#24).toNat ∧ (0xBFF000#24).toNat < 0xC00000) ∧
      (ownerPart 0).aditUp = true ∧ State.reset.aditUp = false ∧
      ({ ownerPart 0 with boot := { (ownerPart 0).boot with fw := .awaiting } } : State).aditUp = true ∧
      State.reset.boot.fw = .awaiting ∧ (ownerPart 0).boot.fw ≠ .awaiting := by
  unfold wordTaken
  decide +kernel

/-- MessagesChecked: a VF of an absent Level, a LENGTH too long, a function before its HELLO, a message of a function reset since, and
no message at all. -/
theorem wit_MessagesChecked :
    let m := takenOf 0x30 (payload 128 [])
    (msgPart idleLevel 2 m).precheck 2 m = some 7 ∧ ((msgPart idleLevel 2 m).lvl (m.lvl 2)).present = false ∧
      (msgPart idleLevel 0 { m with length := 4033 }).precheck 0 { m with length := 4033 } = some 2 ∧
      ({ partOf idleLevel with fns := [(0, { Fn.fresh with taken := [m] })] } : State).precheck 0 m = some 4 ∧
      (let o := { m with orphan := true }
       let s : State := { partOf idleLevel with fns := [(0, { Fn.fresh with taken := [o] })] }
       s.taken 0 0 = some o ∧ s.precheck 0 o = none) ∧
      (partOf idleLevel).taken 0 0 = none ∧ (msgPart idleLevel 0 m).taken 0 0 = some m := by decide +kernel

/-- RepliesPosted: a LEDGER.READ that has ended and a REQ.CANCEL that has not, an opening and a closing job. -/
theorem wit_RepliesPosted :
    let m (c : Nat) := { takenOf c [] with working := true }
    let s (c : Nat) (ph : Phase) := msgPart (levelOf (imageOf [] 0) { jobOf noDecl with phase := ph }) 0 (m c)
    let ended (c : Nat) (ph : Phase) : Bool := decide ((s c ph).taken 0 0 = some (m c)) && (s c ph).workEnded 0 0 (m c) ((m c).lvl 0)
    ended 0x60 .running = true ∧ ended 0x31 .running = false ∧ ended 0x20 .opening = true ∧ ended 0x22 .stopped = true ∧
      ended 0x22 .draining = false := by decide +kernel

/-- HelloAgrees: versions out of order; none in common; another message taken; a change while a job is open, and while it is still being
opened; and agreement, on a part that is locked and on one that is not. -/
theorem wit_HelloAgrees :
    let hello (lo hi feat : Nat) : Taken := takenOf 0x01 (payload 64 [(0, lo), (2, hi), (4, 255), (8, feat)])
    let go (x : LevelState) (m : Taken) : Bool := passesB (msgPart x 0 m) 0 m
    let s := msgPart idleLevel 0 (hello 1 3 0x3F)
    go idleLevel (hello 3 2 0) = true ∧ (hello 3 2 0).le 2 2 < (hello 3 2 0).le 0 2 ∧
      go idleLevel (hello 4 4 0) = true ∧ min ((hello 4 4 0).le 2 2) 3 < max ((hello 4 4 0).le 0 2) 1 ∧
      go idleLevel (hello 1 3 0x3F) = true ∧ (s.fn 0).taken = [hello 1 3 0x3F] ∧ s.boot.debugUnlocked = false ∧
      go (levelOf (imageOf [] 0) (jobOf noDecl)) (hello 1 2 0) = true ∧ min ((hello 1 2 0).le 2 2) 3 ≠ 3 ∧
      go (levelOf (imageOf [] 0) { jobOf noDecl with phase := .opening }) (hello 1 2 0) = true ∧
      (let u : State := { s with
        fns := [(0, { s.fn 0 with taken := [hello 1 3 0x3F, { takenOf 0x60 [] with slot := 1, working := true }] })],
        boot := { s.boot with debugUnlocked := true } }
       passesB u 0 (hello 1 3 0x3F) = true ∧ ∃ y ∈ (u.fn 0).taken, y.slot ≠ 0 ∧ y.orphan = false) ∧
      (hello 1 3 0x3F).zero 5 3 = true := by decide +kernel

/-- LevelSetDivides: on a VF, with a job open, for a second Level without the feature, a record named twice, and a good one. -/
theorem wit_LevelSetDivides :
    let rec_ (q pipes : Nat) : Nat := fields [(0, q), (48, pipes), (56, 0)]
    let set (a b : Nat) : Taken := takenOf 0x10 (payload 128 [(0, a), (32, b)])
    let recs (m : Taken) : List (List Byte) := (List.range 4).map fun i => padTo 32 (listSlice m.payload (32 * i) 32)
    let good (m : Taken) : Bool :=
      let rs := (recs m).map LevelRecord.ofBytes
      pairwise recordsApart rs && recordSumsOk rs && (recs m).all recordBytesOk
    passesB (msgPart idleLevel 1 (set 0 0)) 1 (set 0 0) = true ∧
      passesB (msgPart (levelOf (imageOf [] 0) (jobOf noDecl)) 0 (set 0 0)) 0 (set 0 0) = true ∧
      passesB (msgPart idleLevel 0 (set 0 0)) 0 (set 0 0) = true ∧
      (∀ l, ((msgPart idleLevel 0 (set 0 0)).lvl l).job = none) ∧
      good (set (rec_ 1 1) (rec_ 1 2)) = false ∧ good (set (rec_ 7 1) (rec_ 8 2)) = true ∧
      (msgPart idleLevel 0 (set 0 0)).mem.quads = 15 ∧
      (LevelRecord.ofBytes ((recs (set (rec_ 7 1) (rec_ 8 2))).getD 1 [])).quads ≠ 0 := by decide +kernel

/-- A declaration without sections. -/
def declB : List Byte :=
  let h := payload 56 [(0, 0x4A444543)]
  h ++ leBytes 8 (crc64 (h ++ List.replicate 8 0))

/-- A JOB.OPEN of four tensors, its ledger at near address 0x200000, with that declaration. -/
def openMsg : Taken := takenOf 0x20 (payload 64 [(2, 4), (4, 16), (0x10, 0x200000), (0x28, 64)])

/-- JobOpens: no image; a job open already; and a job that opens. -/
theorem wit_JobOpens :
    passesB (msgPart { idleLevel with image := none } 0 openMsg) 0 openMsg = true ∧
    passesB (msgPart (levelOf (imageOf [] 0) (jobOf noDecl)) 0 openMsg) 0 openMsg = true ∧
    (let s := msgPart idleLevel 0 openMsg
     let b := dmaBytes (openMsg.le 0x28 4) declB
     passesB s 0 openMsg = true ∧ openMsg.le 0x20 8 % 4096 = 0 ∧ 64 ≤ openMsg.le 0x28 4 ∧ declReadable b = true ∧
       ((imageOf [] 0).usesExchange = false ∧ (imageOf [] 0).hasExchange = false ∧ (Declaration.ofBytes b).exchange = none) ∧
       (let w := s.withEnv noEnv
        w.openPayloadOk 0 openMsg = true ∧ w.sectionsOk 0 (imageOf [] 0) (openMsg.le 0x10 8, 2048 * openMsg.le 2 2) b = true ∧
          (w.loadFrozen (Declaration.ofBytes b).windows (Declaration.ofBytes b).frozen).2.failedFar = [])) := by decide +kernel

/-- A declaration of a far window and of a frozen tensor to be loaded through it. -/
def declFrozen : List Byte :=
  let h := payload 56 [(0, 0x4A444543), (4, 2)]
  let rest := payload 96 [(0, 5), (4, 1), (8, 96), (16, 7), (20, 1), (24, 128), (40, 2 ^ 30), (48, 1), (51, 4), (64, 1), (72, 0x10000),
    (80, 65536), (88, 4096)]
  h ++ leBytes 8 (crc64 (h ++ List.replicate 8 0 ++ rest)) ++ rest

/-- JobOpens: a job whose frozen tensor cannot be read, since far memory is poisoned where it begins. -/
theorem wit_JobOpenFails :
    let m := takenOf 0x20 (payload 64 [(2, 4), (4, 16), (0x10, 0x200000), (0x28, 160)])
    let s := { msgPart idleLevel 0 m with links := [(0, ⟨true, true, 2 ^ 40, false, true, 0⟩)] }
    let w := s.withEnv ⟨[], [(4096, 64)], [], []⟩
    let b := dmaBytes (m.le 0x28 4) declFrozen
    let d := Declaration.ofBytes b
    passesB s 0 m = true ∧ m.le 0x28 4 = 160 ∧ declReadable b = true ∧ d.exchange = none ∧ w.openPayloadOk 0 m = true ∧
      w.sectionsOk 0 (imageOf [] 0) (m.le 0x10 8, 2048 * m.le 2 2) b = true ∧ (w.loadFrozen d.windows d.frozen).2.failedFar ≠ [] := by
  decide +kernel

/-- A recorded run of one step of two cycles: its JOB_OPEN entry and its CADENCE entries. -/
def recorded : List LogEntry :=
  [⟨0, 0, 0, true, 1, 0, payload 96 [(8, 1)]⟩, ⟨1, 1, 0, true, 3, 1, payload 24 []⟩, ⟨2, 2, 0, true, 3, 1, payload 24 []⟩]

/-- The messages that start and replay a job at cycle 9, from step 1 to step 1. -/
def startMsg (replay : Bool) : Taken :=
  if replay then takenOf 0x70 (payload 64 [(0, 9), (0x10, (recorded.flatMap LogEntry.bytes).length), (0x18, 1), (0x20, 1)])
  else takenOf 0x21 (payload 16 [(0, 9)])

/-- An open job of the image of two cycles. -/
def openLevel (ph : Phase) : LevelState := levelOf (imageOf [] 0) { jobOf noDecl with phase := ph }

/-- JobsStartAndClose: the image's period is the current one, and a period twice as long is not. -/
theorem wit_period (s : State) (h : s.cad = Cadence.fresh 0) :
    s.periodOk (imageOf [] 0) = true ∧ s.periodOk { imageOf [] 0 with periodNs := 20000000 } = false := by
  simp [State.periodOk, h, Cadence.current, Cadence.fresh, Period.tenMs, imageOf]

/-- JobsStartAndClose: a job that may start, one that may not yet, a running one, one that is gone, and a close of each phase. -/
theorem wit_JobsStartAndClose :
    (let s := msgPart (openLevel .opened) 0 (startMsg false)
     passesB s 0 (startMsg false) = true ∧ (startMsg false).cycle.toNat < (startMsg false).le 0 8 ∧
       (jobOf noDecl).restoreDirty = false ∧ (imageOf [] 0).usesExchange = false) ∧
    passesB (msgPart (openLevel .running) 0 (startMsg false)) 0 (startMsg false) = true ∧
    passesB (msgPart (openLevel .opening) 0 (startMsg false)) 0 (startMsg false) = true ∧
    passesB (msgPart { openLevel .opened with job := none } 0 (startMsg false)) 0 (startMsg false) = true ∧
    passesB (msgPart (openLevel .opened) 0 (takenOf 0x21 (payload 16 []))) 0 (takenOf 0x21 (payload 16 [])) = true ∧
    ([Phase.opening, .running, .opened, .started, .stopped].all fun ph =>
      passesB (msgPart (openLevel ph) 0 (takenOf 0x22 (payload 8 []))) 0 (takenOf 0x22 (payload 8 []))) = true := by decide +kernel

/-- JobsStartAndClose: the recorded run is read back from its bytes. -/
theorem wit_Recorded :
    let b := dmaBytes ((startMsg true).le 0x10 8) (recorded.flatMap LogEntry.bytes)
    parseEntries (b.length / 64 + 1) b = some recorded := by decide +kernel

/-- JobsStartAndClose: a replay of it that may start. -/
theorem wit_ReplayStart :
    let m := startMsg true
    let s := msgPart (openLevel .opened) 0 m
    passesB s 0 m = true ∧ m.le 8 8 % 4096 = 0 ∧ m.le 0x28 1 ≤ 1 ∧ m.zero 0x29 7 = true ∧ gapless recorded = true ∧
      logCovers recorded 2 (m.le 0x18 8) (m.le 0x20 8) = true ∧ (recorded.find? fun e => e.kind = 1).isSome = true ∧
      listLe (payload 96 [(8, 1)]) 8 8 = (jobOf noDecl).seed.toNat ∧
      s.replayState 0 { jobOf noDecl with phase := .opened } recorded (m.le 0x18 8) = true := by decide +kernel

/-- An image of one NOP, with its CRC-64/ECMA. -/
def imageB : List Byte :=
  let h := payload 0x78 [(0, 0x53484457), (4, 4), (0xC, 10000000), (0x10, 2), (0x14, 1), (0x1A, 1), (0x20, 128), (0x28, 128), (0x30, 192),
    (0x38, 64), (0x40, 256)]
  let rest := leBytes 32 (fields [(32, 0xF0), (80, 0xFFFF)]) ++ List.replicate 96 0
  h ++ leBytes 8 0xA3A2E55BB5FB2623 ++ rest

/-- A CRC taken a part at a time. -/
theorem crc64From_split (k c : Nat) (bs : List Byte) :
    crc64From c bs = crc64From (crc64From c (bs.take k)) (bs.drop k) := by
  simp only [crc64From, ← List.foldl_append, List.take_append_drop]

/-- The CRC of the image above, its own field as zeros. -/
theorem crc_imageB : crc64 (imageB.take 0x78 ++ List.replicate 8 0 ++ imageB.drop 0x80) = 0xA3A2E55BB5FB2623 := by
  change crc64From 0 _ = _
  have h1 : crc64From 0 ((imageB.take 0x78 ++ List.replicate 8 0 ++ imageB.drop 0x80).take 128) = 0xE932F2D11A301695 := by decide +kernel
  have h2 : crc64From 0xE932F2D11A301695 ((imageB.take 0x78 ++ List.replicate 8 0 ++ imageB.drop 0x80).drop 128) = 0xA3A2E55BB5FB2623 := by
    decide +kernel
  rw [crc64From_split 128, h1, h2]

/-- ImagesLoad: an image that loads. -/
theorem wit_ImageReads : (readImage idleLevel 0x10000 (dmaBytes 256 imageB)).isSome = true := by
  have h : dmaBytes 256 imageB = imageB := by decide +kernel
  have hc : listLe imageB 0x78 8 = crc64 (imageB.take 0x78 ++ List.replicate 8 0 ++ imageB.drop 0x80) := by
    rw [crc_imageB]; decide +kernel
  rw [h, readImage, if_neg (by simp only [ne_eq, hc, not_true_eq_false, not_false_eq_true])]
  decide +kernel

/-- ImagesLoad: a job open; an address out of place; a read that fails; a wrong magic; a wrong size; and an image that loads
(wit_ImageReads). -/
theorem wit_ImagesLoad :
    let m (size : Nat) : Taken := takenOf 0x23 (payload 64 [(8, size), (0x10, 0x10000)])
    let s (size : Nat) := msgPart idleLevel 0 (m size)
    let placed (size : Nat) : Bool := decide ((m size).le 0 8 % 4096 = 0) && decide (128 ≤ (m size).le 8 8) &&
      (s size).nearRangeOk 0 ((m size).le 0x10 8) ((m size).le 8 8) &&
      !overlaps ((m size).le 0x10 8) ((m size).le 8 8) ((s size).pitBase 0) (2 ^ 30)
    passesB (msgPart (openLevel .opened) 0 (m 256)) 0 (m 256) = true ∧ passesB (s 256) 0 (m 256) = true ∧ placed 256 = true ∧
      placed 127 = false ∧ ((s 256).fn 0).features.getLsbD 2 = true ∧ listLe (dmaBytes 256 imageB) 0 4 = 0x53484457 ∧
      listLe (dmaBytes 256 imageB) 4 2 = 4 ∧ listLe (dmaBytes 256 imageB) 0x40 8 = 256 ∧ listLe (dmaBytes 320 imageB) 0x40 8 ≠ 320 ∧
      (s 256).lvl 0 = idleLevel ∧
      listLe (dmaBytes 256 (List.replicate 256 0)) 0 4 ≠ 0x53484457 := by decide +kernel

/-- A Level with a batch of one row, and the requests given. -/
def batchLevel (qs : List Request) : LevelState :=
  let d : BatchDecl := ⟨1, payload 96 [(4, 64), (8, 32), (0x10, 100), (0x18, 2)]⟩
  { levelOf (imageOf [] 0) (jobOf { noDecl with batches := [d] }) with requests := qs.zipIdx.map fun q => (q.2, q.1) }

/-- A request of index 0 in a state, with its handle. -/
def requestIn (st : Nat) : Request := { Request.free with handle := 0x100000, state := st }

/-- REQ.SUBMIT of a prompt of one token. -/
def submitMsg (vocab : Nat) : Taken :=
  takenOf 0x30 (payload 388 [(8, 1), (0xC, 1), (0x18, 0x3F800000), (0x1C, 0x3F800000), (0x25, 1), (0x28, 0x3F800000), (0x180, vocab)])

/-- RequestMessages: a submission that is queued, one out of range, one to a full batch, and messages to a live and a dead handle. -/
theorem wit_RequestMessages :
    let q (m : Taken) : Request := { Request.free with
      fn := 0, batch := 0, payload := m.payload, notifyEvery := m.le 0x22 2, notifyVector := m.le 0x24 1,
      deadline := BitVec.ofNat 64 (m.le 0x38 8) }
    let d := ((batchLevel []).batchDecl 0).getD ⟨0, []⟩
    let at_ (x : LevelState) (m : Taken) : Bool := passesB (msgPart x 0 m) 0 m
    let handle (c more : Nat) : Taken := takenOf c (payload 16 [(0, 0x100000), (4, more)])
    at_ (batchLevel []) (submitMsg 7) = true ∧ (q (submitMsg 7)).fieldsOk d = true ∧ (q (submitMsg 100)).fieldsOk d = false ∧
      at_ (batchLevel []) (submitMsg 100) = true ∧
      ¬((batchLevel []).contexts ≤ lowestFree [] ∨ d.le 0x18 4 ≤ ((batchLevel []).batch 0).queue.length) ∧
      d.le 0x18 4 ≤ ({ batchLevel [] with batches := [(0, { Batch.fresh with queue := [0, 1] })] }.batch 0).queue.length ∧
      idleLevel.batchDecl 0 = none ∧
      (∀ c ∈ [false, true], (msgPart { batchLevel [requestIn 0] with job := (batchLevel [requestIn 0]).job.map fun j =>
        { j with contained := c } } 0 (handle 0x31 0)).isContained 0 = c ∧
        at_ { batchLevel [requestIn 0] with job := (batchLevel [requestIn 0]).job.map fun j => { j with contained := c } } (handle 0x31 0) = true) ∧
      at_ (batchLevel [requestIn 0]) (handle 0x31 0) = true ∧ (batchLevel [requestIn 0]).live? 0x100000 = some 0 ∧
      (batchLevel []).live? 0x100000 = none ∧ at_ (batchLevel [requestIn 1]) (handle 0x32 0) = true ∧
      at_ (batchLevel [requestIn 1]) (handle 0x32 1) = true ∧ (handle 0x32 1).le 8 1 ≤ 63 ∧
      at_ (batchLevel [requestIn 1]) (handle 0x33 1) = true ∧ (requestIn 1).ended = false ∧ (handle 0x33 1).le 8 8 % 4096 = 0 ∧
      (handle 0x33 1).zero 6 2 = true ∧ (requestIn 0).state = 0 ∧ 1 < (requestIn 3).state := by decide +kernel

/-! ### Snapshot stores -/

/-- A persistent window of 1 GiB from far address 0. -/
def farGib : FarWindow := { farWin with size := 2 ^ 30, shared := false }

/-- The stores used: store format, generation format, chunks. -/
def storeCases : List (Nat × Nat × Nat) := [(2, 1, 0), (2, 2, 0), (3, 2, 0), (3, 2, 1)]

/-- A far memory before its checksums: a store of two slots of 64 MiB at address 0, and the header of generation 1 in slot 0. -/
def storePlain (fmt gfmt k : Nat) : Mem :=
  memWrite (memWrite [] 0 (payload 24 [(0, 0x534E4150), (4, fmt), (6, 2), (8, 2 ^ 26), (16, 2 ^ 26)]))
    (2 ^ 26) (payload 0x28 [(0, 1), (5, 4), (8, 1), (0x10, gfmt), (0x14, k), (0x18, 1)])

/-- With the CRC of its store header. -/
def storeChecked (fmt gfmt k : Nat) : Mem :=
  memWrite (storePlain fmt gfmt k) 0xFF8 (leBytes 8 (crc64 (memRead (storePlain fmt gfmt k) 0 0xFF8)))

/-- With the digest of its generation header. -/
def storeMem (fmt gfmt k : Nat) : Mem :=
  memWrite (storeChecked fmt gfmt k) (2 ^ 26 + 0xFC8) (shaBytes (sha384 (memRead (storeChecked fmt gfmt k) (2 ^ 26 + 8) 0xFC0)))

theorem storeMem_low (fmt gfmt k a n : Nat) (h : a + n ≤ 0xFF8) : memRead (storeMem fmt gfmt k) a n = memRead (storePlain fmt gfmt k) a n := by
  rw [storeMem, memRead_write_outside _ _ _ _ _ (by omega), storeChecked, memRead_write_outside _ _ _ _ _ (by omega)]

theorem storeMem_slot0 (fmt gfmt k a n : Nat) (h : 2 ^ 26 ≤ a) (g : a + n ≤ 2 ^ 26 + 0xFC8) :
    memRead (storeMem fmt gfmt k) a n = memRead (storePlain fmt gfmt k) a n := by
  rw [storeMem, memRead_write_outside _ _ _ _ _ (by omega), storeChecked,
    memRead_write_outside _ _ _ _ _ (by rw [leBytes_length]; omega)]

theorem storeMem_high (fmt gfmt k a n : Nat) (h : 2 ^ 26 + 0xFF8 ≤ a) :
    memRead (storeMem fmt gfmt k) a n = memRead (storePlain fmt gfmt k) a n := by
  rw [storeMem, memRead_write_outside _ _ _ _ _ (by rw [shaBytes_length]; omega), storeChecked,
    memRead_write_outside _ _ _ _ _ (by rw [leBytes_length]; omega)]

theorem storeMem_crc (fmt gfmt k : Nat) :
    leNat (memRead (storeMem fmt gfmt k) 0xFF8 8) = crc64 (memRead (storeMem fmt gfmt k) 0 0xFF8) := by
  have e : memRead (storeMem fmt gfmt k) 0xFF8 8 = memRead (storeChecked fmt gfmt k) 0xFF8 8 := by
    rw [storeMem, memRead_write_outside _ _ _ _ _ (by omega)]
  have w := memRead_write (storePlain fmt gfmt k) 0xFF8 (leBytes 8 (crc64 (memRead (storePlain fmt gfmt k) 0 0xFF8)))
  rw [leBytes_length] at w
  rw [e, storeChecked, w, leNat_leBytes _ _ (crc64_lt _), storeMem_low _ _ _ _ _ (by omega)]

theorem storeMem_digest (fmt gfmt k : Nat) :
    memRead (storeMem fmt gfmt k) (2 ^ 26 + 0xFC8) 48 = shaBytes (sha384 (memRead (storeMem fmt gfmt k) (2 ^ 26 + 8) 0xFC0)) := by
  have w := memRead_write (storeChecked fmt gfmt k) (2 ^ 26 + 0xFC8)
    (shaBytes (sha384 (memRead (storeChecked fmt gfmt k) (2 ^ 26 + 8) 0xFC0)))
  rw [shaBytes_length] at w
  rw [storeMem, w, memRead_write_outside _ _ _ _ _ (by omega)]

/-- The store of that memory, in a window from a far address. -/
def storeAt (base fmt : Nat) : Store := ⟨base, fmt, 2, 2 ^ 26, 2 ^ 26⟩

/-- Its generation. -/
def genOf (fmt gfmt k : Nat) : Generation := ⟨0, 1, gfmt, 0, k, 1, memRead (storeMem fmt gfmt k) (2 ^ 26) 4096⟩

/-- Far memory where every half but half 0 is down. -/
def viewOf (m : Mem) : FarView := ⟨m, [], [], (List.range 15).map (· + 1)⟩

theorem viewOf_mem (m : Mem) : (viewOf m).mem = m := rfl

theorem viewOf_sound (m : Mem) : (viewOf m).sound := ⟨rfl, rfl, show 0 ∉ (List.range 15).map (· + 1) by decide⟩

/-- A 1 GiB window of the same device memory, from any far address. -/
def gibAt (base : Nat) : FarWindow := { farGib with base := base }

theorem peek_store (base fmt gfmt k a n : Nat) (h : a + n ≤ 2 ^ 30) :
    peekIn [gibAt base] (viewOf (storeMem fmt gfmt k)) (base + a) n = memRead (storeMem fmt gfmt k) a n := by
  have e := peekIn_straight (gibAt base) (viewOf (storeMem fmt gfmt k)) (base + a) n (viewOf_sound _) rfl (show 0 + 2 ^ 30 ≤ 2 ^ 64 by decide)
    (Nat.le_add_right base a) (show base + a + n ≤ base + 2 ^ 30 by omega)
  have b : (gibAt base).base = base := rfl
  have z : (gibAt base).target = 0 := rfl
  rw [e, viewOf_mem, z, b, Nat.zero_add, Nat.add_sub_cancel_left]

/-- What the plain memory holds of the store header, format by format. -/
theorem storePlain_head : (∀ p ∈ storeCases,
    leNat (memRead (storePlain p.1 p.2.1 p.2.2) 0 4) = 0x534E4150 ∧ leNat (memRead (storePlain p.1 p.2.1 p.2.2) 4 2) = p.1 ∧
    leNat (memRead (storePlain p.1 p.2.1 p.2.2) 6 2) = 2 ∧ leNat (memRead (storePlain p.1 p.2.1 p.2.2) 8 8) = 2 ^ 26 ∧
    leNat (memRead (storePlain p.1 p.2.1 p.2.2) 16 8) = 2 ^ 26) := by decide +kernel

theorem storePlain_zero (fmt gfmt k : Nat) : allZero (memRead (storePlain fmt gfmt k) 24 4064) = true := by
  rw [storePlain, memRead_write_outside _ _ _ _ _ (by omega), memRead_write_outside _ _ _ _ _ (by rw [payload, leBytes_length]; omega)]
  have z : ∀ n a, allZero (memRead [] a n) = true := fun n a => by simp [allZero, memRead, memGet, tabGet]
  exact z _ _

/-- What it holds of the generation headers of both slots. -/
theorem storePlain_generation : (∀ p ∈ storeCases,
    leNat (memRead (storePlain p.1 p.2.1 p.2.2) (2 ^ 26) 8) = 1 + 2 ^ 42 + 0 * 2 ^ 48 ∧ leNat (memRead (storePlain p.1 p.2.1 p.2.2) (2 ^ 26 + 8) 8) = 1 ∧
    leNat (memRead (storePlain p.1 p.2.1 p.2.2) (2 ^ 26 + 0x10) 2) = p.2.1 ∧ leNat (memRead (storePlain p.1 p.2.1 p.2.2) (2 ^ 26 + 0x12) 2) = 0 ∧
    leNat (memRead (storePlain p.1 p.2.1 p.2.2) (2 ^ 26 + 0x14) 4) = p.2.2 ∧ leNat (memRead (storePlain p.1 p.2.1 p.2.2) (2 ^ 26 + 0x18) 8) = 1 ∧
    leNat (memRead (storePlain p.1 p.2.1 p.2.2) ((1 + 1) * 2 ^ 26) 8) = 0) := by decide +kernel

theorem store_of (m : Mem) (base fmt : Nat) (h0 : leNat (memRead m 0 4) = 0x534E4150) (h1 : leNat (memRead m 4 2) = fmt)
    (h2 : leNat (memRead m 6 2) = 2) (h3 : leNat (memRead m 8 8) = 2 ^ 26) (h4 : leNat (memRead m 16 8) = 2 ^ 26)
    (h5 : allZero (memRead m 24 4064) = true) (h6 : leNat (memRead m 0xFF8 8) = crc64 (memRead m 0 0xFF8)) :
    Store.ofBytes base (memRead m 0 4096) = some (storeAt base fmt) := by
  unfold Store.ofBytes
  dsimp only
  simp only [listLe_memRead m 0 4096 0 4 (by decide), listLe_memRead m 0 4096 4 2 (by decide), listLe_memRead m 0 4096 6 2 (by decide),
    listLe_memRead m 0 4096 8 8 (by decide), listLe_memRead m 0 4096 16 8 (by decide), listLe_memRead m 0 4096 0xFF8 8 (by decide),
    take_memRead m 0 4096 0xFF8 (by decide), listSlice_memRead m 0 4096 0x18 4064 (by decide)]
  simp only [Nat.zero_add, h0, h1, h2, h3, h4, h5, h6]
  exact if_pos ⟨trivial, trivial, by decide, by decide, by decide, trivial⟩

theorem generation_of (m : Mem) (w : FarWindow) (v : FarView) (i a n fmt k : Nat) (st : Store)
    (hp : peekIn [w] v (st.slotAt i) 4096 = memRead m a 4096) (h0 : leNat (memRead m a 8) = n + 2 ^ 42 + i * 2 ^ 48) (hi : i < 65536)
    (hn : n < 2 ^ 40) (h1 : leNat (memRead m (a + 8) 8) = n) (h2 : leNat (memRead m (a + 0x10) 2) = fmt)
    (h3 : leNat (memRead m (a + 0x12) 2) = 0) (h4 : leNat (memRead m (a + 0x14) 4) = k) (h5 : leNat (memRead m (a + 0x18) 8) = 1)
    (hd : memRead m (a + 0xFC8) 48 = shaBytes (sha384 (memRead m (a + 8) 0xFC0))) :
    st.generation [w] v i = some ⟨i, n, fmt, 0, k, 1, memRead m a 4096⟩ := by
  unfold Store.generation
  dsimp only
  rw [hp, listLe_memRead m a 4096 0 8 (by decide), listLe_memRead m a 4096 8 8 (by decide), listLe_memRead m a 4096 0x10 2 (by decide),
    listLe_memRead m a 4096 0x12 2 (by decide), listLe_memRead m a 4096 0x14 4 (by decide), listLe_memRead m a 4096 0x18 8 (by decide),
    listSlice_memRead m a 4096 0xFC8 48 (by decide), listSlice_memRead m a 4096 8 0xFC0 (by decide)]
  simp only [Nat.add_zero, h0, h1, h2, h3, h4, h5, hd]
  rw [if_pos]
  refine ⟨?_, ?_, ?_, trivial⟩ <;> (unfold bitField; omega)

theorem store_reads (base : Nat) {fmt gf k : Nat} (h : (fmt, gf, k) ∈ storeCases) :
    Store.ofBytes base (peekIn [gibAt base] (viewOf (storeMem fmt gf k)) base 4096) = some (storeAt base fmt) := by
  obtain ⟨h0, h1, h2, h3, h4⟩ := storePlain_head (fmt, gf, k) h
  dsimp only at h0 h1 h2 h3 h4
  have e := peek_store base fmt gf k 0 4096 (by decide)
  rw [Nat.add_zero] at e
  rw [e]
  refine store_of _ _ _ ?_ ?_ ?_ ?_ ?_ ?_ (storeMem_crc _ _ _)
  · rw [storeMem_low _ _ _ 0 4 (by decide)]; exact h0
  · rw [storeMem_low _ _ _ 4 2 (by decide)]; exact h1
  · rw [storeMem_low _ _ _ 6 2 (by decide)]; exact h2
  · rw [storeMem_low _ _ _ 8 8 (by decide)]; exact h3
  · rw [storeMem_low _ _ _ 16 8 (by decide)]; exact h4
  · rw [storeMem_low _ _ _ 24 4064 (by decide)]; exact storePlain_zero _ _ _

/-- The header of a slot is read at its place in the memory. -/
theorem peek_slot (base fmt gf k i n : Nat) (h : (i + 1) * 2 ^ 26 + n ≤ 2 ^ 30) :
    peekIn [gibAt base] (viewOf (storeMem fmt gf k)) ((storeAt base fmt).slotAt i) n = memRead (storeMem fmt gf k) ((i + 1) * 2 ^ 26) n := by
  have e : (storeAt base fmt).slotAt i = base + (i + 1) * 2 ^ 26 := by simp only [Store.slotAt, storeAt]; omega
  rw [e, peek_store _ _ _ _ _ _ h]

theorem generation_first (base : Nat) {fmt gf k : Nat} (h : (fmt, gf, k) ∈ storeCases) :
    (storeAt base fmt).generation [gibAt base] (viewOf (storeMem fmt gf k)) 0 = some (genOf fmt gf k) := by
  obtain ⟨h0, h1, h2, h3, h4, h5, h6⟩ := storePlain_generation (fmt, gf, k) h
  dsimp only at h0 h1 h2 h3 h4 h5 h6
  refine generation_of (storeMem fmt gf k) _ _ 0 (2 ^ 26) 1 gf k _ (peek_slot _ _ _ _ _ _ (by decide)) ?_ (by decide) (by decide)
    ?_ ?_ ?_ ?_ ?_ (storeMem_digest _ _ _)
  · rw [storeMem_slot0 _ _ _ (2 ^ 26) 8 (by decide) (by decide)]; exact h0
  · rw [storeMem_slot0 _ _ _ (2 ^ 26 + 8) 8 (by decide) (by decide)]; exact h1
  · rw [storeMem_slot0 _ _ _ (2 ^ 26 + 0x10) 2 (by decide) (by decide)]; exact h2
  · rw [storeMem_slot0 _ _ _ (2 ^ 26 + 0x12) 2 (by decide) (by decide)]; exact h3
  · rw [storeMem_slot0 _ _ _ (2 ^ 26 + 0x14) 4 (by decide) (by decide)]; exact h4
  · rw [storeMem_slot0 _ _ _ (2 ^ 26 + 0x18) 8 (by decide) (by decide)]; exact h5

theorem generation_second (base : Nat) {fmt gf k : Nat} (h : (fmt, gf, k) ∈ storeCases) :
    (storeAt base fmt).generation [gibAt base] (viewOf (storeMem fmt gf k)) 1 = none := by
  obtain ⟨h0, h1, h2, h3, h4, h5, h6⟩ := storePlain_generation (fmt, gf, k) h
  dsimp only at h0 h1 h2 h3 h4 h5 h6
  have z : listLe (peekIn [gibAt base] (viewOf (storeMem fmt gf k)) ((storeAt base fmt).slotAt 1) 4096) 0 8 = 0 := by
    rw [peek_slot _ _ _ _ _ _ (by decide), listLe_memRead _ _ _ _ _ (by decide), Nat.add_zero, storeMem_high _ _ _ _ _ (by decide), h6]
  unfold Store.generation
  dsimp only
  rw [z]
  exact if_neg (fun h => absurd h.1 (by decide))

theorem generation_reads (base : Nat) {fmt gf k : Nat} (h : (fmt, gf, k) ∈ storeCases) :
    (storeAt base fmt).generations [gibAt base] (viewOf (storeMem fmt gf k)) = [genOf fmt gf k] := by
  have e : List.range (storeAt base fmt).slots = [0, 1] := rfl
  unfold Store.generations
  rw [e, List.filterMap_cons_some (generation_first base h), List.filterMap_cons_none (generation_second base h), List.filterMap_nil]

/-- The reads of the generation headers meet no failure. -/
theorem scan_reads (base fmt gf k : Nat) (a : Acc) :
    ((storeAt base fmt).scan [gibAt base] (viewOf (storeMem fmt gf k)) a).failedFar = a.failedFar := by
  have e : List.range (storeAt base fmt).slots = [0, 1] := rfl
  have r : ∀ i < 2, ∀ a : Acc, (readFarIn [gibAt base] (viewOf (storeMem fmt gf k)) a ((storeAt base fmt).slotAt i) 4096).2.failedFar =
      a.failedFar := fun i hi a => by
    have e : (storeAt base fmt).slotAt i = base + (i + 1) * 2 ^ 26 := by simp only [Store.slotAt, storeAt]; omega
    rw [e]
    exact readFarIn_straight _ _ _ _ _ (viewOf_sound _) rfl (show 0 + 2 ^ 30 ≤ 2 ^ 64 by decide) (Nat.le_add_right _ _)
      (show base + (i + 1) * 2 ^ 26 + 4096 ≤ base + 2 ^ 30 by omega)
  unfold Store.scan
  rw [e, List.foldl_cons, List.foldl_cons, List.foldl_nil, r 1 (by decide), r 0 (by decide)]

/-- An image with a plan of one history record of near memory, and a SNAP_WRITE of a store at far address 0. -/
def snapImage (interval : Nat) : Image :=
  { imageOf [entryOf 0x60 0x20 0] 0 with
    descs := leBytes 192 (fields [(64, interval), (80, 1), (104, 128), (1024, 1), (1064, 2), (1088, 0x10000), (1152, 320)]) }

/-- Its plan. -/
def snapPlan : List Section := [Section.ofBytes (leBytes 32 (fields [(0, 1), (40, 2), (64, 0x10000), (128, 320)]))]

/-- A job of it with the window, in a phase, and an unanswered SNAP.TAKE or none. -/
def snapJob (ph : Phase) (take : Option (Nat × Nat)) : Job :=
  { jobOf { noDecl with windows := [farGib] } with phase := ph, snapTake := take }

/-- A part with the job and a far memory, with a message taken. -/
def snapPart (ph : Phase) (take : Option (Nat × Nat)) (interval : Nat) (x : Taken) (m : Mem) : State :=
  { msgPart (levelOf (snapImage interval) (snapJob ph take)) 0 x with farMem := m, links := [(0, ⟨true, true, 2 ^ 40, false, true, 0⟩)] }

/-- SNAP.TAKE, SNAP.RESTORE of the newest generation, ROSTER.JOIN and ROSTER.LEAVE of index 0 and of one too high. -/
def takeMsg : Taken := takenOf 0x40 (payload 8 [])
def restoreMsg : Taken := takenOf 0x41 (payload 32 [(8, 2 ^ 64 - 1), (0x10, 128), (0x18, 1)])
def rosterMsgOf (code index : Nat) : Taken := takenOf code (payload 32 [(0, index)])

/-- A part whose job has the exchange, with a message taken and a roster message waiting or not. -/
def rosterPart (x : Taken) (busy : Bool) : State :=
  { msgPart (levelOf (imageOf [] 0) exchJob) 0 x with
    rosterMsg := if busy then some ⟨0, 0, 1, true, 0, 0, [], none⟩ else none }

/-- SnapshotAndRosterMessages: SNAP.TAKE with no SNAP_WRITE running, with one waiting already, and alone in a running and in a
draining job; the roster messages of no job, of one still being opened, of an index too high, beside another, and alone. -/
theorem wit_TakeAndRoster :
    passesB (snapPart .opened none 1 takeMsg []) 0 takeMsg = true ∧ passesB (snapPart .running (some (0, 1)) 1 takeMsg []) 0 takeMsg = true ∧
    passesB (snapPart .running none 1 takeMsg []) 0 takeMsg = true ∧ passesB (snapPart .draining none 1 takeMsg []) 0 takeMsg = true ∧
    (∃ en ∈ (snapImage 1).entries, en.engine = 0x60 ∧ en.opcode = 0x20) ∧ takeMsg.zero 0 8 = true ∧
    (∀ c ∈ [0x50, 0x51], passesB (msgPart idleLevel 0 (rosterMsgOf c 0)) 0 (rosterMsgOf c 0) = true ∧
      passesB (rosterPart (rosterMsgOf c 1) false) 0 (rosterMsgOf c 1) = true ∧
      passesB (rosterPart (rosterMsgOf c 0) true) 0 (rosterMsgOf c 0) = true ∧
      passesB (rosterPart (rosterMsgOf c 0) false) 0 (rosterMsgOf c 0) = true ∧ (rosterMsgOf c 0).zero 2 6 = true ∧
      (rosterMsgOf c 0).zero 0x10 16 = true ∧ (rosterMsgOf c 0).le 0 2 < regionOf.capacity ∧
      regionOf.capacity ≤ (rosterMsgOf c 1).le 0 2) ∧
    exchJob.exchange.isSome = true ∧
    ((some { exchJob with phase := .opening }).filter fun j : Job => j.phase ≠ .opening) = none := by decide +kernel

/-- Such a part sees far memory through the link of half 0. -/
theorem snapPart_far (ph : Phase) (take : Option (Nat × Nat)) (interval : Nat) (x : Taken) (m : Mem) :
    ((snapPart ph take interval x m).withEnv noEnv).far = viewOf m := rfl

theorem snapPart_windows (ph : Phase) (take : Option (Nat × Nat)) (interval : Nat) (x : Taken) (m : Mem) :
    ((snapPart ph take interval x m).withEnv noEnv).windows 0 = [gibAt 0] := rfl

/-- SNAP.RESTORE as far as the store's bytes are not asked: the plan, its places, and what the generation pairs with. -/
theorem restore_places (gf : Nat) (h : gf = 1 ∨ gf = 2) :
    passesB (snapPart .opened none 1 restoreMsg (storeMem 2 gf 0)) 0 restoreMsg = true ∧
    (snapImage 1).plan (restoreMsg.le 0x10 8) (restoreMsg.le 0x18 2) = some snapPlan ∧ restoreMsg.zero 0x1A 6 = true ∧
    restoreMsg.le 8 8 = 2 ^ 64 - 1 ∧ windowOf [farGib] (restoreMsg.le 0 8) = some farGib ∧
    (snapPlan.all fun y => !y.far && !overlapsFrozen (snapJob .opened none).decl.frozen y.addr y.size &&
      (snapPart .opened none 1 restoreMsg (storeMem 2 gf 0)).nearRangeOk 0 y.addr y.size) = true ∧
    sectionsPair (genOf 2 gf 0).format [] snapPlan = true ∧ (genOf 2 gf 0).seed = (snapJob .opened none).seed.toNat := by
  obtain rfl | rfl := h <;> decide +kernel

/-- The near range of the plan's only section. -/
def planAddr : Nat := 0x10000

/-- A restore of a generation without sections: of format 2 it ends as its read of the history record does; of format 1 its data
fail. -/
theorem restore_ends (s : State) (st : Store) (g : Generation) (a : Acc) (hc : g.chunks = 0) (ha : a.readsOk = true) :
    (g.format = 2 → let r := restoreWork s 0 st g [] snapPlan a
      r.failed = none ∧ r.acc = (readNear s (headframeCmd 0) a planAddr 320).2) ∧
    (g.format = 1 → g.table = List.replicate 48 0 → let r := restoreWork s 0 st g [] snapPlan a
      r.failed = some wholeData ∧ r.acc = a) := by
  have e : shaBytes (sha384 []) ≠ List.replicate 48 0 := by decide +kernel
  have y : ∃ y, snapPlan = [y] ∧ y.far = false ∧ y.addr = planAddr ∧ y.size = 320 := ⟨_, rfl, by decide +kernel⟩
  obtain ⟨y, hy, hf, hp, hn⟩ := y
  constructor
  · intro h
    simp only [restoreWork, List.foldl_nil, Option.isSome_none, ha, Bool.not_true, Bool.or_self, Bool.false_eq_true, if_false, h, hy,
      List.any_nil, Bool.not_false, List.filter_cons_of_pos, List.filter_nil, List.foldl_cons, readSection, hf, hp, hn,
      show ¬((2 : Nat) = 1 ∧ shaBytes (sha384 (s.peekFar 0 (st.slotAt g.slot + chunkBytes) (g.chunks * chunkBytes))) ≠ g.table) from
        fun h => absurd h.1 (by decide)]
    split <;> exact ⟨rfl, rfl⟩
  · intro h t
    have p : s.peekFar 0 (st.slotAt g.slot + chunkBytes) (g.chunks * chunkBytes) = [] := by
      rw [hc, Nat.zero_mul]; rfl
    have c : g.format = 1 ∧ shaBytes (sha384 []) ≠ g.table := ⟨h, by rw [t]; exact e⟩
    simp only [restoreWork, List.foldl_nil, Option.isSome_none, ha, Bool.not_true, Bool.or_self, Bool.false_eq_true, if_false, p, if_pos c]
    exact ⟨trivial, trivial⟩

theorem genOf_table (gf : Nat) (h : gf = 1 ∨ gf = 2) : (genOf 2 gf 0).table = List.replicate 48 0 := by
  have z : memRead (storePlain 2 gf 0) (2 ^ 26 + 0x28) 48 = List.replicate 48 0 := by obtain rfl | rfl := h <;> decide +kernel
  unfold Generation.table genOf
  dsimp only
  rw [listSlice_memRead _ _ _ _ _ (by decide), storeMem_slot0 _ _ _ _ _ (by decide) (by decide), z]

/-- The part, with a near block of the plan's section failed or not. -/
def restorePart (m : Mem) (failing : List Nat) : State :=
  let s := snapPart .opened none 1 restoreMsg m
  { s with mem := { s.mem with failedNear := failing } }

theorem restorePart_far (m : Mem) (failing : List Nat) : ((restorePart m failing).withEnv noEnv).far = viewOf m := rfl

theorem restorePart_windows (m : Mem) (failing : List Nat) : ((restorePart m failing).withEnv noEnv).windows 0 = [gibAt 0] := rfl

theorem restorePart_failing (m : Mem) (failing : List Nat) :
    ((restorePart m failing).withEnv noEnv).mem.failedNear = failing ∧
      ((restorePart m failing).withEnv noEnv).nearOk 0 planAddr = true := by
  have e : ((restorePart m failing).withEnv noEnv).nearOk 0 planAddr = (restorePart [] []).nearOk 0 planAddr := rfl
  exact ⟨rfl, e.trans (by decide +kernel)⟩

theorem scan_near (st : Store) (ws : List FarWindow) (v : FarView) (a : Acc) : (st.scan ws v a).failedNear = a.failedNear := by
  unfold Store.scan
  generalize List.range st.slots = is
  induction is generalizing a with
  | nil => rfl
  | cons i is ih => exact ih _

/-- What SNAP.RESTORE meets on its way to a generation without sections, and how it ends. -/
theorem restore_meets (v : State) (gf : Nat) (g : Generation) (hm : (2, gf, 0) ∈ storeCases) (hw : v.windows 0 = [gibAt 0])
    (hf : v.far = viewOf (storeMem 2 gf 0)) (hg : (storeAt 0 2).generations [gibAt 0] v.far = [g]) (h0 : g.slot = 0) (h1 : g.sections = 0)
    (h2 : g.chunks = 0) (h3 : g.format = gf) (h4 : g.table = List.replicate 48 0) :
    let head := readFar v (headframeCmd 0) .empty 0 4096
    let table := readFar v (headframeCmd 0) ((storeAt 0 2).scan (v.windows 0) v.far head.2) ((storeAt 0 2).slotAt g.slot + 0x1000) (32 * g.sections)
    let r := restoreWork v 0 (storeAt 0 2) g [] snapPlan table.2
    Store.ofBytes 0 head.1 = some (storeAt 0 2) ∧ newestOf ((storeAt 0 2).generations (v.windows 0) v.far) = some g ∧
      ((List.range g.sections).map fun i => Section.ofBytes (listSlice table.1 (32 * i) 32)) = [] ∧
      (gf = 2 → v.mem.failedNear = [] → r.acc.readsOk = true ∧ r.failed = none) ∧
      (gf = 2 → v.mem.failedNear.contains (planAddr / 64) = true → v.nearOk 0 planAddr = true → r.acc.readsOk = false) ∧
      (gf = 1 → r.acc.readsOk = true ∧ r.failed = some wholeData) := by
  intro head table r
  have far : ∀ a n acc, a + n ≤ 2 ^ 30 → (readFar v (headframeCmd 0) acc a n).2.failedFar = acc.failedFar := fun a n acc h => by
    show (readFarIn (v.windows 0) v.far acc a n).2.failedFar = _
    rw [hw, hf]
    exact readFarIn_straight _ _ _ _ _ (viewOf_sound _) rfl (by decide) (Nat.zero_le _) (show a + n ≤ 0 + 2 ^ 30 by omega)
  have ha : table.2.failedFar = [] := by
    have hs : (storeAt 0 2).slotAt g.slot + 0x1000 + 32 * g.sections ≤ 2 ^ 30 := by rw [h0, h1]; decide
    refine (far _ _ _ hs).trans ?_
    rw [hw, hf]
    exact (scan_reads 0 2 gf 0 _).trans (far 0 4096 .empty (by decide))
  have hn : table.2.failedNear = [] := (readFar_near _ _ _ _ _).trans ((scan_near _ _ _ _).trans (readFar_near _ _ _ _ _))
  have ok : table.2.readsOk = true := by simp [Acc.readsOk, ha, hn]
  have e := restore_ends v (storeAt 0 2) g table.2 h2 ok
  refine ⟨?_, ?_, by rw [h1]; rfl, ?_, ?_, ?_⟩
  · show Store.ofBytes 0 (readFarIn (v.windows 0) v.far .empty 0 4096).1 = _
    rw [hw, hf]
    exact store_reads 0 hm
  · rw [hw, hg]; rfl
  · intro hg hx
    obtain ⟨e1, e2⟩ := e.1 (h3.trans hg)
    refine ⟨?_, e1⟩
    show r.acc.readsOk = true
    rw [e2, Acc.readsOk, readNear_healthy v _ _ _ _ hx, hn, Bool.and_eq_true]
    exact ⟨by rw [readNear_far, ha]; rfl, rfl⟩
  · intro hg hx hk
    have e2 := (e.1 (h3.trans hg)).2
    have f := readNear_failing v (headframeCmd 0) table.2 planAddr 320 planAddr (by decide) hk hx
    show r.acc.readsOk = false
    rw [e2, Acc.readsOk, List.isEmpty_eq_false_iff.mpr f, Bool.and_false]
  · intro hg
    obtain ⟨e1, e2⟩ := e.2 (h3.trans hg) h4
    exact ⟨by show r.acc.readsOk = true; rw [e2]; exact ok, e1⟩

/-- SnapshotAndRosterMessages: SNAP.RESTORE reads the store and its newest generation; one of format 2 is restored, or its read of
the history record fails; one of format 1 whose data digest is wrong is not. -/
theorem wit_SnapRestore (gf : Nat) (h : gf = 1 ∨ gf = 2) (failing : List Nat) :
    let v := (restorePart (storeMem 2 gf 0) failing).withEnv noEnv
    let g := genOf 2 gf 0
    let head := readFar v (headframeCmd 0) .empty 0 4096
    let table := readFar v (headframeCmd 0) ((storeAt 0 2).scan (v.windows 0) v.far head.2) ((storeAt 0 2).slotAt g.slot + 0x1000) (32 * g.sections)
    let r := restoreWork v 0 (storeAt 0 2) g [] snapPlan table.2
    Store.ofBytes 0 head.1 = some (storeAt 0 2) ∧ newestOf ((storeAt 0 2).generations (v.windows 0) v.far) = some g ∧
      ((List.range g.sections).map fun i => Section.ofBytes (listSlice table.1 (32 * i) 32)) = [] ∧
      (gf = 2 → failing = [] → r.acc.readsOk = true ∧ r.failed = none) ∧
      (gf = 2 → failing = [planAddr / 64] → r.acc.readsOk = false) ∧
      (gf = 1 → r.acc.readsOk = true ∧ r.failed = some wholeData) := by
  have hm : (2, gf, 0) ∈ storeCases := by obtain rfl | rfl := h <;> decide
  have hf := restorePart_far (storeMem 2 gf 0) failing
  have hw := restorePart_windows (storeMem 2 gf 0) failing
  obtain ⟨hb, hk⟩ := restorePart_failing (storeMem 2 gf 0) failing
  have hg : (storeAt 0 2).generations [gibAt 0] ((restorePart (storeMem 2 gf 0) failing).withEnv noEnv).far = [genOf 2 gf 0] := by
    rw [hf]; exact generation_reads 0 hm
  have m := restore_meets _ gf (genOf 2 gf 0) hm hw hf hg rfl rfl rfl rfl (genOf_table gf h)
  exact ⟨m.1, m.2.1, m.2.2.1, fun a b => m.2.2.2.1 a (hb.trans b), fun a b => m.2.2.2.2.1 a (by rw [hb, b]; decide) hk, m.2.2.2.2.2⟩

/-- SNAP.FILL from a store of the same device, in a window of its own: windows, stores and the number of sources. -/
def fillMsg : Taken :=
  takenOf 0x42 (payload 112 [(8, 2 ^ 30), (16, 1), (19, 2), (0x28, 2 ^ 64 - 1), (0x30, 1), (0x40, 2 ^ 30), (0x48, 2 ^ 30), (0x50, 1), (0x53, 2),
    (0x60, 2 ^ 30)])

/-- A part with no job, its link up, and a far memory. -/
def fillPart (m : Mem) : State :=
  { msgPart idleLevel 0 fillMsg with farMem := m, links := [(0, ⟨true, true, 2 ^ 40, false, true, 0⟩)] }

theorem fillPart_far (m : Mem) : ((fillPart m).withEnv noEnv).far = viewOf m := rfl

/-- SNAP.FILL as far as the store's bytes are not asked. -/
theorem fill_places : ∀ k ∈ [0, 1], passesB (fillPart (storeMem 3 2 k)) 0 fillMsg = true ∧
    FarWindow.ofBytes (listSlice fillMsg.payload 0 32) = gibAt 0 ∧ FarWindow.ofBytes (padTo 32 (listSlice fillMsg.payload 0x40 32)) = gibAt (2 ^ 30) ∧
    (fillPart (storeMem 3 2 k)).windowOk 0 (padTo 32 (listSlice fillMsg.payload 0 32)) = true ∧ (gibAt 0).persistent = true ∧
    (fillPart (storeMem 3 2 k)).windowOk 0 (padTo 32 (listSlice fillMsg.payload 0x40 32)) = true ∧ windowsApart [gibAt 0, gibAt (2 ^ 30)] = true ∧
    fillMsg.zero 0x31 15 = true ∧ fillMsg.zero 0x68 8 = true ∧ fillMsg.le 0x20 8 = 0 ∧ fillMsg.le 0x60 8 = 2 ^ 30 ∧ fillMsg.le 0x30 1 = 1 ∧
    fillMsg.le 0x28 8 = 2 ^ 64 - 1 := by
  decide +kernel

/-- The source of the fill, once its store is read. -/
def fillSource (k : Nat) : FillSource := ⟨0, gibAt (2 ^ 30), some (storeAt (2 ^ 30) 3), [genOf 3 2 k], false⟩

/-- A fill of a generation without chunks ends at once; where its only chunk fails, no source is left. -/
theorem fill_ends (v : State) (l : Fin 4) (dst : FarWindow) (at_ slot : Nat) (src : FillSource) (st : Store) (g : Generation) (n far : Nat)
    (h0 : src.number = 0) (h1 : src.store = some st) (h2 : src.gens = [g]) (h3 : src.failed = false) (hg : g.number = n) :
    let f : Filling := ((⟨v, [src], n, none, [], 0, 0, 0xFFFF, false, false, far⟩ : Filling).put dst at_ (List.replicate 8 0)).flush dst
    (g.chunks = 0 → (fillLoop l dst at_ slot [] 4 f).done = true) ∧ (g.chunks = 1 → (fillLoop l dst at_ slot [(0, 0)] 4 f).done = false) := by
  intro f
  have e : List.range 1 = [0] := rfl
  obtain ⟨hs, hn, ht, hv, hd, he⟩ : f.sources = [src] ∧ f.gen = n ∧ f.table = none ∧ f.verified = [] ∧ f.done = false ∧ f.empty = false :=
    ⟨rfl, rfl, rfl, rfl, rfl, rfl⟩
  generalize f = f at hs hn ht hv hd he
  constructor <;> intro h <;>
    simp [fillLoop, hs, hn, h0, h1, h2, h3, hg, ht, hv, hd, he, FillSource.holds, FillSource.keeps, h, Filling.takeTables, Filling.put, fillChunks,
      Filling.interrupt, Filling.flush, newestHeld, newestOf, e]

/-- SnapshotAndRosterMessages: SNAP.FILL reads its store and its source's, and ends well or with no source left. -/
theorem wit_SnapFill (k : Nat) (h : k = 0 ∨ k = 1) :
    let v := (fillPart (storeMem 3 2 k)).withEnv noEnv
    let head := v.fillRead 0 (gibAt 0) 0 4096
    let sources := head.2.2.fillSources 0 fillMsg 1
    let w := sources.2.reportFarIn [gibAt 0] (headframeCmd 0) ((storeAt 0 3).scan [gibAt 0] sources.2.far .empty)
    let slotTo := (storeAt 0 3).chooseSlot [gibAt 0] w.far
    let f0 : Filling := ⟨w, sources.1, (newestHeld sources.1 0 none).getD (2 ^ 64 - 1), none, [], 0, 0, 0xFFFF, false, false,
      (sources.1.map FillSource.headBytes).sum + (4096 + 4096 * (storeAt 0 3).slots)⟩
    let f (faults : List (Nat × Nat)) : Filling := fillLoop 0 (gibAt 0) ((storeAt 0 3).slotAt slotTo) slotTo faults 4
      ((f0.put (gibAt 0) ((storeAt 0 3).slotAt slotTo) (List.replicate 8 0)).flush (gibAt 0))
    Store.ofBytes 0 head.1 = some (storeAt 0 3) ∧ newestHeld sources.1 0 none = some 1 ∧ (k = 0 → (f []).done = true) ∧
      (k = 1 → (f [(0, 0)]).done = false) := by
  have hm : (3, 2, k) ∈ storeCases := by obtain rfl | rfl := h <;> decide
  have hf := fillPart_far (storeMem 3 2 k)
  generalize (fillPart (storeMem 3 2 k)).withEnv noEnv = v at hf
  obtain ⟨-, -, p1, -, -, -, -, -, -, -, p2, -, -⟩ := fill_places k (by obtain rfl | rfl := h <;> decide)
  have straight : ∀ base, (readFarIn [gibAt base] (viewOf (storeMem 3 2 k)) .empty base 4096).2.failedFar = [] := fun base =>
    readFarIn_straight _ _ _ _ _ (viewOf_sound _) rfl (show 0 + 2 ^ 30 ≤ 2 ^ 64 by decide) (Nat.le_refl _)
      (show base + 4096 ≤ base + 2 ^ 30 by omega)
  have h0 : ∀ base, v.fillRead 0 (gibAt base) base 4096 = (peekIn [gibAt base] v.far base 4096, true, v) := fun base =>
    v.fillRead_sound 0 (gibAt base) base 4096 (by rw [hf]; exact straight base)
  have hs : v.fillSources 0 fillMsg 1 = ([fillSource k], v) := by
    have e : List.range 1 = [0] := rfl
    have d : v.reportFarIn [gibAt (2 ^ 30)] (headframeCmd 0) ((storeAt (2 ^ 30) 3).scan [gibAt (2 ^ 30)] v.far .empty) = v :=
      v.reportFarIn_sound _ _ _ (by rw [hf]; exact scan_reads (2 ^ 30) 3 2 k .empty)
    have g : ((storeAt (2 ^ 30) 3).generations [gibAt (2 ^ 30)] v.far).filter
        (fun g => decide (g.format = 2) || decide (g.format = 3)) = [genOf 3 2 k] := by
      rw [hf, generation_reads (2 ^ 30) hm]; rfl
    have o : Store.ofBytes (2 ^ 30) (peekIn [gibAt (2 ^ 30)] v.far (2 ^ 30) 4096) = some (storeAt (2 ^ 30) 3) := by
      rw [hf]; exact store_reads (2 ^ 30) hm
    simp only [State.fillSources, e, List.foldl_cons, List.foldl_nil, Nat.mul_zero, Nat.add_zero, p1, p2, h0, o, d, g, List.nil_append]
    rfl
  have hr : v.reportFarIn [gibAt 0] (headframeCmd 0) ((storeAt 0 3).scan [gibAt 0] v.far .empty) = v :=
    v.reportFarIn_sound _ _ _ (by rw [hf]; exact scan_reads 0 3 2 k .empty)
  have hn : newestHeld [fillSource k] 0 none = some 1 := rfl
  intro v' head sources w slotTo f0 f
  have e1 : head = (peekIn [gibAt 0] v.far 0 4096, true, v) := h0 0
  have e2 : sources = ([fillSource k], v) := by simp only [sources, e1, hs]
  have ends := fill_ends w 0 (gibAt 0) ((storeAt 0 3).slotAt slotTo) slotTo (fillSource k) (storeAt (2 ^ 30) 3) (genOf 3 2 k) 1
    (([fillSource k].map FillSource.headBytes).sum + (4096 + 4096 * (storeAt 0 3).slots)) rfl rfl rfl rfl rfl
  have e3 : f0 = ⟨w, [fillSource k], 1, none, [], 0, 0, 0xFFFF, false, false,
      ([fillSource k].map FillSource.headBytes).sum + (4096 + 4096 * (storeAt 0 3).slots)⟩ := by
    simp only [f0, e2, hn, Option.getD_some]
  refine ⟨?_, ?_, ?_, ?_⟩
  · have o := store_reads 0 hm
    rw [← hf] at o
    simpa only [e1] using o
  · rw [e2]; exact hn
  · intro hk; simp only [f, e3]; exact ends.1 hk
  · intro hk; simp only [f, e3]; exact ends.2 hk

/-- FarMovesAndSnapshots: SNAP_WRITE, as far as the store's bytes are not asked: its descriptor passes; the step is one to be
written with an interval of 1, and not with an interval of 7 in the second step. -/
theorem write_places : ∀ p ∈ [(1, 1), (7, 2)],
    goes ((snapPart .running none p.1 takeMsg (storeMem 3 2 0)).updLvl 0 fun x => { x with lstep := p.2 }) isExchange 0x20 (fun r =>
      snapDesc (((snapPart .running none p.1 takeMsg (storeMem 3 2 0)).updLvl 0 fun x => { x with lstep := p.2 }).dispatched 0 0 r)
        0 r.img r.en = some (0, p.1, snapPlan) && decide (r.job.replay.isSome = false ∧ r.job.snapTake = none) &&
      decide (((r.job.poolStep r.lstep - 1) % p.1 = 0) = (p.1 = 1))) = true := by decide +kernel

/-- The part about to write, with the link of its window up or down. -/
def writePart (up : Bool) (m : Mem) : State :=
  { snapPart .running none 1 takeMsg m with links := [(0, ⟨up, true, 2 ^ 40, false, true, 0⟩)] }

/-- What a command of such a part sees, once dispatched. -/
theorem writePart_sees (up : Bool) (m : Mem) (r : Ready) :
    let u := ((writePart up m).dispatched 0 0 r).withEnv noEnv
    u.windows 0 = [gibAt 0] ∧ u.far = if up then viewOf m else ⟨m, [], [], List.range 16⟩ := by
  intro u
  have d := State.dispatched_dispatches (writePart up m) 0 0 r
  constructor
  · obtain ⟨p, c, k, hj⟩ := d.job
    have e : u.windows 0 = ((writePart up m).dispatched 0 0 r).windows 0 := rfl
    rw [e, State.windows, hj]; rfl
  · have e : u.far = ((writePart up m).withEnv noEnv).far :=
      (congrArg (fun s => (State.withEnv s noEnv).far) d.rest).trans rfl
    rw [e]
    cases up <;> rfl

/-- FarMovesAndSnapshots: its store, of format 3 or 2, is read through the window, once dispatched, and no read of it fails; with the
link down the first read fails. -/
theorem wit_SnapWrite (p : Nat × Nat) (h : p = (3, 2) ∨ p = (2, 2)) (up : Bool) :
    ∃ r, (writePart up (storeMem p.1 p.2 0)).ready 0 0 isExchange 0x20 = some r ∧
      let u := ((writePart up (storeMem p.1 p.2 0)).dispatched 0 0 r).withEnv noEnv
      let head := readFar u (r.cmd 0 0) .empty 0 4096
      (up = true → Store.ofBytes 0 head.1 = some (storeAt 0 p.1) ∧ head.2.failedFar = [] ∧
        ((storeAt 0 p.1).scan (u.windows 0) u.far head.2).failedFar = []) ∧
      (up = false → head.2.failedFar ≠ []) := by
  have hm : (p.1, p.2, 0) ∈ storeCases := by obtain rfl | rfl := h <;> decide
  have g : goes (writePart up (storeMem p.1 p.2 0)) isExchange 0x20 (fun _ => true) = true := by
    obtain rfl | rfl := h <;> cases up <;> decide +kernel
  obtain ⟨r, hr, -⟩ := goes_ready g
  refine ⟨r, hr, ?_⟩
  obtain ⟨hw, hf⟩ := writePart_sees up (storeMem p.1 p.2 0) r
  generalize (((writePart up (storeMem p.1 p.2 0)).dispatched 0 0 r).withEnv noEnv) = u at hw hf
  intro u' head
  have e : head = readFarIn [gibAt 0] u.far .empty 0 4096 := by
    show readFarIn (u.windows 0) u.far .empty 0 4096 = _
    rw [hw]
  constructor
  · intro hu
    rw [hu, if_pos rfl] at hf
    have f : head.2.failedFar = [] := by
      rw [e, hf]
      exact readFarIn_straight _ _ _ _ _ (viewOf_sound _) rfl (show 0 + 2 ^ 30 ≤ 2 ^ 64 by decide) (Nat.le_refl _) (show 0 + 4096 ≤ 0 + 2 ^ 30 by decide)
    refine ⟨?_, f, ?_⟩
    · rw [e, hf]; exact store_reads 0 hm
    · show ((storeAt 0 p.1).scan (u.windows 0) u.far head.2).failedFar = []
      rw [hw, hf, scan_reads]
      exact f
  · intro hu
    rw [hu] at hf
    rw [e, hf]
    exact readFarIn_failing _ _ _ _ _ (by decide) (windowOf_single _ _ (Nat.le_refl _) (by decide)) rfl

/-! ### Copies out, resets, errors, power and the Assay -/

/-- A part with a message taken, and another of its kind being worked or not; the Assay's link up, one record and one log entry. -/
def copyPart (x : LevelState) (m : Taken) (busy : Bool) : State :=
  let s := msgPart x 0 m
  let a := s.asy
  { s with
    fns := tabPut .fresh s.fns 0 { s.fn 0 with taken := m :: if busy then [{ m with slot := 1, working := true }] else [] },
    asy := { a with linkUp := true, vasy := true, tot := { a.tot with records := [(0, payload 256 [(8, 5)])], log := [payload 32 []] } } }

/-- The messages: LEDGER.READ into the window and into host memory, ATTEST.QUOTE, LOG.EXPORT, ASSAY.READ. -/
def ledgerMsg (kind : Nat) : Taken := takenOf 0x60 (payload 16 [(2, 1), (4, kind)])
def quoteMsg (junk : Nat) : Taken := takenOf 0x62 (payload 64 [(0x30, junk)])
def exportMsg (seq dest tallies : Nat) : Taken := takenOf 0x63 (payload 32 [(0, seq), (8, 1), (0xC, dest), (0xE, tallies)])
def assayMsg (kind count from_ : Nat) : Taken := takenOf 0x61 (payload 24 [(1, kind), (2, count), (8, from_)])

/-- A Level that has logged three entries. -/
def loggedLevel : LevelState := { openLevel .running with log := ⟨recorded, 3, 0, 4, 4⟩ }

/-- CopiesOut: the rows beside another of their kind, and alone; a quote with reserved bytes set; a log not yet so far; records and
log entries of the Assay that are there and that are not. -/
theorem wit_CopiesOut :
    (∀ k ∈ [0, 1], passesB (copyPart idleLevel (ledgerMsg k) true) 0 (ledgerMsg k) = true ∧
      passesB (copyPart idleLevel (ledgerMsg k) false) 0 (ledgerMsg k) = true ∧ (ledgerMsg k).le 4 1 = k ∧ (ledgerMsg k).le 2 2 = 1 ∧
      (ledgerMsg k).zero 6 2 = true) ∧ idleLevel.ledgerArea = some (0, 4) ∧
    (∀ j ∈ [0, 1], passesB (copyPart idleLevel (quoteMsg j) true) 0 (quoteMsg j) = true ∧
      passesB (copyPart idleLevel (quoteMsg j) false) 0 (quoteMsg j) = true ∧ (quoteMsg j).zero 0x30 16 = decide (j = 0)) ∧
    (∀ d ∈ [0, 1], passesB (copyPart loggedLevel (exportMsg 0 d 2) true) 0 (exportMsg 0 d 2) = true ∧
      passesB (copyPart loggedLevel (exportMsg 0 d 2) false) 0 (exportMsg 0 d 2) = true ∧
      passesB (copyPart loggedLevel (exportMsg 3 d 2) false) 0 (exportMsg 3 d 2) = true ∧ (exportMsg 0 d 2).le 0 8 < 3 ∧
      (exportMsg 0 d 2).le 0xC 1 = d ∧ (exportMsg 0 d 2).le 0xE 2 = 2 ∧ (exportMsg 0 d 2).zero 0x12 6 = true ∧
      (exportMsg 0 d 2).le 0x18 8 % 4096 = 0) ∧
    (∀ p ∈ [(0, 0, 0), (1, 1, 0), (1, 1, 6), (2, 1, 0), (2, 1, 1), (3, 0, 0)],
      let m := assayMsg p.1 p.2.1 p.2.2
      let s := copyPart idleLevel m false
      passesB s 0 m = true ∧ s.assayBar 0 m = none ∧ m.le 1 1 = p.1 ∧
        ((s.asy.tot.records.filter fun r => decide (r.1 = m.le 0 1) && decide (m.le 8 8 ≤ listLe r.2 8 8)) = []) = (p.2.2 = 6) ∧
        ((s.asy.tot.log.drop (m.le 8 8)).take (m.le 2 2) = []) = (p.1 ≠ 2 ∧ p.2.1 = 0 ∨ p.2.2 ≠ 0)) ∧
    (let x := { openLevel .running with tallyLog := [(0, 2, 0)] }
     let s := { partOf x with cad := { State.reset.cad with ordinal := 1 } }
     (s.lvl 0).tallyLog = [(0, 2, 0)] ∧ (s.lvl 0).log.units < 2 ^ 23 ∧ (s.lvl 0).present = true ∧ 0 < s.cad.ordinal) ∧
    (let m := assayMsg 0 0 0
     let s := copyPart idleLevel m true
     passesB s 0 m = true ∧ m.le 1 1 = 0 ∧ ({ s with asy := { s.asy with linkUp := false } } : State).asy.linkUp = false ∧
       ∃ y ∈ (s.fn 0).taken, y.msg = 0x61 ∧ y.working = true ∧ ∀ q ∈ s.asy.waiting, q.for_ ≠ .message 0 y.slot) := by decide +kernel

/-- A part whose job runs, drains or is open, with Level 0's quadrants; held in reset or not, rejected or not. -/
def bootPart (ph : Phase) (f : Boot → Boot) : State := let s := partOf (openLevel ph); { s with boot := f s.boot }

/-- Resets: RESET_L, THERMTRIP_L, the Adit and the firmware's state each way, and a job in each phase or none, none of them closing. -/
theorem wit_Resets :
    (bootPart .running id).aditUp = true ∧ (bootPart .running id).wellFormed = true ∧
    (bootPart .running fun b => { b with perstHigh := false }).aditUp = false ∧
    (bootPart .running id).boot.resetHigh = true ∧ (bootPart .running fun b => { b with resetHigh := false }).boot.resetHigh = false ∧
    (bootPart .running id).boot.thermtripHigh = true ∧
    (bootPart .running fun b => { b with thermtripHigh := false }).boot.thermtripHigh = false ∧
    (bootPart .running fun b => { b with fw := .rejected }).boot.fw = .rejected ∧ (bootPart .running id).boot.fw = .running ∧
    (∀ ph ∈ [Phase.opening, .running, .draining, .opened], ∃ j, ((bootPart ph id).lvl 0).job = some j ∧ j.closing = none ∧
      j.phase = ph) ∧
    ((bootPart .running id).lvl 1).job = none := by
  have jobs : ∀ ph ∈ [Phase.opening, .running, .draining, .opened], ∃ j, ((bootPart ph id).lvl 0).job = some j ∧ j.closing = none ∧
      j.phase = ph := fun ph _ => ⟨{ jobOf noDecl with phase := ph }, rfl, rfl, rfl⟩
  refine ⟨?_, ?_, ?_, ?_, ?_, ?_, ?_, ?_, ?_, jobs, ?_⟩ <;> decide +kernel

/-- A firmware image of 4,096 bytes of key 0, its board area at 512, a magic right or wrong. -/
def fwWindow (magic : Nat) : Mem :=
  memWrite (memWrite [] 0 (payload 36 [(0, magic), (4, 1), (8, 1), (0x10, 4096), (0x18, 512), (0x1C, 64)])) 512 [40]

/-- A part that awaits its image. -/
def fwPart (magic revoked : Nat) : State :=
  bootPart .running fun b => { b with fw := .awaiting, window := fwWindow magic, revoked := BitVec.ofNat 4 revoked }

/-- FirmwareRuns: an image of a wrong format; one of a revoked key; one whose key is not. Whether that key's digest is the fused one
is Config's, so the clauses behind that check have no witness by computation. BRINGUP_COMPLETE with a quadrant trained, and with none,
and cut short amid its fuses; a link half with IDE; a part that is awake and one that is not. -/
theorem wit_FirmwareRuns :
    (fwPart 0 0).aditUp = true ∧ (fwPart 0x495A5349 1).aditUp = true ∧ (fwPart 0x495A5349 0).aditUp = true ∧
    (let s := bootPart .running fun b => { b with fw := .verifying, fwFlags := 1, svn := b.rollback + 2 }
     s.boot.fw = .verifying ∧ s.boot.awake = true ∧ bitAt s.boot.fwFlags 0 = true ∧ s.boot.svn = s.boot.rollback + 2) ∧
    (bootPart .running fun b => { b with resetHigh := false }).boot.awake = false ∧
    (fwPart 0 0).boot.fw = .awaiting ∧ fwFormatOk (fwPart 0 0).boot.window = false ∧
    fwFormatOk (fwPart 0x495A5349 1).boot.window = true ∧
    (fwPart 0x495A5349 1).boot.revoked.getLsbD (FwImage.ofMem (fwPart 0x495A5349 1).boot.window).key = true ∧
    (fwPart 0x495A5349 0).boot.revoked.getLsbD (FwImage.ofMem (fwPart 0x495A5349 0).boot.window).key = false ∧
    (bootPart .running id).boot.fw ≠ .awaiting ∧ (bootPart .running id).boot.fw ≠ .verifying ∧
    (let b := (bootPart .running fun b => { b with fw := .verifying, board := { b.board with ceiling := 40 } }).boot
     b.fw = .verifying ∧ (∀ d < 8, trainedRate b.board.ceiling ((List.replicate 32 40).getD d 0) ≠ 0) ∧
       ∀ q < 4, ¬∀ d < 8, trainedRate b.board.ceiling (([] : List Nat).getD (8 * q + d) 0) ≠ 0) ∧
    (let s := { bootPart .running id with links := [(0, ⟨true, true, 2 ^ 40, true, true, 0⟩)] }
     (s.link 0).up = true ∧ (s.link 0).ide = true ∧ (s.link 1).up = false) ∧
    (bootPart .running id).boot.awake = true := by decide +kernel

/-- A part whose Level 0 runs, or runs with a window on half 0, with that half up. -/
def errPart (used : Bool) : State :=
  let j := if used then jobOf { noDecl with windows := [farWin] } else jobOf noDecl
  { partOf (levelOf (imageOf [] 0) j) with links := [(0, ⟨true, true, 2 ^ 40, false, true, 0⟩)] }

/-- ErrorsAndDevices: sites that Level 0 owns and that Level 1 does not; scrubbed addresses beyond and within a device, failed before
and not, first and later corrections; halves that come up with and without a Type 3 device; a half down, up, and under a window. -/
theorem wit_ErrorsAndDevices :
    (errPart false).nearOk 0 0x40 = true ∧ ((errPart false).lvl 0).ownsCore 3 = true ∧ ((errPart false).lvl 0).present = true ∧
    (errPart false).nearOk 1 0x40 = false ∧ ((errPart false).lvl 1).ownsCore 3 = false ∧ ((errPart false).lvl 1).present = false ∧
    (∃ l : Fin 10, ((errPart false).lvl 0).usesLink l.val = true) ∧
    (errPart false).quadBytes ≤ 8 * 2 ^ 33 ∧ 8 * 0 < (errPart false).quadBytes ∧ (errPart false).mem.failedNear.contains 0 = false ∧
    (let m := { (errPart false).mem with failedNear := [0], corrected := [(0, 1)] }
     m.failedNear.contains (deviceNear 0 0 / 64) = true ∧ tabGet 0 m.corrected 0 + 1 = 2) ∧ tabGet 0 (errPart false).mem.corrected 0 + 1 = 1 ∧
    (∀ t ∈ [false, true], let k := (errPart false).boot.board.linkHalf 4 ⟨true, t, 2 ^ 40, false, 0, true⟩
      (errPart false).boot.fw = .running ∧ k.up = true ∧ k.type3 = t) ∧
    ((errPart false).link 1).up = false ∧ ((errPart false).link 0).up = true ∧
    (∃ j w, ((errPart true).lvl 0).job = some j ∧ w ∈ j.decl.windows ∧ bitAt w.links.toNat 0 = true) := by
  have used : ∃ j w, ((errPart true).lvl 0).job = some j ∧ w ∈ j.decl.windows ∧ bitAt w.links.toNat 0 = true :=
    ⟨jobOf { noDecl with windows := [farWin] }, farWin, rfl, List.mem_singleton.mpr rfl, rfl⟩
  simp only [used, and_true]
  decide +kernel

/-- ErrorsAndDevices: no Level has a window on half 0 where no job declares one. -/
theorem wit_unused : ∀ l : Fin 4, ((errPart false).lvl l).job = none ∨ ((errPart false).lvl l).job = some (jobOf noDecl) := by decide +kernel

/-- Four FILL_SETs of level 4, one on each core of Q3, at angle 0x7FF9, and a pass there at 0x8000: the image of the example after
R536. -/
def rampImage : Image :=
  { imageOf [] (passD false false ||| fields [(11, 0)]) with
    entries := (List.range 4).map (fun k => { entryOf (12 + k) 1 4 with angle := 0x7FF9 }) ++
      (List.range 4).map fun k => { entryOf (12 + k) 0x10 0 with angle := 0x8000 },
    descs := leBytes 128 (fields [(12, 15)]) }

/-- A part that runs it, at a count of the step, at bin 36, with the frames sent already. -/
def rampPart (angle : Nat) (framed : List Nat) : State :=
  let s := partOf (levelOf rampImage (jobOf noDecl))
  { s with
    now := angle * 20000000 / 65536 + 1,
    pwr := { s.pwr with framed := framed, quads := s.pwr.quads.map fun p => { p with bin := 36 } } }

/-- PowerRows and PartEventsComplete: frames due and none, with RESET_L high. -/
theorem wit_forecast :
    (rampPart 0x7FB9 []).frameDue 0 0 = true ∧ (rampPart 0x7FB9 []).boot.resetHigh = true ∧ (rampPart 0x7FB0 []).frameDue 0 0 = false := by
  decide +kernel

/-- A quadrant with some values, in a part at a time in clocks. -/
def powerPart (f : QuadPower → QuadPower) : State :=
  let s := partOf (levelOf (imageOf [] 0) (jobOf noDecl))
  { s with pwr := { s.pwr with quads := s.pwr.quads.set 0 (f (s.quad 0)) }, now := 3000000 }

/-- PowerRows and LimitRows: four quadrants; a bin on its way and none; a bound on the adaptive voltage; readings on each side of
each threshold. -/
theorem wit_PowerRows :
    (powerPart id).pwr.quads.length = 4 ∧ ((powerPart id).quad 0).pendingBin = none ∧
    ((powerPart fun p => { p with pendingBin := some 33 }).quad 0).pendingBin = some 33 ∧
    ((powerPart id).quad 0).adjustedAt = none ∧ ((powerPart id).quad 0).limitBin = none ∧
    ¬∀ t, ((powerPart fun p => { p with adjustedAt := some 2999999 }).quad 0).adjustedAt = some t → t + 2000000 ≤ (powerPart id).now := by
  have late : ¬∀ t, ((powerPart fun p => { p with adjustedAt := some 2999999 }).quad 0).adjustedAt = some t →
      t + 2000000 ≤ (powerPart id).now := fun h => absurd (h 2999999 rfl) (by decide +kernel)
  simp only [late, not_false_eq_true, and_true]
  decide +kernel

/-- LimitRows: temperatures on each side of each threshold, and samples that make each mean high and low, a second after the first. -/
theorem wit_LimitRows :
    let mean (samples : List (Nat × Nat)) (clocks : Nat) : Nat :=
      let xs := (samples.filter fun x => decide (2 * 10 ^ 9 < x.1 + clocks)).map Prod.snd
      xs.sum / xs.length
    (∀ p ∈ [80, 89, 90, 99, 100, 109, 110, 124], (∀ x ∈ (⟨[p], 0⟩ : LimitReadings).hubTemp :: (⟨[p], 0⟩ : LimitReadings).temps.take 4, x < 125) ∧
      max ((⟨[p], 0⟩ : LimitReadings).temps.getD 0 0) 0 = p) ∧
    (∃ x ∈ (⟨[125], 0⟩ : LimitReadings).hubTemp :: (⟨[125], 0⟩ : LimitReadings).temps.take 4, 125 ≤ x) ∧
    2100000000 < mean [(2 * 10 ^ 9, 2100000001)] 2000000 ∧ ¬(2100000000 < mean [(2 * 10 ^ 9, 2100000000)] 2000000) ∧
    1600000000 < mean [(19 * 10 ^ 8, 1600000001)] 200000000 ∧ ¬(1600000000 < mean [(18 * 10 ^ 8, 1700000000)] 200000000) ∧
    (∃ t, some 0 = some t ∧ t + 2000000000 ≤ 2 * 10 ^ 9) ∧ mean [(1, 1499999999)] 2000000000 < 1500000000 := by
  refine ⟨?_, ?_, ?_, ?_, ?_, ?_, ⟨0, rfl, by decide⟩, ?_⟩ <;> decide +kernel

/-- A part whose Assay has or has not its supply; its link down or up; a frame seen, a record asked for and formed. -/
def assayPart (vasy linkUp done : Bool) : State :=
  let s := partOf idleLevel
  { s with asy := { s.asy with
    vasy := vasy, linkUp := linkUp, done := done, sealed_ := true, lastFrame := some 0, waiting := [⟨0, 0, .i3c, some []⟩],
    tot := { s.asy.tot with time := 10 ^ 9 } } }

/-- EnergyIsConserved, AssayMeasures, AssayCommands: nine lines and eight contexts, with engine time and with none; the Assay with and
without its supply; a frame late; a link down long enough, and up; a record to be signed; a command in progress and none. -/
theorem wit_Assay :
    (List.replicate 9 AsyLine.zero).length = 9 ∧ (List.replicate 8 1).length = 8 ∧ (List.replicate 8 0).sum = 0 ∧
    (assayPart true false true).asy.vasy = true ∧ (assayPart false false true).asy.vasy = false ∧
    (assayPart true false true).asy.linkUp = false ∧ (assayPart true true true).asy.linkUp = true ∧
    (assayPart true false true).asy.lastTick / 20000000 < (assayPart true false true).asy.tot.time / 20000000 ∧
    (assayPart true false true).asy.waiting = [⟨0, 0, .i3c, some []⟩] ∧ (assayPart true false true).asy.sealed_ = true ∧
    (assayPart true false true).asy.done = true ∧ (assayPart true false false).asy.done = false ∧
    (assayPart true false true).asy.requested < 8 ∧
    8 ≤ { (assayPart true false true).asy with waiting := List.replicate 8 ⟨0, 0, .i3c, none⟩ }.requested ∧
    (assayPart true false true).asy.lastFrame.isSome = true ∧
    ({ (assayPart true false true).asy with lastFrame := none } : AssayState).lastFrame = none ∧
    (assayPart false false true).asy.openedDark = [] ∧
    ({ (assayPart false false true).asy with openedDark := [0] } : AssayState).openedDark.count 0 = 1 := by decide +kernel

/-- A frame is late where the cycle takes 10 ms. -/
theorem wit_frameLate : (assayPart true false true).frameLate = true := by decide +kernel

/-- LatchingReads: the functions that may read a Level's pair, and one that may not. ZrcRoundTrip: a segment of 128 bytes. -/
theorem wit_LatchingReads : (∀ p ∈ [(0, 0), (0, 3), (1, 0), (4, 3)], p.1 = 0 ∨ p.1 = p.2 + 1) ∧ ¬((2 : Nat) = 0 ∨ 2 = 0 + 1) ∧
    (partOf idleLevel).aditUp = true ∧ State.reset.aditUp = false ∧ (List.replicate 128 (0 : Byte)).length = 128 := by decide +kernel

/-- PartEventsComplete: the condition of each clause about resets, firmware, errors and devices. A COMMIT is met by an image whose
format is wrong, and a token whose signature verifies is Config's, as is the voltage of a bin. -/
theorem wit_PartEventsComplete :
    (bootPart .running fun b => { b with resetHigh := false }).boot.thermtripHigh = true ∧
    (let s := errPart false
     s.aditUp = true ∧ s.boot.awake = true ∧ s.boot.resetHigh = true ∧ s.boot.thermtripHigh = true ∧ s.boot.romDone = true ∧ s.boot.fw = .running ∧
     s.nearOk 0 (0x40 : BitVec 40).toNat = true ∧ deviceNear 0 0 / 64 ∉ s.mem.failedNear ∧ (s.link 0).up = true ∧
     (∃ info : LinkInfo, info.up = true)) ∧
    (let s := bootPart .running fun b => { b with fw := .verifying, board := { b.board with ceiling := 40 } }
     s.boot.fw = .verifying ∧ (s.train ⟨List.replicate 32 40, List.replicate 32 32, true, [], none⟩).mem.quads ≠ 0) ∧
    ((fwPart 0 0).boot.fw = .awaiting ∧ (fwPart 0 0).verifyImage.1 ≠ 0) ∧
    ((powerPart id).quad 0).adjustedAt = none ∧
    ((powerPart fun p => { p with pendingBin := some 33 }).quad 0).pendingBin = some 33 ∧
    (∀ p ∈ [605, 850], ((powerPart fun q => { q with millivolts := p }).quad 0).millivolts = p) ∧
    (assayPart true false true).asy.waiting = [⟨0, 0, .i3c, some []⟩] ∧ (assayPart false false true).asy.vasy = false := by
  have up : ∃ info : LinkInfo, info.up = true := ⟨⟨true, true, 2 ^ 40, false, 0, true⟩, rfl⟩
  simp only [up, and_true]
  decide +kernel

/-! ### Worked examples of the spec -/

/-- 06_formats.md, the example after R152: v = 1 + 2^-9 + 2^-11 into bfloat16 rounds up from r = 0xB000. -/
theorem test_stochastic :
    let v : Machine.Num := .fin false 2053 (-11)
    ([0x9000, 0xAFFF, 0xB000, 0xC000].map fun r => (convertNum .bf16 ⟨false, true, false⟩ r v).code) = [0x3F80, 0x3F80, 0x3F81, 0x3F81] ∧
      (convertNum .bf16 ⟨false, false, false⟩ 0xC000 v).code = 0x3F80 := by decide +kernel

/-- 06_formats.md, the example after R157: 3.0, 0.01, -2.9 and 0.0001 into E4M3; with FLUSH the last is flushed. -/
theorem test_quantise :
    let xs := [0x40400000, 0x3C23D70A, 0xC039999A, 0x38D1B717].map (decodeCode .f32)
    let q := quantBlock .e4m3 false none xs
    q.scale = 0x78 ∧ q.codes.map Prod.fst = [0x7C, 0x3A, 0xFC, 0x07] ∧
      (quantBlock .e4m3 true none xs).codes.getLast? = some (0, true) := by decide +kernel

/-- Bfloat16 operands of some products, each group given whole. -/
def bfPairs (xs : List (Nat × Nat)) : List (Opnd × Opnd) := xs.map fun p => (opnd .bf16 false none p.1, opnd .bf16 false none p.2)

/-- 07_accumulation.md, the first example: five groups, 2^60, three times 1.0, and -2^60; the drain writes 3.0. -/
theorem test_accumulate :
    let x := (cellResult ([(0x4E80, 0x4E80), (0x3F80, 0x3F80), (0x3F80, 0x3F80), (0x3F80, 0x3F80), (0xCE80, 0x4E80)].map fun p =>
      bfPairs [p])).1
    x.bits = 0x023B00000000000000000018 ∧ (convertNum .bf16 ⟨false, false, false⟩ 0 x.num).code = 0x4040 ∧ x.loss = false := by decide +kernel

/-- 07_accumulation.md, the second example: 2^130, a NaN and six times 2^100 in one group. -/
theorem test_accumulate_nan :
    let six := List.replicate 6 (0x5880, 0x5880)
    let x := (cellResult [bfPairs ((0x6000, 0x6000) :: (0x7FC1, 0x3F80) :: six)]).1
    let y := (cellResult [bfPairs ((0x6000, 0x6000) :: six)]).1
    x.bits = 0x068100008000000C00000000 ∧ (convertNum .bf16 ⟨false, false, false⟩ 0 x.num).code = 0x7FC0 ∧
      convertNum .bf16 ⟨false, false, false⟩ 0 y.num = ⟨0x7F80, true, false, false⟩ ∧
      convertNum .bf16 ⟨false, false, true⟩ 0 y.num = ⟨0x7F7F, false, true, false⟩ := by decide +kernel

/-- 07_accumulation.md, the example after R184: the maximum and the minimum of [3.0, NaN, 3.0, -0, +0, NaN], and of two NaNs. -/
theorem test_reduce :
    let xs : List (BitVec 32 × Nat) := [(0x40400000, 0), (0x7FC00001, 1), (0x40400000, 2), (0x80000000, 3), (0, 4), (0x7FC00000, 5)]
    xs.tail.foldl maxCand (xs.headD (0, 0)) = (0x40400000, 0) ∧ xs.tail.foldl minCand (xs.headD (0, 0)) = (0x80000000, 3) ∧
      maxCand (0x7FC00001, 0) (0x7FC00002, 1) = (0x7FC00000, 0) := by decide +kernel

/-- 10_sparsity.md, the example after R230: eight tokens, four experts, K 2 and CAPACITY 3. -/
theorem test_slots :
    let d := { RouteDesc.ofNat 0 with experts := 4, k := 2, capacity := 3, tokens := 8 }
    let choices := [[1, 0], [1, 2], [1, 3], [1, 0], [2, 1], [0, 1], [2, 3], [1, 2]].map fun c => c.map fun e => (e, (0 : BitVec 32))
    let t := (fillSlots d choices).1
    ([0, 1, 2, 3].map fun e => ((tabGet ⟨[], 0⟩ t e).slots.map fun s => (s.1, s.2.1), (tabGet ⟨[], 0⟩ t e).dropped)) =
      [([(5, 0), (0, 1), (3, 1)], 0), ([(0, 0), (1, 0), (2, 0)], 4), ([(4, 0), (6, 0), (1, 1)], 1), ([(2, 1), (6, 1)], 0)] := by
  decide +kernel

/-- The same example with FORM 2: each table has one mask of 32 bytes, bits 3 to 31 set; that of E3, with two slots, also bit 2. -/
theorem test_slot_masks :
    let d := { RouteDesc.ofNat 0 with experts := 4, k := 2, capacity := 3, tokens := 8, form := 2 }
    let t (n : Nat) : SlotTable := ⟨List.replicate n (0, 0, 0), 0⟩
    listLe ((t 3).bytes d 0 1) 64 4 = 0xFFFFFFF8 ∧ listLe ((t 2).bytes d 3 1) 64 4 = 0xFFFFFFFC := by decide +kernel

/-- 22_assay.md, the example after R516, in units of 2^-16 microjoules: the shares of the channels, and L0's lines. -/
theorem test_energy :
    let u (x : Nat) : Nat := x * 65536
    let rails := [u 3100000, u 2900000, u 1800000, u 150000, u 4400003, 0, 0, 0, 0, 0]
    let map : List (BitVec 8) := [0x03, 0x04, 0, 0]
    let lines := addLines (List.replicate 9 .zero) [0, 0, 60000000, 20000000, 0, 0, 0, 0] (u 6000000) (u 2200001 + 32768)
    ([0, 1, 4].map (channelShare map rails)) = [(u 6000000, u 2200001 + 32768), (u 1800000, u 1100000 + 49152), (u 150000, u 1100000 + 49152)] ∧
      ([2, 3, 8].map fun i => ((lines.getD i .zero).measured, (lines.getD i .zero).allocated)) =
        [(u 4500000, u 1650001 + 8192), (u 1500000, u 550000 + 24576), (0, 0)] := by decide +kernel

/-- 23_power.md, the example after R536: the four FILL_SETs make one frame, QUAD 3, KIND 1 and 414 A: nibbles D, 6, 8, F. -/
theorem test_frame :
    let s := (rampPart 0x7FB9 []).sendForecast
    (s.pwr.frames, s.pwr.lf.map Prod.snd) = (1, [0xD68F#16]) := by decide +kernel

/-- The same example: the pass at 0x8000 takes over every cell and changes nothing, so it has no frame. -/
theorem test_frame_pass :
    let s := rampPart 0x7FC0 ((rampPart 0x7FB9 []).sendForecast.pwr.framed)
    let s := (List.range 4).foldl (fun (s : State) k => s.setCore (12 + k) { CoreState.fresh with fillTarget := 4 }) s
    (s.frameDue 0 4, s.sendForecast.pwr.frames) = (true, 0) := by decide +kernel

end Sys2Proof.Tests
end

section
/-!
PROOFS. The Stope core (04_stope_core.md): the fill level (O14) and the beginning of an array pass (O16). First what a Tally's
signal and a dispatch do, then the fill level; then the tables of the feeders, what a pass reads, and what its dispatch leaves.
-/
namespace Sys2Proof.StopeCore
open Sys2Proof Sys2Proof.Machine

/-! ### Signals and dispatches -/

/-- A running job that has been stopped has its stop pending (R71). -/
theorem stopPending_of_stopJob (s : State) (l : Fin 4) (j : Job) (h : ((s.stopJob l).lvl l).job = some j)
    (hr : j.phase = .running) : j.stopPending = true := by
  unfold State.stopJob at h
  simp only [State.lvl_updJob_same, Option.map_eq_some_iff] at h
  obtain ⟨i, -, rfl⟩ := h
  by_cases hi : i.phase = .running
  · simp [hi]
  · simp [hi] at hr

/-- Where a signal meets a full count, the overflow is raised and the job stops; all of that is noting (R78). -/
theorem overflow_noted (s : State) (l : Fin 4) (n e : Nat) :
    let t := (s.raise 0x2021 (some l) 0 n e).stopJob l
    Noted s t ∧ Raises s t (s.event 0x2021 (some l) 0 n e 0 0 0) ∧
      ∀ j, (t.lvl l).job = some j → j.phase = .running → j.stopPending = true :=
  ⟨(s.raise_noted _ _ _ _ _ _ _ _).trans (State.stopJob_noted _ l), s.raise_raises _ _ _ _ _ _ _ _,
    fun j hj hr => stopPending_of_stopJob _ l j hj hr⟩

/-- A signal does to its Tally what R78 and R79 say. -/
theorem signalTally_signalled (s : State) (l : Fin 4) (n e : Nat) : signalled s (s.signalTally l n e) l n e := by
  unfold signalled State.signalTally
  by_cases hi : ((s.lvl l).tally n).initAt = s.now + 1
  · by_cases hf : ((s.lvl l).tally n).was = 0xFFFF#16
    · simpa [hi, hf] using overflow_noted s l n e
    · simp [hi, hf]
  · by_cases hf : ((s.lvl l).tally n).count = 0xFFFF#16
    · simpa [hi, hf] using overflow_noted s l n e
    · simp [hi, hf]

/-- A command that completes at its dispatch signals its Tally where its entry asks for it, and does nothing else then. -/
theorem completeNow_completesNow (s : State) (l : Fin 4) (e : Nat) (r : Ready) :
    completesNow s (s.completeNow r (r.cmd l e)) l e r := by
  unfold completesNow State.completeNow
  refine ⟨fun hs => ?_, fun hs => if_neg (Bool.eq_false_iff.1 hs)⟩
  rw [if_pos hs]
  exact signalTally_signalled s l r.en.tally e

/-- A ready entry is dispatched, and its command goes on from there (R68). -/
theorem dispatch_of_ready {s : State} {l : Fin 4} {e : Nat} {engOk : Nat → Bool} {opcode : Nat} {r : Ready}
    (h : s.ready l e engOk opcode = some r) (go : State → Ready → Cmd → State) :
    s.dispatch l e engOk opcode go = .next (go (s.dispatched l e r) r (r.cmd l e)) := by
  unfold State.dispatch
  rw [h]

section
variable (s : State) (l : Fin 4) (e : Nat) (r : Ready)

theorem dispatched_cores : (s.dispatched l e r).cores = s.cores := by rw [(s.dispatched_dispatches l e r).rest]

theorem dispatched_core (n : Nat) : (s.dispatched l e r).core n = s.core n := by
  unfold State.core
  rw [dispatched_cores]

theorem dispatched_now : (s.dispatched l e r).now = s.now := by rw [(s.dispatched_dispatches l e r).rest]

theorem dispatched_arith (n : Nat) : (s.dispatched l e r).arith n = s.arith n := by
  unfold State.arith State.quad
  rw [(s.dispatched_dispatches l e r).rest]

end

/-! ### The fill level (R108, R109) -/

/-- What FILL_SET leaves of a core: a TARGET of 5 to 7 is treated as 4, and a STEP of 0 jumps. -/
def filled (k : CoreState) (target step from_ : Nat) : CoreState :=
  { k with fillTarget := min target 4, fillStep := step, fillFrom := from_,
           fillLevel := if step = 0 then min target 4 else k.fillLevel }

/-- FILL_SET of a ready entry: the dispatch, the new TARGET and STEP, the report of a TARGET above 4, and the completion. -/
theorem exec_fillSet {s : State} {l : Fin 4} {e : Nat} {r : Ready} (h : s.ready l e isCoreEng 0x01 = some r) :
    let t := bitField r.en.desc 0 3
    let u := s.dispatched l e r
    let v := u.setCore r.en.engine (filled (s.core r.en.engine) t (bitField r.en.desc 8 8) (s.arith r.en.engine))
    let w := if 4 < t then v.raise 0x2012 (some l) r.en.engine 0 e else v
    exec (.fillSet l e) s = .next (w.completeNow r (r.cmd l e)) := by
  show execFillSet l e s = _
  unfold execFillSet
  rw [dispatch_of_ready h]
  dsimp only [State.updCore]
  rw [dispatched_core, dispatched_arith]
  rfl

/-- A core whose effective level differs from TARGET and whose interval has passed takes one step (R109). -/
theorem exec_fillLevelStep_due (s : State) (n : Fin 16) (hl : (s.core n.val).fillLevel ≠ (s.core n.val).fillTarget)
    (ht : (s.core n.val).nextStep ≤ s.arith n.val) :
    exec (.fillLevelStep n) s = .next (s.updCore n.val fun k =>
      { k with fillLevel := if k.fillLevel < k.fillTarget then k.fillLevel + 1 else k.fillLevel - 1, fillFrom := k.nextStep }) :=
  if_neg (not_or.2 ⟨hl, Nat.not_lt.2 ht⟩)

/-- At TARGET, and before the interval has passed, nothing changes (R109). -/
theorem exec_fillLevelStep_idle (s : State) (n : Fin 16)
    (h : (s.core n.val).fillLevel = (s.core n.val).fillTarget ∨ s.arith n.val < (s.core n.val).nextStep) :
    exec (.fillLevelStep n) s = .next s := if_pos h

/-- Settles O14: FILL_SET by its one equation, FILL_LEVEL_STEP by whether its step is due. -/
theorem fillLevels : Obligations.FillLevels := by
  unfold Obligations.FillLevels
  refine ⟨fun s l e r h => ⟨s.dispatched l e r, _, _, exec_fillSet h, s.dispatched_dispatches l e r, fun ht => ?_, fun ht => ?_,
    completeNow_completesNow _ l e r⟩, fun s n => ⟨exec_fillLevelStep_due s n, exec_fillLevelStep_idle s n⟩⟩
  · exact if_neg (Nat.not_lt.2 ht)
  · rw [if_pos ht]
    exact ⟨State.raise_noted _ _ _ _ _ _ _ _ _, State.raise_raises _ _ _ _ _ _ _ _ _⟩

/-! ### Tables -/

/-- A table with every value changed reads as the changed value. -/
theorem tabGet_map {α β : Type} (g : α → β) (d : α) (t : Tab α) (k : Nat) :
    tabGet (g d) (t.map fun p => (p.1, g p.2)) k = g (tabGet d t k) := by
  induction t with
  | nil => rfl
  | cons p t ih =>
    simp only [List.map_cons, tabGet, ih]
    exact (apply_ite g _ _ _).symm

/-- A table that lists the nonempty values of some keys reads as those values. -/
theorem tabGet_filterMap_nonempty {α : Type} (v : Nat → List α) (ks : List Nat) (k : Nat) :
    tabGet [] (ks.filterMap fun i => if (v i).isEmpty then none else some (i, v i)) k = if k ∈ ks then v k else [] := by
  induction ks with
  | nil => rfl
  | cons i ks ih =>
    simp only [List.isEmpty_iff] at ih ⊢
    by_cases hv : v i = []
    · by_cases hk : k = i
      · subst hk; simp [hv, ih]
      · simp [hv, ih, hk]
    · by_cases hk : k = i
      · subst hk; simp [hv, tabGet]
      · simp [hv, tabGet, hk, ih]

/-- One value written at some keys is read at those and at no other. -/
theorem tabGet_foldl_put {α : Type} [DecidableEq α] (d v : α) (ks : List Nat) (t : Tab α) (k : Nat) :
    tabGet d (ks.foldl (fun t i => tabPut d t i v) t) k = if k ∈ ks then v else tabGet d t k := by
  induction ks generalizing t with
  | nil => rfl
  | cons i ks ih =>
    rw [List.foldl_cons, ih]
    by_cases hk : k = i
    · subst hk; simp
    · simp [hk]

/-! ### Feeders (R87, R96) -/

/-- Slots that come to a table of feeders stand behind those that wait there. -/
theorem slots_append (t : Tab Feeder) (new : Tab (List Slot)) {k : Nat} (hk : k < 512) :
    (tabGet ⟨[], []⟩ (feedersOf (appendFeeds (slotsOf t) new)) k).slots = (tabGet ⟨[], []⟩ t k).slots ++ tabGet [] new k := by
  have hf : tabGet ⟨[], []⟩ (feedersOf (appendFeeds (slotsOf t) new)) k = Feeder.of (tabGet [] (appendFeeds (slotsOf t) new) k) :=
    tabGet_map Feeder.of [] _ k
  have ha : tabGet [] (appendFeeds (slotsOf t) new) k = tabGet [] (slotsOf t) k ++ tabGet [] new k :=
    (tabGet_filterMap_nonempty _ _ k).trans (if_pos (List.mem_range.2 hk))
  have hs : tabGet [] (slotsOf t) k = (tabGet ⟨[], []⟩ t k).slots := tabGet_map Feeder.slots ⟨[], []⟩ t k
  rw [hf, ha, hs]
  exact List.take_append_drop _ _

/-- The queue of a feeder that has been filled holds at most 32 slots. -/
theorem queue_length_le (t : Tab (List Slot)) (k : Nat) : (tabGet ⟨[], []⟩ (feedersOf t) k).queue.length ≤ 32 := by
  have h : tabGet ⟨[], []⟩ (feedersOf t) k = Feeder.of (tabGet [] t k) := tabGet_map Feeder.of [] t k
  rw [h]
  exact List.length_take_le feederDepth _

theorem mem_used (d : PassDesc) (a : Nat) : a ∈ d.used ↔ a < 4 ∧ bitAt d.arrays a = true := by
  simp [PassDesc.used]

/-! ### What a pass reads -/

/-- Reads one after another that write nothing write nothing together. -/
theorem foldl_writes {α β : Type} (f : α × Acc → β → α × Acc) (h : ∀ x y, (f x y).2.writes = x.2.writes) (ys : List β)
    (x : α × Acc) : (ys.foldl f x).2.writes = x.2.writes := by
  induction ys generalizing x with
  | nil => rfl
  | cons y ys ih => rw [List.foldl_cons, ih, h]

theorem readRow_writes (s : State) (c : Cmd) (a : Acc) (d : PassDesc) (f : Form) (core addr scale : Nat) :
    (readRow s c a d f core addr scale).2.writes = a.writes := by
  unfold readRow
  dsimp only
  split <;> rfl

theorem readBlocked_writes (s : State) (c : Cmd) (a : Acc) (d : PassDesc) (f : Form) (core base n : Nat) (trans : Bool) :
    (readBlocked s c a d f core base n trans).2.writes = a.writes := by
  unfold readBlocked
  refine foldl_writes _ ?_ (List.range d.k) (([] : List Nat), a)
  exact fun _ _ => rfl

theorem readWeight_writes (s : State) (c : Cmd) (a : Acc) (d : PassDesc) (f : Form) (trans : Bool) (core arr n : Nat) :
    (readWeight s c a d f trans core arr n).2.writes = a.writes := by
  unfold readWeight
  dsimp only
  split
  · exact readBlocked_writes s c a d f core _ n trans
  · exact readRow_writes s c a d f core _ _

/-- The operands of a pass are read without a write (R117, R128). -/
theorem readPass_writes (s : State) (c : Cmd) (d : PassDesc) (f : Form) (trans : Bool) (core : Nat) :
    (readPass s c d f trans core).2.writes = [] := by
  unfold readPass
  refine (foldl_writes _ (fun x arr => foldl_writes _ (fun y q => ?_) (d.columns f) x) d.used _).trans
    ((foldl_writes _ (fun x qr => ?_) _ _).trans ?_)
  · exact readWeight_writes s c y.2 d f trans core arr q.2.2
  · exact readRow_writes s c x.2 d f core _ _
  · split <;> rfl

/-! ### The dispatch of a pass -/

/-- A core whose feeders take the slots of a pass, with the arrays of the pass marked with its format. -/
def fed (k : CoreState) (d : PassDesc) (feeds : Tab (List Slot) × Tab (List Slot)) : CoreState :=
  { k with lastFormat := d.used.foldl (fun t arr => tabPut 0 t arr d.format) k.lastFormat }.feed
    (appendFeeds · feeds.1) (appendFeeds · feeds.2)

theorem fed_rowFeed (k : CoreState) (d : PassDesc) (feeds : Tab (List Slot) × Tab (List Slot)) :
    (fed k d feeds).rowFeed = feedersOf (appendFeeds (slotsOf k.rowFeed) feeds.1) := by
  simp only [fed, CoreState.feed]

theorem fed_colFeed (k : CoreState) (d : PassDesc) (feeds : Tab (List Slot) × Tab (List Slot)) :
    (fed k d feeds).colFeed = feedersOf (appendFeeds (slotsOf k.colFeed) feeds.2) := by
  simp only [fed, CoreState.feed]

/-- Nothing of the core but its feeders and the formats of its arrays changes. -/
theorem fed_frame (k : CoreState) (d : PassDesc) (feeds : Tab (List Slot) × Tab (List Slot)) :
    fed k d feeds = { k with
      lastFormat := (fed k d feeds).lastFormat, rowFeed := (fed k d feeds).rowFeed, colFeed := (fed k d feeds).colFeed } := by
  simp only [fed, CoreState.feed]

/-- The arrays of the pass have its format, the others the one they had (R112). -/
theorem tabGet_fed_lastFormat (k : CoreState) (d : PassDesc) (feeds : Tab (List Slot) × Tab (List Slot)) (a : Nat) :
    tabGet 0 (fed k d feeds).lastFormat a = if a < 4 ∧ bitAt d.arrays a = true then d.format else tabGet 0 k.lastFormat a := by
  have h := tabGet_foldl_put 0 d.format d.used k.lastFormat a
  simp only [mem_used] at h
  exact h

/-- What the feeders of a pass issue: its operands as read after its dispatch. -/
def passFeeds (s : State) (l : Fin 4) (e : Nat) (r : Ready) (d : PassDesc) (f : Form) (trans : Bool) :
    Tab (List Slot) × Tab (List Slot) :=
  let u := s.dispatched l e r
  (readPass u (r.cmd l e) d f trans r.en.engine).1.feeds d f (u.firstIssue l r.en.engine d f / arithParts)

/-- The part as a pass leaves it before its command begins: dispatched, the feeders of its core filled. -/
def fedState (s : State) (l : Fin 4) (e : Nat) (r : Ready) (d : PassDesc) (f : Form) (trans : Bool) : State :=
  (s.dispatched l e r).setCore r.en.engine (fed (s.core r.en.engine) d (passFeeds s l e r d f trans))

section
variable (s : State) (l : Fin 4) (e : Nat) (r : Ready) (d : PassDesc) (f : Form) (trans : Bool)

theorem fedState_core_same :
    (fedState s l e r d f trans).core r.en.engine = fed (s.core r.en.engine) d (passFeeds s l e r d f trans) :=
  State.core_setCore_same _ _ _

theorem fedState_core_ne {k : Nat} (hk : k ≠ r.en.engine) : (fedState s l e r d f trans).core k = s.core k :=
  (State.core_setCore_ne _ _ hk).trans (dispatched_core s l e r k)

end

/-- What a pass is to do when it completes. -/
def passAfter (r : Ready) (opcode : Nat) : After := .pass ⟨r.img.descNat r.en 64, opcode, [], [], [], 0, false, none⟩

/-- A ready entry with a valid descriptor begins its pass. -/
theorem runPass_of_ready {s : State} {l : Fin 4} {e opcode : Nat} {r : Ready} {f : Form} {trans : Bool}
    (h : s.ready l e isCoreEng opcode = some r) (hok : (PassDesc.ofNat (r.img.descNat r.en 64)).ok f trans = true) :
    let d := PassDesc.ofNat (r.img.descNat r.en 64)
    let u := s.dispatched l e r
    runPass l e opcode f trans s = .next ((fedState s l e r d f trans).launch (r.cmd l e)
      (readPass u (r.cmd l e) d f trans r.en.engine).2 [(Contribution.start d.tensor).format d.outFormat] (passAfter r opcode)
      d.arrays (u.lastIssue l r.en.engine d f d.kGroups)) := by
  unfold runPass
  rw [dispatch_of_ready h]
  dsimp only
  rw [if_pos hok, State.updCore, dispatched_core]
  rfl

/-- A dispatch does not depend on the cores. -/
theorem dispatches_withCores {s t : State} {l : Fin 4} {r : Ready} {add : List Running} (h : Dispatches s t l r add)
    (x : Tab CoreState) : Dispatches { s with cores := x } { t with cores := x } l r add where
  rest := by rw [h.rest]
  others := h.others
  level := h.level
  job := h.job
  fn := h.fn
  engines := h.engines
  engine := h.engine
  tally := h.tally

/-- A pass of any form and opcode begins as R112, R117 and R118 say. -/
theorem runPass_begins {s : State} {l : Fin 4} {e opcode : Nat} {r : Ready} {f : Form} {trans : Bool}
    (h : s.ready l e isCoreEng opcode = some r) (hok : (PassDesc.ofNat (r.img.descNat r.en 64)).ok f trans = true) :
    let d := PassDesc.ofNat (r.img.descNat r.en 64)
    ∃ t q, runPass l e opcode f trans s = .next t ∧ Dispatches { s with cores := t.cores } t l r [q] ∧ q.begun s e r r.lstep ∧
      q.writes = [] ∧ q.contribs = [(Contribution.start d.tensor).format d.outFormat] ∧ q.arrays = d.arrays ∧
      q.after = passAfter r opcode ∧ t.cores = (fedState s l e r d f trans).cores := by
  intro d
  let v := fedState s l e r d f trans
  have hv : Dispatches { s with cores := v.cores } v l r [] := dispatches_withCores (s.dispatched_dispatches l e r) v.cores
  have hl := hv.launch (r.cmd l e) (readPass (s.dispatched l e r) (r.cmd l e) d f trans r.en.engine).2
    [(Contribution.start d.tensor).format d.outFormat] (passAfter r opcode) d.arrays
    ((s.dispatched l e r).lastIssue l r.en.engine d f d.kGroups) rfl rfl
  have hc := congrArg State.cores hl.rest
  refine ⟨_, _, runPass_of_ready h hok, hc ▸ hl, ⟨rfl, rfl, rfl, dispatched_now s l e r, rfl, rfl, rfl⟩, ?_, rfl, rfl, rfl, hc⟩
  exact congrArg List.reverse (readPass_writes _ _ d f trans _)

/-- Settles O16: each of the five opcodes runs a pass of its form, which begins, and whose core is fed. -/
theorem passesBegin : Obligations.PassesBegin := by
  unfold Obligations.PassesBegin
  intro p hp s l e r h d n hok u feeds waits
  have hexec : exec (p.1 l e) s = runPass l e p.2.1 p.2.2.1 p.2.2.2 s := by
    simp only [List.mem_cons, List.not_mem_nil, or_false] at hp
    rcases hp with rfl | rfl | rfl | rfl | rfl <;> rfl
  obtain ⟨t, q, ht, hdisp, hbegun, hwrites, hcontribs, harrays, hafter, hcores⟩ := runPass_begins h hok
  have hcore (k : Nat) : t.core k = (fedState s l e r d p.2.2.1 p.2.2.2).core k := by unfold State.core; rw [hcores]
  have hn : t.core n = fed (s.core n) d feeds := (hcore n).trans (fedState_core_same s l e r d _ _)
  refine ⟨t, q, hexec.trans ht, hdisp, hbegun, hwrites, hcontribs, harrays, hafter,
    fun k hk => (hcore k).trans (fedState_core_ne s l e r d _ _ hk), by rw [hn, fed_frame], fun k hk => ?_, fun a => ?_⟩
  · rw [hn, fed_rowFeed, fed_colFeed]
    exact ⟨slots_append _ _ hk, slots_append _ _ hk, queue_length_le _ k, queue_length_le _ k⟩
  · rw [hn, tabGet_fed_lastFormat]

end Sys2Proof.StopeCore
end
